-- ==== Sys2Proof/Word.lean ====
section
/-!
DEFINITION. The word types of the module: 64-bit registers and addresses, bytes, and the plain truncations
between natural numbers and words.
-/

namespace Sys2Proof

/-- R11: a register, and a doubleword of memory. -/
abbrev Word := BitVec 64

/-- One byte. -/
abbrev Byte := BitVec 8

/-- A 64-bit word from a natural number, wrapping. -/
def Word.of (n : Nat) : Word := BitVec.ofNat 64 n

end Sys2Proof
end

