-- ==== Sys2Proof/Syntax.lean ====
section
/-!
DEFINITION. The commands the block takes: one constructor of `Instr` per row of spec/opcode_table.json, with
the operands of the row. The facts of the physical world that a step depends on (straps, failed lanes, sensor
readings, the ECC condition of a codeword) are operands of the command that meets them.
-/

namespace Sys2Proof.Machine

/-! ## Places -/

/-- CD0 to CD7 (R3). -/
abbrev Cd := Fin 8
/-- Site ids 0 to 10 (R5). -/
abbrev Site := Fin 11
/-- The spindle's ten optical ports (R19): 0 to 7 are OC0 to OC7, 8 and 9 are OH0 and OH1. -/
abbrev Port := Fin 10
/-- A cluster of the package, eight per compute die in order (R3). -/
abbrev ClIx := Fin 64
/-- An accelerator core of the package, sixteen per cluster in order (R3). -/
abbrev CoreIx := Fin 1024

/-- A thread group: the core it lives on and its group slot (R157). -/
structure GroupRef where
  core : CoreIx
  slot : Fin 256
  deriving DecidableEq, Repr

/-- A package link (R23). -/
inductive LinkId where
  | edge (n : Fin 8)
  | oc (n : Fin 8)
  | oh (n : Fin 2)
  deriving DecidableEq, Repr

/-- An end of a link: `a` is the west-to-east source CDn of En, or the spindle of an optical link; `b` is
CD((n+1) mod 8), or the far die. -/
inductive LinkEnd where
  | a | b
  deriving DecidableEq, Repr

/-- A host core. -/
structure HostRef where
  hd : Fin 2
  core : Fin 48
  deriving DecidableEq, Repr

/-- A shuttle engine of a compute die or of the hub (R3). -/
inductive SeRef where
  | cd (n : Cd) (e : Fin 16)
  | hub (e : Fin 8)
  deriving DecidableEq, Repr

/-- One of the two HBM4 controllers of a compute die. -/
structure CtrlRef where
  cd : Cd
  c : Fin 2
  deriving DecidableEq, Repr

/-! ## Masters and accesses -/

/-- Privilege mode of a host core. -/
inductive HostMode where
  | m | hs | s | u | vs | vu
  deriving DecidableEq, Repr

/-- Privilege mode of a bobbin core. -/
inductive BobMode where
  | m | s | u
  deriving DecidableEq, Repr

/-- The masters of R91. -/
inductive Master where
  | host (hd : Fin 2) (core : Fin 48) (mode : HostMode)
  | bobbin (cd : Cd) (b : Fin 2) (mode : BobMode)
  | accel (c : CoreIx)
  | beryl
  | onyx
  | jtag
  deriving DecidableEq, Repr

/-- A register access: a store of a doubleword or a load (R72). -/
inductive Access where
  | store (data : Word)
  | load
  deriving DecidableEq, Repr

/-- The three register aliases of R79. -/
inductive AliasKind where
  | set | clear | toggle
  deriving DecidableEq, Repr

/-- The two registers of an MSI source entry (R101). -/
inductive MsiHalf where
  | addr | ctrl
  deriving DecidableEq, Repr

/-! ## Dies and links -/

/-- A signed firmware image as its verifier meets it (R654, R656): its digest, the key that signed it, its
security version and its signature. -/
structure FwFacts where
  digest : List Byte
  keyId : List Byte
  version : BitVec 6
  sigR : List Byte
  sigS : List Byte
  deriving DecidableEq, Repr

/-- What a die's straps, fuses and self-test give when its reset is released (R16, R51, R723). `kind` is the
fused kind, 0 hub, 1 compute, 2 host; `answers` is false for a port whose die gives no answer at all; `fw` is the
M-mode firmware of a host die. -/
structure DieFacts where
  answers : Bool
  straps : BitVec 7
  kind : BitVec 4
  stepping : BitVec 4
  caps : BitVec 32
  selfTest : Bool
  fw : Option FwFacts
  deriving DecidableEq, Repr

/-- An entry of the key manifest (R653): KEY_ID, the roles in the order of R653, and the public key it names. -/
structure ManEntry where
  keyId : List Byte
  roles : BitVec 5
  x : Nat
  y : Nat
  deriving DecidableEq, Repr

/-- A key manifest (R652 to R654): its entries, its security version, the minimum version of unlock tokens, the
revocation bits it lists, its digest, and whether the root key's signature over it verifies. -/
structure ManFacts where
  entries : List ManEntry
  version : BitVec 6
  minToken : BitVec 6
  listed : BitVec 16
  digest : List Byte
  good : Bool
  deriving DecidableEq, Repr

/-- What the persistent store and the ROMs give a boot (R656, R707): the manifest, the Onyx firmware, the bobbin
fall-back runtime, Beryl's measurement, the version of the boot ROM, and the SHA-384 of the module's IDK public key (R649,
R674). -/
structure StoreFacts where
  manifest : ManFacts
  onyxFw : FwFacts
  bobFw : FwFacts
  beryl : List Byte
  rom : List Byte
  idk : List Byte
  deriving DecidableEq, Repr

/-- Units of one group or waveguide that an end's receivers find failed: data lanes or wavelengths, and spares. -/
structure UnitFault where
  group : Fin 32
  failed : Nat
  spares : Nat
  deriving DecidableEq, Repr

/-- The failed lanes or wavelengths at the receivers of each end. -/
structure LinkFaults where
  a : List UnitFault
  b : List UnitFault
  deriving DecidableEq, Repr

/-- A sideband hello (R36 step 2). -/
structure Hello where
  siteId : BitVec 4
  siteType : BitVec 2
  stepping : BitVec 4
  caps : BitVec 32
  deriving DecidableEq, Repr

/-! ## Timing, arbitration and idle states -/

/-- The readings of one governor evaluation: package power in W, input power averaged over 1 ms in W, and for each
site, in order, its junction temperature in degrees and power in units of 0.1 W (R118 to R121, R690). -/
structure GovReadings where
  power : Nat
  input : Nat
  dies : List (Nat × Nat)
  deriving DecidableEq, Repr

/-- A request at the head of an input of a hop: the input and its class 0 to 3 (R122). -/
structure HopRequest where
  input : Nat
  cls : Fin 4
  deriving DecidableEq, Repr

/-- A unit of the idle manager (R137). -/
inductive IdleUnit where
  | core (c : CoreIx)
  | cluster (cl : ClIx)
  | die (cd : Cd)
  deriving DecidableEq, Repr

/-! ## Instructions of the accelerator cores -/

/-- The operand fields of an instruction word (R160). -/
structure Fields where
  dst : BitVec 8
  a : BitVec 8
  b : BitVec 8
  c : BitVec 16
  pred : BitVec 4
  mod : BitVec 8
  deriving DecidableEq, Repr

/-! ## Synchronization -/

/-- A queued waiter of a synchronization object: a group's WAIT, one lane's acquire, or the WAIT command of a
command ring. -/
inductive WaiterRef where
  | group (g : GroupRef)
  | lane (g : GroupRef) (lane : Fin 64)
  | ring (r : BitVec 6)
  deriving DecidableEq, Repr

/-! ## Error records -/

/-- A detection that reaches the RAS block (R737 to R739). `severity`: 0 CE, 1 UCE, 2 FATAL. -/
structure Detection where
  severity : Fin 3
  cls : BitVec 6
  die : BitVec 4
  unit : BitVec 8
  code : BitVec 8
  addr : Option (BitVec 48)
  consumed : Bool
  arg0 : Word
  arg1 : Word
  deriving DecidableEq, Repr

/-! ## Reports of the engines -/

/-- A created-NaN report that reaches the sentinel (R288, R289, R293): engine 0 lane array, 1 matrix, 2 vector. -/
structure NanReport where
  engine : BitVec 2
  coord : Bool
  group : BitVec 8
  row : BitVec 8
  col : BitVec 16
  cls : BitVec 4
  opcode : BitVec 8
  cause : BitVec 3
  pc : BitVec 48
  beats : Word
  deriving DecidableEq, Repr

/-- The generator register an SR_TEST_WRITE writes (R310). -/
inductive SrReg where
  | seed | k1 | k2
  deriving DecidableEq, Repr

/-! ## Memory -/

/-- The ECC condition of a codeword as its controller reads it (R429 to R431). -/
inductive CodewordCond where
  | clean
  | corrected (symbol : Fin 136)
  | uncorrectable
  | onDie
  deriving DecidableEq, Repr

/-- Requester tags of R405. -/
inductive ReqTag where
  | part (p : BitVec 3)
  | host
  | onyx
  deriving DecidableEq, Repr

/-- A request at a memory controller, within one codeword of 64 B: a read of the codeword, or a write of the given
bytes from `pa` on. `cond` is the ECC condition a read finds. -/
structure MemRequest where
  tag : ReqTag
  pa : BitVec 40
  write : Option (List Byte)
  cond : CodewordCond
  deriving DecidableEq, Repr

/-- A sliver request (R416 to R419): requester tag and sector address. -/
structure SliverRequest where
  tag : ReqTag
  pa : BitVec 40
  deriving DecidableEq, Repr

/-- A request to a reduction unit (R420 to R424). -/
structure ReductionRequest where
  tag : ReqTag
  pa : BitVec 40
  op : BitVec 4
  fmt : BitVec 4
  operand : Word
  compare : Word
  deriving DecidableEq, Repr

/-- Holders of lines: cluster L2s, bobbin caches, host L2s and the far cache (R467). -/
inductive Holder where
  | l2 (cl : ClIx)
  | bob (cd : Cd)
  | host (hd : Fin 2)
  | xl
  deriving DecidableEq, Repr

/-- Requesters of uncached home requests. -/
inductive Requester where
  | se (e : SeRef)
  | host (h : HostRef)
  | pcie (hd : Fin 2)
  | core (c : CoreIx)
  | onyx
  | twin
  deriving DecidableEq, Repr

/-- Snoops and invalidations (R471). -/
inductive SnoopKind where
  | share | inval | recall
  deriving DecidableEq, Repr

/-- A cache with interlock and commands. -/
inductive CacheRef where
  | l1 (c : CoreIx)
  | l2 (cl : ClIx)
  | xl
  deriving DecidableEq, Repr

/-- A request to tile memory (R452 to R455). -/
structure TileRequest where
  core : CoreIx
  pa : BitVec 48
  write : Option (List Byte)
  deriving DecidableEq, Repr

/-- A translation walker (R514). -/
inductive Walker where
  | cluster (cl : ClIx)
  | die (cd : Cd)
  | hub
  deriving DecidableEq, Repr

/-- What a walk translates. -/
structure WalkRequest where
  ctx : BitVec 8
  va : BitVec 48
  write : Bool
  exec : Bool
  deriving DecidableEq, Repr

/-- A unit that reports a translation fault (R544). -/
inductive FaultUnit where
  | core (c : CoreIx)
  | se (e : SeRef)
  | ring (r : BitVec 6)
  deriving DecidableEq, Repr

/-! ## Weave, host and twin -/

/-- A member of the vote of R587. -/
inductive Voter where
  | cluster (cl : ClIx)
  | se (e : SeRef)
  deriving DecidableEq, Repr

/-- A memory request of a PCIe device (R613). -/
structure DeviceRequest where
  addr : Word
  reqId : BitVec 16
  write : Option (List Byte)
  len : Nat
  ep : Bool
  deriving DecidableEq, Repr

/-- How a root port's link stands (R645). -/
structure PcieLink where
  speed : Fin 7
  width : Fin 17
  dpc : Bool
  deriving DecidableEq, Repr

/-- What the twin's mutual authentication shows (R667): whether the peer's chain ends at the root and its signatures
verify, the measurement slots it signs, whether it is in DEBUG, the low 64 bits of its IDK hash, and whether the peer
accepts this module. -/
structure TwinAuth where
  chain : Bool
  slots : List (List Byte)
  debug : Bool
  idk : Word
  peerAccepts : Bool
  deriving DecidableEq, Repr

/-- What the partner shows when a mode is entered (R636): its ROLE, the MODE it writes, ENABLE of its RXJ and its
WV_DIGEST. -/
structure PeerFacts where
  role : Bool
  mode : BitVec 2
  rxj : Bool
  digest : List Word
  deriving DecidableEq, Repr

/-- A request of the partner (R627). -/
structure PartnerRequest where
  pa : BitVec 40
  write : Option (List Byte)
  len : Nat
  deriving DecidableEq, Repr

/-- A mirror record (R630). -/
structure MirrorRecord where
  pa : BitVec 40
  data : List Byte
  poison : Bool
  deriving DecidableEq, Repr

/-- An acknowledgement of mirror records (R631). -/
structure MirrorAck where
  count : Nat
  markApplied : Option (BitVec 32)
  deriving DecidableEq, Repr

/-- A heartbeat from the partner's Beryl (R635). -/
structure WitnessBeat where
  role : Bool
  mode : BitVec 2
  fenced : Bool
  resync : Bool
  deriving DecidableEq, Repr

/-- A duplex triple (R641). -/
structure Triple where
  ring : BitVec 6
  index : BitVec 32
  digest : Word
  deriving DecidableEq, Repr

/-! ## Power and management -/

/-- Beryl's coolant reading (R711). -/
structure Coolant where
  inlet : BitVec 8
  outlet : BitVec 8
  flow : BitVec 12
  deriving DecidableEq, Repr

/-- Causes of a thermal trip (R712). -/
inductive TripCause where
  | flow | inlet | junction
  deriving DecidableEq, Repr

/-- A firmware update (R713): Beryl's own firmware with its measurement and Beryl's verdict on it, or an image of the
persistent store. -/
inductive FwUpdate where
  | beryl (meas : List Byte) (good : Bool)
  | onyxFw (img : FwFacts)
  | bobFw (img : FwFacts)
  | manifest (m : ManFacts)
  deriving DecidableEq, Repr

/-- What a package power-on meets (R723): the external capacitance in µF; what the store was manufactured with, for a
module whose store holds nothing yet; the ROM's self-test; whether the tamper mesh is open; whether the reference input
is in tolerance; the dies' straps and fuses; and the faults of the links. -/
structure PowerFacts where
  capUf : Nat
  made : Option StoreFacts
  romTest : Bool
  meshOpen : Bool
  refOk : Bool
  dies : List (Nat × DieFacts)
  links : List (Nat × LinkFaults)
  deriving DecidableEq, Repr

end Sys2Proof.Machine

namespace Sys2Proof

open Machine

/-- The commands: one constructor per row of spec/opcode_table.json. -/
inductive Instr where
  /-- DIE_RESET_RELEASE (R17). A die's reset is released, and it reads its straps and accepts or rejects them. -/
  | dieResetRelease (site : Site) (facts : DieFacts)
  /-- ENUMERATION_ANSWER (R19). The spindle receives a die's enumeration answer on one of its ten optical ports and checks the site id against the port. -/
  | enumerationAnswer (port : Port)
  /-- ENUM_RESPONSE_TIMEOUT (R18). No answer arrives on a port within 1 ms of die release, so the spindle holds that port's die. -/
  | enumResponseTimeout (port : Port)
  /-- LINK_TRAINING (R36). Full initial training of a link starts after both end dies leave reset or ENABLE returns to 1. -/
  | linkTraining (link : LinkId) (faults : LinkFaults)
  /-- HELLO (R38). A sideband hello from the peer arrives and is checked against the expected site id. -/
  | hello (link : LinkId) (atEnd : LinkEnd) (peer : Hello)
  /-- WIDTH_COMMIT (R40). The peer's active-set commit arrives; the link enters service if it matches the local commit, or the attempt fails. -/
  | widthCommit (link : LinkId) (atEnd : LinkEnd) (peerSet : BitVec 32)
  /-- TRAINING_STEP_TIMEOUT (R41). A training step exceeds its bound; the attempt fails, and the link goes DOWN after three failures. -/
  | trainingStepTimeout (link : LinkId)
  /-- OL_RETRAIN (R60). A write of 1 to HUB_LINK_OL_CTRL RETRAIN starts a retrain of that optical link. -/
  | olRetrain (m : Master) (n : Port) (faults : LinkFaults)
  /-- OL_ENABLE_WRITE (R60). A write of optical-link ENABLE holds the link DOWN and takes the far die out of service, or restarts initial training. -/
  | olEnableWrite (m : Master) (n : Port) (en : Bool)
  /-- EDGE_RETRAIN (R65). A write of 1 to CD_LINK_EDGE_CTRL RETRAIN starts a retrain of that edge link. -/
  | edgeRetrain (m : Master) (cd : Cd) (e : Fin 2) (faults : LinkFaults)
  /-- EDGE_ENABLE_WRITE (R65). A write of edge-link ENABLE holds the link DOWN and reroutes its traffic, or restarts initial training. -/
  | edgeEnableWrite (m : Master) (cd : Cd) (e : Fin 2) (en : Bool)
  /-- RETRAIN_ALL (R59). A write of 1 to RETRAIN_ALL starts a retrain of every optical link in service. -/
  | retrainAll (m : Master) (faults : List (Nat × LinkFaults))
  /-- FLIT_CRC_FAIL (R44). A flit fails its CRC and is resent from the sender's retry buffer. -/
  | flitCrcFail (link : LinkId) (sender : LinkEnd) (flit : Nat)
  /-- RETRY_WINDOW_CLOSE (R46). A 1 ms resend-count window closes; a count rise above 2^16 starts a retrain. -/
  | retryWindowClose (link : LinkId) (atEnd : LinkEnd) (faults : LinkFaults)
  /-- LASER_AGEING (R34). An active laser source's ageing reaches the warning or swap threshold. -/
  | laserAgeing (k : Fin 4) (bias power : BitVec 16) (ageing : BitVec 8)
  /-- LASER_FAILURE (R35). A laser source fails; the spindle swaps it out, raises the single-source alarm, or takes every optical link DOWN. -/
  | laserFailure (k : Fin 4)
  /-- REGISTER_WRITE (R12). A write to a register that has no row of its own, applied under its field access types and gating. -/
  | registerWrite (m : Master) (pa : BitVec 48) (size : Nat) (acc : Access)
  /-- ALIAS_WRITE (R79). A set, clear or toggle alias write is applied as one indivisible read-modify-write of RW and RWP fields. -/
  | aliasWrite (m : Master) (pa : BitVec 48) (kind : AliasKind) (data : Word)
  /-- VIOL_FIRST_READ (R100). A read of VIOL_FIRST returns the captured violation and clears it. -/
  | violFirstRead (m : Master) (site : Site)
  /-- SNAP_TAKE (R88). A write of 1 to TAKE while BUSY is 0 sets BUSY and latches the next tick t. -/
  | snapTake (m : Master) (site : Site)
  /-- SNAPSHOT_TICK (R88). At tick t the die samples every counter, updates its holding registers, increments SEQ and raises the snapshot-complete source. -/
  | snapshotTick (site : Site)
  /-- TAKE_ALL (R90). A write of 1 to TAKE_ALL schedules a package snapshot at a common tick and sends the command to every die. -/
  | takeAll (m : Master)
  /-- SNAP_COMMAND_ARRIVAL (R90). The package snapshot command reaches a die, which takes part if its BUSY is 0. -/
  | snapCommandArrival (site : Site)
  /-- MSI_ENTRY_WRITE (R104). A write to an MSI source entry updates it and re-evaluates whether a pending message can be sent. -/
  | msiEntryWrite (m : Master) (site : Site) (i : BitVec 8) (half : MsiHalf) (data : Word)
  /-- PACE_WINDOW (R110). A 1 µs window closes and the die's pace is measured. -/
  | paceWindow (site : Site) (pace : Nat)
  /-- REFERENCE_LOSS (R115). The reference input stops or leaves tolerance, and the timebase switches to holdover. -/
  | referenceLoss
  /-- HOLDOVER_EXIT (R116). The reference has been within tolerance for 1 ms, and the timebase leaves holdover. -/
  | holdoverExit
  /-- GOVERNOR_EVALUATION (R120). The 10 µs governor evaluation adjusts each die's voltage under the ordered limits. -/
  | governorEvaluation (r : GovReadings)
  /-- TRANSFER_GRANT (R124). At a transfer boundary the arbiter grants one waiting request by class rank and round robin. -/
  | transferGrant (hop : Nat) (waiting : List HopRequest)
  /-- IDLE_ENTRY (R140). A unit that reaches I0 with a known next event enters the deepest idle state that fits. -/
  | idleEntry (u : IdleUnit)
  /-- IDLE_WAKE_START (R142). A wake starts, at its computed tick or on a request, and abandons an entry that has not passed its point of no return. -/
  | idleWakeStart (u : IdleUnit) (beforeNoReturn : Bool)
  /-- IDLE_WAKE_COMPLETE (R137). A unit completes its wake and returns to I0. -/
  | idleWakeComplete (u : IdleUnit)
  /-- I4_WAKE_TIMEOUT (R144). An I4 die has not completed its wake within 10 ms and leaves service. -/
  | i4WakeTimeout (cd : Cd)
  /-- MOV (R745). Integer or raw move. -/
  | mov (g : GroupRef) (scalar : Bool) (f : Fields)
  /-- ADD (R164). Integer add. -/
  | add (g : GroupRef) (scalar : Bool) (f : Fields)
  /-- SUB (R164). Integer subtract. -/
  | sub (g : GroupRef) (scalar : Bool) (f : Fields)
  /-- MUL (R164). Integer multiply. -/
  | mul (g : GroupRef) (scalar : Bool) (f : Fields)
  /-- MULH (R164). Integer multiply, high half. -/
  | mulh (g : GroupRef) (scalar : Bool) (f : Fields)
  /-- MIN (R164). Integer minimum. -/
  | min (g : GroupRef) (scalar : Bool) (f : Fields)
  /-- MAX (R164). Integer maximum. -/
  | max (g : GroupRef) (scalar : Bool) (f : Fields)
  /-- ABS (R745). Integer absolute value, with wrapping negation. -/
  | abs (g : GroupRef) (scalar : Bool) (f : Fields)
  /-- AND (R164). Bitwise AND. -/
  | and (g : GroupRef) (scalar : Bool) (f : Fields)
  /-- OR (R164). Bitwise OR. -/
  | or (g : GroupRef) (scalar : Bool) (f : Fields)
  /-- XOR (R164). Bitwise XOR. -/
  | xor (g : GroupRef) (scalar : Bool) (f : Fields)
  /-- NOT (R164). Bitwise NOT. -/
  | not (g : GroupRef) (scalar : Bool) (f : Fields)
  /-- SHL (R745). Shift left by the second source modulo the width. -/
  | shl (g : GroupRef) (scalar : Bool) (f : Fields)
  /-- SHR (R745). Logical shift right. -/
  | shr (g : GroupRef) (scalar : Bool) (f : Fields)
  /-- SAR (R745). Arithmetic shift right. -/
  | sar (g : GroupRef) (scalar : Bool) (f : Fields)
  /-- POPC (R164). Population count. -/
  | popc (g : GroupRef) (scalar : Bool) (f : Fields)
  /-- FADD (R283). Per-lane F32 or F64 add. -/
  | fadd (g : GroupRef) (f : Fields)
  /-- FSUB (R283). Per-lane float subtract. -/
  | fsub (g : GroupRef) (f : Fields)
  /-- FMUL (R283). Per-lane float multiply. -/
  | fmul (g : GroupRef) (f : Fields)
  /-- FFMA (R283). Per-lane fused multiply-add, rounded once. -/
  | ffma (g : GroupRef) (f : Fields)
  /-- FMIN (R283). Per-lane minimumNumber. -/
  | fmin (g : GroupRef) (f : Fields)
  /-- FMAX (R283). Per-lane maximumNumber. -/
  | fmax (g : GroupRef) (f : Fields)
  /-- CVT (R278). Per-lane conversion between formats, with optional scaling. -/
  | cvt (g : GroupRef) (f : Fields)
  /-- QCMP (R164). Per-lane compare into a predicate. -/
  | qcmp (g : GroupRef) (f : Fields)
  /-- PICK (R164). Per-lane select by predicate. -/
  | pick (g : GroupRef) (f : Fields)
  /-- QLOG (R164). Predicate logic. -/
  | qlog (g : GroupRef) (f : Fields)
  /-- LXCH (R164). Lane exchange. -/
  | lxch (g : GroupRef) (f : Fields)
  /-- QPOLL (R746). Summarizes a predicate over the executing lanes into a uniform register. -/
  | qpoll (g : GroupRef) (f : Fields)
  /-- LANEID (R164). Writes each lane's group lane number. -/
  | laneid (g : GroupRef) (f : Fields)
  /-- U2L (R164). Broadcasts a uniform register to the lanes. -/
  | u2l (g : GroupRef) (f : Fields)
  /-- L2U (R164). Copies one lane's register to a uniform register. -/
  | l2u (g : GroupRef) (f : Fields)
  /-- RDTB (R164). Reads the timebase into a uniform register. -/
  | rdtb (g : GroupRef) (f : Fields)
  /-- RDID (R164). Reads the group's slot, block and width. -/
  | rdid (g : GroupRef) (f : Fields)
  /-- LD (R179). Coalesced load by 128 B lines. -/
  | ld (g : GroupRef) (f : Fields)
  /-- ST (R179). Coalesced store into the merging buffer. -/
  | st (g : GroupRef) (f : Fields)
  /-- LDS (R416). Sliver-path load of 32 B sectors. -/
  | lds (g : GroupRef) (f : Fields)
  /-- STS (R418). Sliver-path store of 32 B sectors. -/
  | sts (g : GroupRef) (f : Fields)
  /-- ATOM (R420). Memory-side atomic, one request per executing lane. -/
  | atom (g : GroupRef) (f : Fields)
  /-- FENCE (R486). Ordering fence of a given kind and scope. -/
  | fence (g : GroupRef) (f : Fields)
  /-- PFENCE (R492). Path fence that cleans dirty lines of a range to DRAM. -/
  | pfence (g : GroupRef) (f : Fields)
  /-- TFENCE (R493). Twin fence: waits for twin acknowledgements and ends twin copies. -/
  | tfence (g : GroupRef) (f : Fields)
  /-- FILL (R325). Copies memory into the operand cache. -/
  | fill (g : GroupRef) (f : Fields)
  /-- DRAIN (R325). Copies the operand cache to memory. -/
  | drain (g : GroupRef) (f : Fields)
  /-- SIG (R192). Signals a counter object by an amount. -/
  | sig (g : GroupRef) (f : Fields)
  /-- WAIT (R193). Waits for an amount from a counter, with a timeout. -/
  | wait (g : GroupRef) (f : Fields)
  /-- ACQ (R197). Per-lane lock acquire. -/
  | acq (g : GroupRef) (f : Fields)
  /-- ACQG (R199). Opens a serialized region run in turns of lock grants. -/
  | acqg (g : GroupRef) (f : Fields)
  /-- REL (R198). Per-lane lock release. -/
  | rel (g : GroupRef) (f : Fields)
  /-- RELG (R199). Closes a serialized region and releases the turn's locks. -/
  | relg (g : GroupRef) (f : Fields)
  /-- BAR (R184). Block barrier arrival and wait. -/
  | bar (g : GroupRef) (f : Fields)
  /-- BART (R187). Block barrier with a timeout. -/
  | bart (g : GroupRef) (f : Fields)
  /-- SYNC_TIMEOUT (R134). A wait or acquire timeout at an object wins its race, and the waiter resumes with TIMEOUT. -/
  | syncTimeout (cd : Cd) (obj : BitVec 11) (w : WaiterRef)
  /-- BARRIER_TIMEOUT (R187). A BART timeout wins against phase completion. -/
  | barrierTimeout (g : GroupRef)
  /-- BRA (R169). Lane branch, pushing a divergence entry when lanes split. -/
  | bra (g : GroupRef) (f : Fields)
  /-- BRU (R173). Uniform conditional branch. -/
  | bru (g : GroupRef) (f : Fields)
  /-- JOIN (R170). Reconvergence at a tagged divergence entry. -/
  | join (g : GroupRef) (f : Fields)
  /-- JMPU (R173). Indirect jump to a uniform register. -/
  | jmpu (g : GroupRef) (f : Fields)
  /-- EXIT (R172). Ends the executing lanes, and the group when none remain. -/
  | exit (g : GroupRef) (f : Fields)
  /-- SETPRI (R167). Sets the group's issue priority. -/
  | setpri (g : GroupRef) (f : Fields)
  /-- HALT (R206). Halts the group with SOFT_HALT. -/
  | halt (g : GroupRef) (f : Fields)
  /-- SYNC_SIGNAL (R215). SYNC_CMD SIGNAL applies an amount to a counter. -/
  | syncSignal (m : Master) (cd : Cd) (obj : BitVec 11) (amount : BitVec 32)
  /-- INIT_COUNTER (R215). SYNC_CMD initialises an object as a counter. -/
  | initCounter (m : Master) (cd : Cd) (obj : BitVec 11) (part : BitVec 3) (amount : BitVec 32)
  /-- INIT_LOCK (R215). SYNC_CMD initialises an object as a lock. -/
  | initLock (m : Master) (cd : Cd) (obj : BitVec 11) (part : BitVec 3)
  /-- FREE (R215). SYNC_CMD frees an object and fails its waiters with BAD_OBJECT. -/
  | free (m : Master) (cd : Cd) (obj : BitVec 11)
  /-- TRY_ACQUIRE (R215). SYNC_CMD tries to acquire a lock for the writing master. -/
  | tryAcquire (m : Master) (cd : Cd) (obj : BitVec 11)
  /-- RELEASE (R215). SYNC_CMD releases a lock owned by the writing master. -/
  | release (m : Master) (cd : Cd) (obj : BitVec 11)
  /-- FORCE_RELEASE (R215). SYNC_CMD frees a lock of any owner, with ABANDONED. -/
  | forceRelease (m : Master) (cd : Cd) (obj : BitVec 11)
  /-- HALT_CORE (R207). CORE_SEQ_CMD halts the core at the next instruction boundary. -/
  | haltCore (m : Master) (c : CoreIx)
  /-- RESUME_CORE (R208). CORE_SEQ_CMD releases a core halt. -/
  | resumeCore (m : Master) (c : CoreIx)
  /-- RESUME_GROUP (R208). CORE_SEQ_CMD issues a halted group's instruction again. -/
  | resumeGroup (m : Master) (g : GroupRef)
  /-- KILL_GROUP (R208). CORE_SEQ_CMD ends a group. -/
  | killGroup (m : Master) (g : GroupRef)
  /-- MMA (R232). Tile product accumulated into an accumulator tile. -/
  | mma (g : GroupRef) (f : Fields)
  /-- MMAZ (R232). Tile product into a zeroed accumulator tile. -/
  | mmaz (g : GroupRef) (f : Fields)
  /-- ACCZ (R246). Zeroes an accumulator tile. -/
  | accz (g : GroupRef) (f : Fields)
  /-- ACCLD (R245). Loads an accumulator tile from the operand cache. -/
  | accld (g : GroupRef) (f : Fields)
  /-- ACCST (R241). Converts and stores an accumulator tile, writing its status. -/
  | accst (g : GroupRef) (f : Fields)
  /-- ACCAMAX (R244). Writes the greatest magnitude of an accumulator tile. -/
  | accamax (g : GroupRef) (f : Fields)
  /-- LSZ (R250). Zeroes every record of a long tile. -/
  | lsz (g : GroupRef) (f : Fields)
  /-- LSST (R250). Copies a long tile to the operand cache. -/
  | lsst (g : GroupRef) (f : Fields)
  /-- LSADD (R250). Merges long-sum records into a long tile. -/
  | lsadd (g : GroupRef) (f : Fields)
  /-- LSRND (R252). Rounds each long-sum record once to FP32 or FP64. -/
  | lsrnd (g : GroupRef) (f : Fields)
  /-- NAN_REPORT (R289). A created-NaN report reaches the sentinel, is counted, and is captured if VALID is 0. -/
  | nanReport (c : CoreIx) (rep : NanReport)
  /-- NS_REARM (R291). A write of 1 to CORE_NS_CTRL REARM clears the sentinel record. -/
  | nsRearm (m : Master) (c : CoreIx)
  /-- SR_TEST_WRITE (R310). A write to the seed or a test key recomputes the test draw. -/
  | srTestWrite (m : Master) (c : CoreIx) (which : SrReg) (data : Word)
  /-- VCVT (R330). Elementwise conversion, MX formats included. -/
  | vcvt (g : GroupRef) (f : Fields)
  /-- VADD (R329). Elementwise add. -/
  | vadd (g : GroupRef) (f : Fields)
  /-- VSUB (R329). Elementwise subtract. -/
  | vsub (g : GroupRef) (f : Fields)
  /-- VMUL (R329). Elementwise multiply. -/
  | vmul (g : GroupRef) (f : Fields)
  /-- VFMA (R329). Elementwise fused multiply-add into D. -/
  | vfma (g : GroupRef) (f : Fields)
  /-- VMIN (R329). Elementwise minimum. -/
  | vmin (g : GroupRef) (f : Fields)
  /-- VMAX (R329). Elementwise maximum. -/
  | vmax (g : GroupRef) (f : Fields)
  /-- VCMP (R329). Elementwise compare into a mask. -/
  | vcmp (g : GroupRef) (f : Fields)
  /-- VSEL (R319). Elementwise select by a mask. -/
  | vsel (g : GroupRef) (f : Fields)
  /-- VAND (R319). Elementwise AND. -/
  | vand (g : GroupRef) (f : Fields)
  /-- VOR (R319). Elementwise OR. -/
  | vor (g : GroupRef) (f : Fields)
  /-- VXOR (R319). Elementwise XOR. -/
  | vxor (g : GroupRef) (f : Fields)
  /-- VSF (R345). Special-function evaluation from a table slot. -/
  | vsf (g : GroupRef) (f : Fields)
  /-- VRSUM (R335). Fixed-order sum reduction. -/
  | vrsum (g : GroupRef) (f : Fields)
  /-- VRDOT (R335). Fixed-order dot-product reduction. -/
  | vrdot (g : GroupRef) (f : Fields)
  /-- VRMAX (R336). Maximum reduction. -/
  | vrmax (g : GroupRef) (f : Fields)
  /-- VRMIN (R336). Minimum reduction. -/
  | vrmin (g : GroupRef) (f : Fields)
  /-- VRARGMAX (R336). Index of the maximum. -/
  | vrargmax (g : GroupRef) (f : Fields)
  /-- VRARGMIN (R336). Index of the minimum. -/
  | vrargmin (g : GroupRef) (f : Fields)
  /-- VRAND (R336). Bitwise AND reduction. -/
  | vrand (g : GroupRef) (f : Fields)
  /-- VROR (R336). Bitwise OR reduction. -/
  | vror (g : GroupRef) (f : Fields)
  /-- VRXOR (R336). Bitwise XOR reduction. -/
  | vrxor (g : GroupRef) (f : Fields)
  /-- VANY (R338). Writes 1 if any mask bit is set. -/
  | vany (g : GroupRef) (f : Fields)
  /-- VALL (R338). Writes 1 if every mask bit is set. -/
  | vall (g : GroupRef) (f : Fields)
  /-- VCOUNT (R338). Counts the set mask bits. -/
  | vcount (g : GroupRef) (f : Fields)
  /-- VFIRST (R338). Writes the index of the first set mask bit. -/
  | vfirst (g : GroupRef) (f : Fields)
  /-- VSCAN (R339). Inclusive scan with a carry. -/
  | vscan (g : GroupRef) (f : Fields)
  /-- VSCANX (R340). Exclusive scan with a carry. -/
  | vscanx (g : GroupRef) (f : Fields)
  /-- VSSCAN (R340). Segmented inclusive scan. -/
  | vsscan (g : GroupRef) (f : Fields)
  /-- VSSCANX (R340). Segmented exclusive scan. -/
  | vsscanx (g : GroupRef) (f : Fields)
  /-- VMOMENTS (R355). Writes the mean and variance of each row. -/
  | vmoments (g : GroupRef) (f : Fields)
  /-- VLNORM (R356). Layer normalization of each row. -/
  | vlnorm (g : GroupRef) (f : Fields)
  /-- VRMSNORM (R356). RMS normalization of each row. -/
  | vrmsnorm (g : GroupRef) (f : Fields)
  /-- VSMAX (R358). Soft maximum of each row, writing a status. -/
  | vsmax (g : GroupRef) (f : Fields)
  /-- VLSZ (R342). Writes an empty long-sum record. -/
  | vlsz (g : GroupRef) (f : Fields)
  /-- VSUMC (R342). Certified sum into a long-sum record. -/
  | vsumc (g : GroupRef) (f : Fields)
  /-- VDOTC (R342). Certified dot product into a long-sum record. -/
  | vdotc (g : GroupRef) (f : Fields)
  /-- VLSADD (R342). Merges one long-sum record into another. -/
  | vlsadd (g : GroupRef) (f : Fields)
  /-- VLSRND (R343). Rounds a long-sum record once to FP32 or FP64. -/
  | vlsrnd (g : GroupRef) (f : Fields)
  /-- VTLOAD (R352). Starts a copy of table slots into the inactive bank. -/
  | vtload (g : GroupRef) (f : Fields)
  /-- VTLOAD_COPY_END (R352). A VTLOAD copy ends and the banks switch at the next instruction boundary. -/
  | vtloadCopyEnd (c : CoreIx)
  /-- TBL_DATA_WRITE (R353). A write of CORE_VE_TBL_DATA writes a word of the inactive bank once no lookup uses it. -/
  | tblDataWrite (m : Master) (c : CoreIx) (data : Word)
  /-- SWITCH (R353). A write of 1 to TBL_CTRL SWITCH switches the table banks at the next instruction boundary. -/
  | switch (m : Master) (c : CoreIx)
  /-- VLSEL (R377). Selects a scale from a ledger entry, just in time or delayed. -/
  | vlsel (g : GroupRef) (f : Fields)
  /-- VLUPD (R379). Records an ACCST outcome in a ledger entry and optionally closes the step. -/
  | vlupd (g : GroupRef) (f : Fields)
  /-- VTSEL (R383). Decides whether a tile is sampled for touchstone comparison. -/
  | vtsel (g : GroupRef) (f : Fields)
  /-- VTCMP (R384). Compares tested values with a reference and captures WARN or ALARM. -/
  | vtcmp (g : GroupRef) (f : Fields)
  /-- VMUPD (R392). Applies updates to master weights held as FP32 high parts and tails. -/
  | vmupd (g : GroupRef) (f : Fields)
  /-- TS_REARM (R387). A write of 1 to CORE_TS_CTRL REARM clears the touchstone record. -/
  | tsRearm (m : Master) (c : CoreIx)
  /-- MAP_WRITE (R401). A write of MC_MAP is broadcast to every compute die and the package switch. -/
  | mapWrite (m : Master) (cd : Cd) (w : Fin 8) (data : Word)
  /-- MAP_LOCK (R399). A write of 1 to MAP_LOCK locks the map, or is refused with MAP_BAD. -/
  | mapLock (m : Master) (cd : Cd)
  /-- CONTROLLER_REQUEST (R407). A request reaches a memory controller, which checks it, regulates it, and serves it with ECC and encryption. -/
  | controllerRequest (k : CtrlRef) (r : MemRequest)
  /-- SLIVER_READ (R417). A 32 B sliver read is served from DRAM or the reduction buffer. -/
  | sliverRead (r : SliverRequest)
  /-- SLIVER_WRITE (R418). A sliver write invalidates cached copies and read-modify-writes the codeword. -/
  | sliverWrite (r : SliverRequest) (data : List Byte) (enables : BitVec 32)
  /-- REDUCTION_OP (R422). A reduction unit applies an atomic operation to a word. -/
  | reductionOp (r : ReductionRequest)
  /-- REGULATOR_REFILL (R411). A 64-tick window closes, and each regulator refills its tokens. -/
  | regulatorRefill
  /-- PATROL_SCRUB (R432). A patrol-scrub read corrects or poisons a codeword. -/
  | patrolScrub (k : CtrlRef) (pa : BitVec 40) (cond : CodewordCond)
  /-- REFRESH (R433). A per-bank refresh is issued at the rate for the stack's temperature. -/
  | refresh (k : CtrlRef) (bank : Nat)
  /-- STACK_TEMP_READ (R433). The stack sensor is read once per millisecond, and the refresh rate is set. -/
  | stackTempRead (k : CtrlRef) (temp : BitVec 8)
  /-- ZERO_GO (R436). A write of 1 to MC_ZERO_CTRL GO starts the zeroization engine, or sets ERROR. -/
  | zeroGo (m : Master) (cd : Cd)
  /-- ZEROIZE_END (R436). The zeroization engine finishes its range and sets DONE. -/
  | zeroizeEnd (cd : Cd)
  /-- MERGE_BUFFER_TIMEOUT (R449). 256 beats after an entry's first store, the merging-buffer entry drains. -/
  | mergeBufferTimeout (c : CoreIx) (line : BitVec 41)
  /-- RDS (R472). The home agent serves a read to share. -/
  | rds (h : Holder) (line : BitVec 33)
  /-- RDU (R472). The home agent serves a read to write. -/
  | rdu (h : Holder) (line : BitVec 33)
  /-- UPG (R472). The home agent serves an upgrade to M. -/
  | upg (h : Holder) (line : BitVec 33)
  /-- WB (R472). The home agent serves a dirty eviction. -/
  | wb (h : Holder) (line : BitVec 33)
  /-- WBC (R472). The home agent serves a clean writeback that keeps the copy. -/
  | wbc (h : Holder) (line : BitVec 33)
  /-- RDNC (R472). The home agent serves an uncached read. -/
  | rdnc (r : Requester) (line : BitVec 33)
  /-- WRF (R472). The home agent serves an uncached full-line write. -/
  | wrf (r : Requester) (line : BitVec 33) (data : List Byte)
  /-- WRP (R472). The home agent serves an uncached partial write. -/
  | wrp (r : Requester) (line : BitVec 33) (data : List Byte) (enables : BitVec 128)
  /-- SNOOP (R471). A snoop or invalidation reaches an agent, which answers or replies NOT_PRESENT. -/
  | snoop (h : Holder) (line : BitVec 33) (kind : SnoopKind)
  /-- MISS_FILL (R460). A fill arrives for a miss register, and the merged requests are answered in order. -/
  | missFill (h : Holder) (line : BitVec 33)
  /-- L1_INVALIDATE (R480). The L1 INVALIDATE command clears the L1. -/
  | l1Invalidate (m : Master) (c : CoreIx)
  /-- L1_ENABLE_WRITE (R479). A write of the L1 ENABLE, refused while INV_DONE is 0. -/
  | l1EnableWrite (m : Master) (c : CoreIx) (en : Bool)
  /-- L2_INVALIDATE (R480). The L2 INVALIDATE command clears a disabled L2. -/
  | l2Invalidate (m : Master) (cl : ClIx)
  /-- L2_CLEAN (R495). The L2 CLEAN command writes back M and O lines by WBC. -/
  | l2Clean (m : Master) (cl : ClIx)
  /-- L2_ENABLE_WRITE (R481). A write of the L2 ENABLE enables it, is refused, or starts disabling. -/
  | l2EnableWrite (m : Master) (cl : ClIx) (en : Bool)
  /-- XL_INVALIDATE (R480). The INVALIDATE command of the far cache. -/
  | xlInvalidate (m : Master)
  /-- XL_CLEAN (R500). The CLEAN command of the far cache. -/
  | xlClean (m : Master)
  /-- XL_ENABLE_WRITE (R481). A write of the far cache's ENABLE. -/
  | xlEnableWrite (m : Master) (en : Bool)
  /-- INVALIDATE_DONE (R478). An INVALIDATE completes, and INV_DONE becomes 1. -/
  | invalidateDone (k : CacheRef)
  /-- DISABLE_DONE (R481). The writebacks of a disable complete, and DISABLING returns to 0. -/
  | disableDone (k : CacheRef)
  /-- TILE_PAIRS_WRITE (R457). A write of TILE_PAIRS starts the exchange of ways between L2 and tile memory. -/
  | tilePairsWrite (m : Master) (cl : ClIx) (pairs : BitVec 3)
  /-- TILE_CHANGE_DONE (R457). The way change ends, and the waiting tile requests proceed. -/
  | tileChangeDone (cl : ClIx)
  /-- TILE_REQUEST (R455). A tile-memory request reaches its owning cluster and is checked, fenced by epoch, and served. -/
  | tileRequest (r : TileRequest)
  /-- TWIN_COPY_EXPIRY (R466). A twin copy's TTL interval ends. -/
  | twinCopyExpiry (line : BitVec 48)
  /-- CBO_CLEAN (R599). A host CBO.CLEAN writes a dirty line home by WBC. -/
  | cboClean (h : HostRef) (pa : BitVec 40)
  /-- CBO_FLUSH (R599). A host CBO.FLUSH writes the line back and invalidates it. -/
  | cboFlush (h : HostRef) (pa : BitVec 40)
  /-- CBO_INVAL (R599). A host CBO.INVAL acts as CBO.FLUSH. -/
  | cboInval (h : HostRef) (pa : BitVec 40)
  /-- CBO_ZERO (R599). A host CBO.ZERO stores 64 B of zeros. -/
  | cboZero (h : HostRef) (pa : BitVec 40)
  /-- TABLE_WALK (R506). A translation walk reads the page tables and caches the result or fails. -/
  | tableWalk (w : Walker) (r : WalkRequest)
  /-- FAULT_ARRIVAL (R546). A translation fault reaches its partition's queue, joining, being admitted, or being held. -/
  | faultArrival (u : FaultUnit)
  /-- SHOOTDOWN_GO (R519). A write of 1 to SHOOT_CTRL GO starts a shootdown, or sets REFUSED. -/
  | shootdownGo (m : Master) (ctl : Word)
  /-- SHOOTDOWN_DONE (R519). The shootdown's dropped-translation accesses complete, the walkers reread the context, and BUSY clears. -/
  | shootdownDone
  /-- SE_DOORBELL (R527). A write of a shuttle engine's PROD submits descriptors, or is ignored with BAD_DOORBELL. -/
  | seDoorbell (m : Master) (e : SeRef) (prod : BitVec 32)
  /-- DESCRIPTOR_FETCH (R530). A fetched descriptor is checked and translated into the run store, then queued. -/
  | descriptorFetch (e : SeRef)
  /-- COPY (R535). A shuttle COPY descriptor runs. -/
  | copy (e : SeRef)
  /-- PATTERN (R535). A shuttle PATTERN descriptor runs. -/
  | pattern (e : SeRef)
  /-- REDUCE (R535). A shuttle REDUCE descriptor runs. -/
  | reduce (e : SeRef)
  /-- NOTE (R535). A shuttle NOTE descriptor runs, moving nothing. -/
  | note (e : SeRef)
  /-- DESCRIPTOR_COMPLETE (R537). A descriptor's writes reach their home; its record, signal and events follow in ring order. -/
  | descriptorComplete (e : SeRef)
  /-- DESCRIPTOR_DEADLINE (R541). A descriptor's deadline expires before its completion. -/
  | descriptorDeadline (e : SeRef) (idx : BitVec 32)
  /-- SE_PAUSE (R542). SE_CMD PAUSE stops fetch and starts after the running descriptor. -/
  | sePause (m : Master) (e : SeRef)
  /-- SE_RESUME (R542). SE_CMD RESUME returns a paused engine to fetch and run. -/
  | seResume (m : Master) (e : SeRef)
  /-- SE_ABORT (R542). SE_CMD ABORT ends the running and fetched descriptors with ABORTED. -/
  | seAbort (m : Master) (e : SeRef)
  /-- SE_ENABLE_WRITE (R540). A write of SE_CTRL ENABLE pauses the engine or restarts it from ERROR. -/
  | seEnableWrite (m : Master) (e : SeRef) (en : Bool)
  /-- RESOLVE_RETRY (R553). A RESOLVE with RETRY makes every waiter translate again. -/
  | resolveRetry (m : Master) (p : BitVec 3) (idx : BitVec 32)
  /-- RESOLVE_ABORT (R553). A RESOLVE with ABORT ends waiting descriptors with FAULT. -/
  | resolveAbort (m : Master) (p : BitVec 3) (idx : BitVec 32)
  /-- FQ_CONS_WRITE (R555). A write of a fault-queue CONS advances it and releases held faults. -/
  | fqConsWrite (m : Master) (p : BitVec 3) (v : BitVec 32)
  /-- FQ_BASE_WRITE (R555). A write of FQ_BASE enables or disables the ring, releasing held faults. -/
  | fqBaseWrite (m : Master) (p : BitVec 3) (data : Word)
  /-- STAGE (R579). WV_CMD STAGE starts loading a weave image, or is refused. -/
  | stage (m : Master)
  /-- IMAGE_STAGED (R579). Copy, checks, verification and shadow writes end; the image is STAGED or refused. -/
  | imageStaged
  /-- COMMIT (R587). WV_CMD COMMIT opens the vote on the staged image. -/
  | commit (m : Master)
  /-- WEAVE_ABORT (R588). WV_CMD ABORT discards a staged candidate or aborts a vote. -/
  | weaveAbort (m : Master)
  /-- VOTE_REPORT (R587). A cluster parks or an engine becomes ready and reports; the last report closes the vote. -/
  | voteReport (v : Voter)
  /-- VOTE_DEADLINE (R588). The commit deadline wins, and the commit aborts with TIMEOUT. -/
  | voteDeadline
  /-- APPLY_DONE (R587). Onyx finishes applying PART and REGU, and the new epoch is sent. -/
  | applyDone
  /-- EPOCH_ARRIVAL (R590). A cluster receives the new epoch and swaps its configuration if in scope. -/
  | epochArrival (cl : ClIx)
  /-- RING_DOORBELL (R604). A write of a command ring's PROD submits commands. -/
  | ringDoorbell (m : Master) (r : BitVec 6) (prod : BitVec 32)
  /-- NOP (R605). A NOP command runs. -/
  | nop (r : BitVec 6)
  /-- LAUNCH (R606). A LAUNCH command checks its kernel and offers its blocks to cores. -/
  | launch (r : BitVec 6)
  /-- BLOCK_ADMIT (R606). A waiting block is admitted by a core and its groups start. -/
  | blockAdmit (c : CoreIx)
  /-- CMD_SIGNAL (R608). A SIGNAL command signals an object. -/
  | cmdSignal (r : BitVec 6)
  /-- CMD_WAIT (R608). A WAIT command waits on a counter with a timeout. -/
  | cmdWait (r : BitVec 6)
  /-- COMMAND_COMPLETE (R609). A command completes; its completion, signal and interrupt follow in ring order. -/
  | commandComplete (r : BitVec 6)
  /-- RESET_HD0 (R616). HOSTIF_CTRL RESET_HD0 starts a host reset of HD0. -/
  | resetHd0 (m : Master)
  /-- RESET_HD1 (R616). HOSTIF_CTRL RESET_HD1 starts a host reset of HD1. -/
  | resetHd1 (m : Master)
  /-- HOST_SELF_RESET (R616). A host die raises its own reset from its firmware or watchdog. -/
  | hostSelfReset (hd : Fin 2)
  /-- HANDBACK (R624). HOSTIF_CTRL HANDBACK ends fall-back at the end of the runtime's current step. -/
  | handback (m : Master)
  /-- HEARTBEAT (R621). A write to HOSTIF_HB re-arms the host heartbeat watchdog. -/
  | heartbeat (m : Master) (v : Word)
  /-- HEARTBEAT_TIMEOUT (R621). No heartbeat arrives within HB_PERIOD_MS, and host absence begins. -/
  | heartbeatTimeout
  /-- FALLBACK_DEADLINE (R622). Host absence lasts FB_TIMEOUT_MS; fall-back starts on B0, or FB_NONE is set. -/
  | fallbackDeadline
  /-- HOST_LINK_TIMEOUT (R602). OHn is not back in service 20 µs after the retrain trigger, so the host die leaves service. -/
  | hostLinkTimeout (hd : Fin 2)
  /-- DEVICE_REQUEST (R613). A PCIe device memory request is admitted as an MSI or a window access, or refused. -/
  | deviceRequest (hd : Fin 2) (port : Fin 2) (r : DeviceRequest)
  /-- PCIE_RETRAIN (R645). A write of 1 to PCIE_CTRL RETRAIN retrains the root-port link. -/
  | pcieRetrain (m : Master) (hd : Fin 2) (port : Fin 2)
  /-- TWIN_ENABLE_WRITE (R626). A write of TWN_CTRL ENABLE brings the twin link up through training and authentication. -/
  | twinEnableWrite (m : Master) (en : Bool)
  /-- TWIN_AUTH (R667). The twin SPDM mutual authentication ends in acceptance or rejection of the peer. -/
  | twinAuth (r : TwinAuth)
  /-- MODE_WRITE (R636). A write of TWN_CTRL MODE enters MIRROR or DUPLEX, or is refused. -/
  | modeWrite (m : Master) (mode : BitVec 2) (peer : PeerFacts)
  /-- TWIN_RETRAIN (R647). TWN_CTRL RETRAIN retrains the twin link. -/
  | twinRetrain (m : Master)
  /-- MARK (R632). TWN_CTRL MARK cleans mirrored regions, sends their records and a mark record. -/
  | mark (m : Master)
  /-- TAKEOVER (R638). TWN_CTRL TAKEOVER makes the secondary take over while the loss conditions hold. -/
  | takeover (m : Master)
  /-- UNFENCE (R637). TWN_CTRL UNFENCE clears FENCED and sets MODE to OFF. -/
  | unfence (m : Master)
  /-- PARTNER_REQUEST (R627). A request from the partner is checked against export windows and served or refused. -/
  | partnerRequest (r : PartnerRequest)
  /-- MIRROR_RECORD (R633). The secondary receives a mirror record, stores it in its receive journal and acknowledges it. -/
  | mirrorRecord (r : MirrorRecord)
  /-- MARK_RECORD (R633). The secondary receives a mark record and applies the batch. -/
  | markRecord (n : BitVec 32)
  /-- WITNESS_HEARTBEAT (R635). A heartbeat from the partner's Beryl arrives. -/
  | witnessHeartbeat (h : WitnessBeat)
  /-- WITNESS_TIMEOUT (R635). No heartbeat arrives within WITNESS_MS, and PEER_SEEN falls. -/
  | witnessTimeout
  /-- LEASE_EXPIRY (R637). Both paths have been lost for LEASE_MS, and the primary fences itself. -/
  | leaseExpiry
  /-- TAKEOVER_DEADLINE (R638). Both paths have been lost for TAKEOVER_MS, and the secondary takes over if AUTO_TAKEOVER is 1. -/
  | takeoverDeadline
  /-- DUPLEX_TRIPLE (R641). A partner duplex triple arrives and its digest is compared. -/
  | duplexTriple (t : Triple)
  /-- DC_TIMEOUT (R641). The duplex wait times out, and the command ends with DC_LATE. -/
  | dcTimeout (r : BitVec 6)
  /-- DC_REARM (R647). A write of 1 to DC_CTRL REARM clears the duplex record. -/
  | dcRearm (m : Master)
  /-- FLIT_TAG_FAIL (R670). A twin flit fails its GCM tag and is discarded; a burst takes the link DOWN. -/
  | flitTagFail
  /-- KEY_UPDATE_DUE (R668). The flit counter reaches 2^40 or 600 s pass, and the sender requests KEY_UPDATE. -/
  | keyUpdateDue
  /-- KEY_UPDATE (R669). The KEY_UPDATE acknowledgement switches the sender to the new key phase. -/
  | keyUpdate
  /-- SPDM (R665). A mailbox request of type SPDM. -/
  | spdm
  /-- LOG_READ (R665). A mailbox request that returns audit-log entries. -/
  | logRead
  /-- COMMIT_SVN (R654). A secure mailbox request raises the fused versions and fuses revocations. -/
  | commitSvn
  /-- ZEROIZE_ALL (R664). A secure mailbox request zeroizes all DRAM, erases the critical set and resets the package. -/
  | zeroizeAll
  /-- SPDM_MCTP (R660). An SPDM message relayed by Beryl over MCTP reaches Onyx. -/
  | spdmMctp (req : List Byte)
  /-- BYPASS (R674). JTAG BYPASS instruction. -/
  | bypass
  /-- IDCODE (R674). JTAG IDCODE instruction. -/
  | idcode
  /-- SEC_CHALLENGE (R674). JTAG SEC_CHALLENGE shifts out the IDK hash and a fresh NONCE. -/
  | secChallenge
  /-- SEC_TOKEN (R676). JTAG SEC_TOKEN shifts in an unlock token, which is accepted or rejected. -/
  | secToken (token : List Byte)
  /-- NONCE_EXPIRY (R674). A NONCE expires 600 s after SEC_CHALLENGE. -/
  | nonceExpiry
  /-- TAMPER_DETECTION (R680). A tamper sensor fires; keys are erased, the fuse is blown and every die but the spindle is held. -/
  | tamperDetection (sensor : BitVec 4)
  /-- VIN_WARN (R688). VIN falls below WARN_V, and WARN is set. -/
  | vinWarn (vin : Nat)
  /-- OVERVOLTAGE (R688). VIN stays above 940 V for 10 µs, and the input switch opens. -/
  | overvoltage
  /-- OVERCURRENT (R689). Input current exceeds 10 A for 20 µs, and the input switch opens. -/
  | overcurrent
  /-- OVERPOWER (R690). The 1 ms input power average exceeds 5.6 kW, and the governor limits the dies. -/
  | overpower
  /-- SAVE_TRIGGER (R701). A save trigger is latched: load is shed, a snapshot is taken and the critical-set copy starts. -/
  | saveTrigger
  /-- SAVE_COMPLETE (R701). The critical-set items are written; COMPLETE and SAVE_DONE are set and power-down follows. -/
  | saveComplete
  /-- CONVERTER_DROPOUT (R702). VHOLD reaches 480 V and the converters stop where they are. -/
  | converterDropout (written : Nat)
  /-- POWER_REARM (R704). VIN has stayed at or above 680 V for 100 ms after a save, and package power-on starts. -/
  | powerRearm
  /-- SAVE_ONLY (R705). PWR_SAVE_CTRL SAVE_ONLY writes the critical set without shedding or power-down. -/
  | saveOnly (m : Master)
  /-- LIST_COMMIT (R698). PWR_SAVE_CTRL LIST_COMMIT copies the save list into spindle SRAM, or refuses it. -/
  | listCommit (m : Master)
  /-- COOLANT_READING (R711). Beryl's 10 ms coolant reading sets COOL_WARN and DERATE_W. -/
  | coolantReading (r : Coolant)
  /-- THERMAL_TRIP (R712). A flow, inlet or junction limit persists, and a save with CAUSE 3 is triggered. -/
  | thermalTrip (why : TripCause)
  /-- ON (R714). Redfish Reset On powers the module on. -/
  | on
  /-- GRACEFUL_SHUTDOWN (R714). Redfish GracefulShutdown runs a save with CAUSE 5 and powers down. -/
  | gracefulShutdown
  /-- FORCE_OFF (R714). Redfish ForceOff sheds load and stops the converters without a save. -/
  | forceOff
  /-- POWER_CYCLE (R714). Redfish PowerCycle acts as GracefulShutdown followed by On. -/
  | powerCycle
  /-- FIRMWARE_UPDATE (R713). A PLDM type 5 firmware update delivers an image that its owner verifies. -/
  | firmwareUpdate (u : FwUpdate)
  /-- STANDBY_ENABLE (R716). The standby-enable input changes and holds or releases the module's power-down. -/
  | standbyEnable (level : Bool)
  /-- PACKAGE_POWER_ON (R723). VHOLD reaches 300 V and the package power-on sequence runs. -/
  | packagePowerOn (facts : PowerFacts)
  /-- RESET_CD (R731). RAS_CTRL RESET_CD takes a compute die out of service. -/
  | resetCd (m : Master) (site : BitVec 4)
  /-- RELEASE_CD (R732). RAS_CTRL RELEASE_CD returns a compute die to service after retraining and acting on its lost-line list. -/
  | releaseCd (m : Master) (site : BitVec 4)
  /-- RESTORE (R730). RAS_CTRL RESTORE sends Onyx to decrypt the newest save slot into DRAM. -/
  | restore (m : Master)
  /-- RESTORE_DONE (R730). The restore copy completes, and RESTORE_DONE is set. -/
  | restoreDone
  /-- RESET_PKG (R744). RAS_CTRL RESET_PKG resets the package. -/
  | resetPkg (m : Master)
  /-- ERROR_DETECTION (R739). A detection reaches the RAS block and is written, merged or dropped, with its interrupt. -/
  | errorDetection (d : Detection)
  /-- REC_SEL_WRITE (R741). A write of RAS_REC_SEL copies the selected record into RAS_REC in one update. -/
  | recSelWrite (m : Master) (v : Word)
  /-- RAS_CONS_WRITE (R744). A write of RAS_CONS advances the reader, or is ignored. -/
  | rasConsWrite (m : Master) (v : Word)
  /-- MIRROR_ACK (R631). The secondary's acknowledgement of mirror records reaches the primary, shrinking the journal tail, releasing codeword writes that wait under R631, and carrying MARK_APPLIED back to the primary. -/
  | mirrorAck (a : MirrorAck)
  /-- TWIN_LANE_LOSS (R626). Lanes of the twin link fail or its fibre is cut, so the link falls to DEGRADED or DOWN, raising source 40 and acting on mirroring under R634. -/
  | twinLaneLoss (good : Nat)
  /-- PCIE_LINK_CHANGE (R645). A root port's PCIe link changes state through device hot-plug, link loss, degradation or downstream port containment, updating PCIE_STAT and setting LINK_CHANGE. -/
  | pcieLinkChange (hd : Fin 2) (port : Fin 2) (l : PcieLink)
  /-- AER_ERROR_MESSAGE (R645). An AER error reported on a root port's link is logged, setting AER_UNCORR or AER_CORR and raising source 8 or 9 of the host die. -/
  | aerErrorMessage (hd : Fin 2) (port : Fin 2) (uncorr : Bool)
  /-- STANDBY_RAIL_LOSS (R692). VHOLD falls below the auxiliary converter's 300 V input, so Beryl, the management PHY and Onyx's always-on rail lose power and every volatile state is lost. -/
  | standbyRailLoss
  /-- ARRAY_SELF_TEST (R478). An array self-test of a cache run through the unlocked JTAG port starts, clearing the arrays and returning INV_DONE to 0. -/
  | arraySelfTest (k : CacheRef)
  deriving DecidableEq, Repr

end Sys2Proof
end

