-- ==== Sys2Proof/Config.lean ====
section
/-!
DEFINITION. What the spec leaves open: free values, constants with no body. No proof can see what they are.
-/

namespace Sys2Proof

/-- The free values of the model, one for each draw (log entry 1). A step that needs a value the spec leaves
open applies this to the counter `State.drawn` and advances the counter. -/
opaque Config.free : Nat → Nat

/-- The word RDID writes for a group slot, an index in the block, a block number and a width: R164 names what it
gives and not how it is packed (log entry 2). -/
opaque Config.rdid : Nat → Nat → Nat → Nat → Word

/-- Which of the codes within 2 ulp the soft maximum's own exponential gives for an element and its row's
maximum: R358 bounds it and fixes no value (log entry 17). -/
opaque Config.expPick : Nat → Nat → Nat

/-- What a codeword reads as when it is decrypted under another key, or at another address, than it was encrypted
under: the identities of the two keys, the codeword and its plaintext (log entry 20). -/
opaque Config.garble : Nat → Nat → Nat → Nat → Nat

/-- The IDCODE of the JTAG port, which no rule gives (R674). -/
opaque Config.idcode : Word

end Sys2Proof
end

