-- ==== Sys2Proof/Machine/RegMap.lean ====
section
/-!
DEFINITION. The register catalogue: every register of chapters 01 to 16, its place in its die's window and
its fields with their bits, access types (R12), reset values and legal encodings (R13).
Addresses are offsets from the base 0xE00_0000_0000 of register space (R69): site times 2^32 plus the offset
in the die's window.
-/

namespace Sys2Proof.Machine

/-- R12: the access types of a register field. -/
inductive Acc where
  | rw | ro | rc | w1p | wo | rwp | rop | rws
  deriving DecidableEq, Repr

/-- One field: its lowest bit, its width, its access type, its reset value, and the least and greatest value
that is not a reserved encoding (R13). -/
structure Fld where
  lo : Nat
  w : Nat
  acc : Acc
  reset : Nat := 0
  least : Nat := 0
  most : Nat := 2 ^ w - 1
  deriving DecidableEq, Repr

/-- Which windows hold a block: every die's global block, the spindle, a compute die, a host die, a cluster
or a core (R75 to R77). -/
inductive Dom where
  | glob | hub | cd | hd | clu | core
  deriving DecidableEq, Repr

/-- A register or an array of registers: `off` is its offset in its window (in its 64 KiB slot for a cluster
or a core), `n1`, `s1` and `n2`, `s2` are the counts and strides of its indices, `counter` says that it is a
counter register under R86 and so has a holding copy at + 0x2000. -/
structure RegRow where
  dom : Dom
  off : Nat
  n1 : Nat := 1
  s1 : Nat := 8
  n2 : Nat := 1
  s2 : Nat := 8
  counter : Bool := false
  fields : List Fld
  deriving DecidableEq, Repr

/-- R69: the offset of a compute die's window. -/
def cdBase (cd : Nat) : Nat := (cd + 1) * 0x1_0000_0000
/-- R69: the offset of a host die's window. -/
def hdBase (hd : Nat) : Nat := (hd + 9) * 0x1_0000_0000
/-- R76: the offset of the slot of cluster `cl` (0 to 63, eight on each compute die). -/
def cluBase (cl : Nat) : Nat := cdBase (cl / 8) + 0x0100_0000 + (cl % 8) * 0x20_0000
/-- R76: the offset of the slot of core `c` (0 to 1,023, sixteen in each cluster). -/
def coreBase (c : Nat) : Nat := cluBase (c / 16) + (c % 16 + 1) * 0x1_0000

/-! ## Addresses of registers -/

/-- `*_GLOBAL_SITE` (R56). -/
def R.site (site : Nat) : Nat := site * 0x1_0000_0000 + 0x0
/-- `HUB_GLOBAL_CAPS_PKG` (R68). -/
def R.capsPkg : Nat := 0x8
/-- `HUB_GLOBAL_DIE_HELD` (R68). -/
def R.dieHeld : Nat := 0x10
/-- `HD_GLOBAL_SECURE` (R97). -/
def R.secure (hd : Nat) : Nat := hdBase hd + 0x18
/-- `*_GLOBAL_SNAP_CTRL` (R98). -/
def R.snapCtrl (site : Nat) : Nat := site * 0x1_0000_0000 + 0x20
/-- `*_GLOBAL_SNAP_TIME` (R98). -/
def R.snapTime (site : Nat) : Nat := site * 0x1_0000_0000 + 0x28
/-- `*_GLOBAL_VIOL_CNT` (R99). -/
def R.violCnt (site : Nat) : Nat := site * 0x1_0000_0000 + 0x30
/-- `*_GLOBAL_VIOL_FIRST` (R100). -/
def R.violFirst (site : Nat) : Nat := site * 0x1_0000_0000 + 0x38
/-- `*_GLOBAL_ACC_ERR` (R99). -/
def R.accErr (site : Nat) : Nat := site * 0x1_0000_0000 + 0x40
/-- `*_GLOBAL_MSI_ADDR` (R101). -/
def R.msiAddr (site i : Nat) : Nat := site * 0x1_0000_0000 + 0x3000 + i * 0x10
/-- `*_GLOBAL_MSI_CTRL` (R101). -/
def R.msiCtrl (site i : Nat) : Nat := site * 0x1_0000_0000 + 0x3008 + i * 0x10
/-- `HUB_LINK_LASER_THR` (R58). -/
def R.laserThr : Nat := 0x10000
/-- `HUB_LINK_CTRL` (R59). -/
def R.linkCtrl : Nat := 0x10008
/-- `HUB_LINK_OL_CTRL` (R60). -/
def R.olCtrl (i : Nat) : Nat := 0x10100 + i * 0x40
/-- `HUB_LINK_OL_STAT` (R61). -/
def R.olStat (i : Nat) : Nat := 0x10108 + i * 0x40
/-- `HUB_LINK_OL_WG` (R62). -/
def R.olWg (i : Nat) : Nat := 0x10110 + i * 0x40
/-- `HUB_LINK_OL_SPARE` (R62). -/
def R.olSpare (i : Nat) : Nat := 0x10118 + i * 0x40
/-- `HUB_LINK_OL_ERR` (R62). -/
def R.olErr (i : Nat) : Nat := 0x10120 + i * 0x40
/-- `HUB_LINK_LASER` (R63). -/
def R.laser (i : Nat) : Nat := 0x10800 + i * 0x8
/-- `CD_LINK_EDGE_CTRL` (R65). -/
def R.edgeCtrl (cd i : Nat) : Nat := cdBase cd + 0x10000 + i * 0x8
/-- `CD_LINK_EDGE_STAT` (R66). -/
def R.edgeStat (cd i : Nat) : Nat := cdBase cd + 0x10010 + i * 0x8
/-- `CD_LINK_EDGE_ERR` (R67). -/
def R.edgeErr (cd i : Nat) : Nat := cdBase cd + 0x10020 + i * 0x8
/-- `HUB_ARB_TB_CTRL` (R148). -/
def R.tbCtrl : Nat := 0x30000
/-- `HUB_ARB_TB_VALUE` (R148). -/
def R.tbValue : Nat := 0x30008
/-- `HUB_ARB_CLASS_CFG` (R149). -/
def R.classCfg : Nat := 0x30010
/-- `HUB_ARB_PACE_CAP` (R150). -/
def R.paceCap : Nat := 0x30018
/-- `HUB_ARB_PACE_CTRL` (R151). -/
def R.paceCtrl (i : Nat) : Nat := 0x30100 + i * 0x10
/-- `HUB_ARB_PACE_STAT` (R151). -/
def R.paceStat (i : Nat) : Nat := 0x30108 + i * 0x10
/-- `HUB_ARB_IDLE_CTRL` (R152). -/
def R.idleCtrl : Nat := 0x30200
/-- `HUB_ARB_IDLE_DIE` (R152). -/
def R.idleDie (i : Nat) : Nat := 0x30208 + i * 0x8
/-- `HUB_ARB_IDLE_RES` (R153). -/
def R.idleRes (i j : Nat) : Nat := 0x31000 + i * 0x28 + j * 0x8
/-- `HUB_ARB_IDLE_ABORT` (R153). -/
def R.idleAbort (i : Nat) : Nat := 0x31200 + i * 0x8
/-- `CORE_SEQ_CMD` (R210). -/
def R.seqCmd (c : Nat) : Nat := coreBase c + 0x0
/-- `CORE_SEQ_STAT` (R210). -/
def R.seqStat (c : Nat) : Nat := coreBase c + 0x8
/-- `CORE_SEQ_ERR` (R211). -/
def R.seqErr (c : Nat) : Nat := coreBase c + 0x10
/-- `CORE_GRP_SEL` (R212). -/
def R.grpSel (c : Nat) : Nat := coreBase c + 0x18
/-- `CORE_GRP_INFO` (R212). -/
def R.grpInfo (c : Nat) : Nat := coreBase c + 0x20
/-- `CORE_GRP_MASK` (R212). -/
def R.grpMask (c : Nat) : Nat := coreBase c + 0x28
/-- `CORE_GRP_FULL` (R212). -/
def R.grpFull (c : Nat) : Nat := coreBase c + 0x30
/-- `CORE_GRP_HALT` (R213). -/
def R.grpHalt (c i : Nat) : Nat := coreBase c + 0x40 + i * 0x8
/-- `CORE_CNT_ISSUE` (R213). -/
def R.cntIssue (c : Nat) : Nat := coreBase c + 0x100
/-- `CORE_CNT_STALL` (R213). -/
def R.cntStall (c : Nat) : Nat := coreBase c + 0x108
/-- `CORE_CNT_ERR` (R213). -/
def R.cntErr (c : Nat) : Nat := coreBase c + 0x110
/-- `SYNC_CTRL` (R215). -/
def R.syncCtrl (cd : Nat) : Nat := cdBase cd + 0x50000
/-- `SYNC_CMD` (R215). -/
def R.syncCmd (cd : Nat) : Nat := cdBase cd + 0x50008
/-- `SYNC_CMD_STAT` (R215). -/
def R.syncCmdStat (cd : Nat) : Nat := cdBase cd + 0x50010
/-- `SYNC_VIEW_SEL` (R216). -/
def R.syncViewSel (cd : Nat) : Nat := cdBase cd + 0x50018
/-- `SYNC_VIEW` (R216). -/
def R.syncView (cd : Nat) : Nat := cdBase cd + 0x50020
/-- `SYNC_EVENT` (R217). -/
def R.syncEvent (cd : Nat) : Nat := cdBase cd + 0x50028
/-- `SYNC_WAITQ` (R217). -/
def R.syncWaitq (cd : Nat) : Nat := cdBase cd + 0x50030
/-- `SYNC_CNT_OPS` (R217). -/
def R.syncCntOps (cd : Nat) : Nat := cdBase cd + 0x50100
/-- `SYNC_CNT_TIMEOUT` (R217). -/
def R.syncCntTimeout (cd : Nat) : Nat := cdBase cd + 0x50108
/-- `SYNC_CNT_HOG` (R217). -/
def R.syncCntHog (cd : Nat) : Nat := cdBase cd + 0x50110
/-- `SYNC_CNT_XPART` (R217). -/
def R.syncCntXpart (cd : Nat) : Nat := cdBase cd + 0x50118
/-- `CORE_MX_CTRL` (R261). -/
def R.mxCtrl (c : Nat) : Nat := coreBase c + 0x500
/-- `CORE_MX_STAT` (R261). -/
def R.mxStat (c : Nat) : Nat := coreBase c + 0x508
/-- `CORE_MX_FLAGS` (R262). -/
def R.mxFlags (c : Nat) : Nat := coreBase c + 0x510
/-- `CORE_MX_CNT_INSTR` (R263). -/
def R.mxCntInstr (c : Nat) : Nat := coreBase c + 0x540
/-- `CORE_MX_CNT_BUSY` (R263). -/
def R.mxCntBusy (c : Nat) : Nat := coreBase c + 0x548
/-- `CORE_MX_CNT_MAC` (R263). -/
def R.mxCntMac (c : Nat) : Nat := coreBase c + 0x550
/-- `CORE_MX_CHAIN` (R263). -/
def R.mxChain (c i : Nat) : Nat := coreBase c + 0x580 + i * 0x8
/-- `CORE_NS_CTRL` (R308). -/
def R.nsCtrl (c : Nat) : Nat := coreBase c + 0x400
/-- `CORE_NS_LANEFLAGS` (R308). -/
def R.laneFlags (c : Nat) : Nat := coreBase c + 0x408
/-- `CORE_NS_REC` (R309). -/
def R.nsRec (c i : Nat) : Nat := coreBase c + 0x420 + i * 0x8
/-- `CORE_NS_CNT` (R309). -/
def R.nsCnt (c : Nat) : Nat := coreBase c + 0x440
/-- `CORE_NS_BEATS` (R309). -/
def R.nsBeats (c : Nat) : Nat := coreBase c + 0x448
/-- `CORE_SR_SEED` (R310). -/
def R.srSeed (c : Nat) : Nat := coreBase c + 0x800
/-- `CORE_SR_TEST_K1` (R310). -/
def R.srTestK1 (c : Nat) : Nat := coreBase c + 0x808
/-- `CORE_SR_TEST_K2` (R310). -/
def R.srTestK2 (c : Nat) : Nat := coreBase c + 0x810
/-- `CORE_SR_TEST_OUT` (R310). -/
def R.srTestOut (c : Nat) : Nat := coreBase c + 0x818
/-- `CORE_SR_CNT_DRAWS` (R310). -/
def R.srCntDraws (c : Nat) : Nat := coreBase c + 0x840
/-- `CORE_VE_CTRL` (R363). -/
def R.veCtrl (c : Nat) : Nat := coreBase c + 0x600
/-- `CORE_VE_STAT` (R363). -/
def R.veStat (c : Nat) : Nat := coreBase c + 0x608
/-- `CORE_VE_FLAGS` (R364). -/
def R.veFlags (c : Nat) : Nat := coreBase c + 0x610
/-- `CORE_VE_TBL_CTRL` (R365). -/
def R.tblCtrl (c : Nat) : Nat := coreBase c + 0x618
/-- `CORE_VE_TBL_ADDR` (R365). -/
def R.tblAddr (c : Nat) : Nat := coreBase c + 0x620
/-- `CORE_VE_TBL_DATA` (R365). -/
def R.tblData (c : Nat) : Nat := coreBase c + 0x628
/-- `CORE_VE_CNT_INSTR` (R366). -/
def R.veCntInstr (c : Nat) : Nat := coreBase c + 0x640
/-- `CORE_VE_CNT_BUSY` (R366). -/
def R.veCntBusy (c : Nat) : Nat := coreBase c + 0x648
/-- `CORE_VE_CNT_SF` (R366). -/
def R.veCntSf (c : Nat) : Nat := coreBase c + 0x650
/-- `CORE_VE_CNT_TBL_REJ` (R366). -/
def R.veCntTblRej (c : Nat) : Nat := coreBase c + 0x658
/-- `CORE_TS_CTRL` (R396). -/
def R.tsCtrl (c : Nat) : Nat := coreBase c + 0x700
/-- `CORE_TS_THR` (R396). -/
def R.tsThr (c : Nat) : Nat := coreBase c + 0x708
/-- `CORE_TS_MAXERR` (R396). -/
def R.tsMaxerr (c : Nat) : Nat := coreBase c + 0x710
/-- `CORE_TS_REC` (R397). -/
def R.tsRec (c i : Nat) : Nat := coreBase c + 0x720 + i * 0x8
/-- `CORE_TS_CNT` (R397). -/
def R.tsCnt (c : Nat) : Nat := coreBase c + 0x740
/-- `CORE_TS_CNT_X` (R397). -/
def R.tsCntX (c : Nat) : Nat := coreBase c + 0x748
/-- `CORE_LG_CNT` (R397). -/
def R.lgCnt (c : Nat) : Nat := coreBase c + 0x750
/-- `MC_CTRL` (R438). -/
def R.mcCtrl (cd : Nat) : Nat := cdBase cd + 0x20000
/-- `MC_STAT` (R438). -/
def R.mcStat (cd i : Nat) : Nat := cdBase cd + 0x20008 + i * 0x8
/-- `MC_MAP` (R438). -/
def R.mcMap (cd i : Nat) : Nat := cdBase cd + 0x20040 + i * 0x8
/-- `MC_PART` (R439). -/
def R.mcPart (cd i : Nat) : Nat := cdBase cd + 0x20080 + i * 0x8
/-- `MC_RANGE_BASE` (R439). -/
def R.rangeBase (cd i : Nat) : Nat := cdBase cd + 0x20100 + i * 0x10
/-- `MC_RANGE_LIMIT` (R439). -/
def R.rangeLimit (cd i : Nat) : Nat := cdBase cd + 0x20108 + i * 0x10
/-- `MC_REG` (R440). -/
def R.mcReg (cd i j : Nat) : Nat := cdBase cd + 0x20400 + i * 0x80 + j * 0x10
/-- `MC_REG_STAT` (R440). -/
def R.mcRegStat (cd i j : Nat) : Nat := cdBase cd + 0x20408 + i * 0x80 + j * 0x10
/-- `MC_ZERO_BASE` (R441). -/
def R.zeroBase (cd : Nat) : Nat := cdBase cd + 0x20600
/-- `MC_ZERO_LIMIT` (R441). -/
def R.zeroLimit (cd : Nat) : Nat := cdBase cd + 0x20608
/-- `MC_ZERO_CTRL` (R441). -/
def R.zeroCtrl (cd : Nat) : Nat := cdBase cd + 0x20610
/-- `MC_ECC_CTRL` (R441). -/
def R.eccCtrl (cd : Nat) : Nat := cdBase cd + 0x20700
/-- `MC_CNT_CW` (R442). -/
def R.mcCntCw (cd i j : Nat) : Nat := cdBase cd + 0x21000 + i * 0x100 + j * 0x10
/-- `MC_CNT_WAIT` (R442). -/
def R.mcCntWait (cd i j : Nat) : Nat := cdBase cd + 0x21008 + i * 0x100 + j * 0x10
/-- `MC_CNT_CE` (R442). -/
def R.mcCntCe (cd i : Nat) : Nat := cdBase cd + 0x21200 + i * 0x40
/-- `MC_CNT_UE` (R442). -/
def R.mcCntUe (cd i : Nat) : Nat := cdBase cd + 0x21208 + i * 0x40
/-- `MC_CNT_RU` (R442). -/
def R.mcCntRu (cd i : Nat) : Nat := cdBase cd + 0x21210 + i * 0x40
/-- `MC_CNT_XPART` (R442). -/
def R.mcCntXpart (cd i : Nat) : Nat := cdBase cd + 0x21218 + i * 0x40
/-- `MC_CNT_BORROW` (R442). -/
def R.mcCntBorrow (cd i : Nat) : Nat := cdBase cd + 0x21220 + i * 0x40
/-- `CLU_L2_CTRL` (R495). -/
def R.l2Ctrl (cl : Nat) : Nat := cluBase cl + 0x0
/-- `CLU_L2_CMD` (R495). -/
def R.l2Cmd (cl : Nat) : Nat := cluBase cl + 0x8
/-- `CLU_L2_STAT` (R495). -/
def R.l2Stat (cl : Nat) : Nat := cluBase cl + 0x10
/-- `CLU_L1_CTRL` (R496). -/
def R.l1Ctrl (cl i : Nat) : Nat := cluBase cl + 0x100 + i * 0x8
/-- `CLU_ROUTE` (R565). -/
def R.route (cl i : Nat) : Nat := cluBase cl + 0x800 + i * 0x8
/-- `CLU_CNT_L2_HIT` (R497). -/
def R.cluCntL2Hit (cl : Nat) : Nat := cluBase cl + 0x1000
/-- `CLU_CNT_L2_MISS` (R497). -/
def R.cluCntL2Miss (cl : Nat) : Nat := cluBase cl + 0x1008
/-- `CLU_CNT_L2_WB` (R497). -/
def R.cluCntL2Wb (cl : Nat) : Nat := cluBase cl + 0x1010
/-- `CLU_CNT_SNOOP` (R497). -/
def R.cluCntSnoop (cl : Nat) : Nat := cluBase cl + 0x1018
/-- `CLU_CNT_TILE` (R497). -/
def R.cluCntTile (cl : Nat) : Nat := cluBase cl + 0x1020
/-- `CLU_CNT_L1` (R497). -/
def R.cluCntL1 (cl i : Nat) : Nat := cluBase cl + 0x1100 + i * 0x8
/-- `HOME_STAT` (R498). -/
def R.homeStat (cd : Nat) : Nat := cdBase cd + 0x30000
/-- `HOME_DIR_SEL` (R498). -/
def R.dirSel (cd : Nat) : Nat := cdBase cd + 0x30008
/-- `HOME_DIR_VIEW` (R498). -/
def R.dirView (cd : Nat) : Nat := cdBase cd + 0x30010
/-- `HOME_CNT_REQ` (R498). -/
def R.homeCntReq (cd : Nat) : Nat := cdBase cd + 0x31000
/-- `HOME_CNT_FWD` (R498). -/
def R.homeCntFwd (cd : Nat) : Nat := cdBase cd + 0x31008
/-- `HOME_CNT_INV` (R498). -/
def R.homeCntInv (cd : Nat) : Nat := cdBase cd + 0x31010
/-- `HOME_CNT_PFENCE` (R498). -/
def R.homeCntPfence (cd : Nat) : Nat := cdBase cd + 0x31018
/-- `XL_CTRL` (R500). -/
def R.xlCtrl : Nat := 0x40000
/-- `XL_CMD` (R495). -/
def R.xlCmd : Nat := 0x40008
/-- `XL_STAT` (R500). -/
def R.xlStat : Nat := 0x40010
/-- `XL_TWIN_CTRL` (R500). -/
def R.xlTwinCtrl : Nat := 0x40018
/-- `XL_PART` (R500). -/
def R.xlPart (i : Nat) : Nat := 0x40040 + i * 0x8
/-- `XL_CNT_HIT` (R500). -/
def R.xlCntHit : Nat := 0x41000
/-- `XL_CNT_MISS` (R500). -/
def R.xlCntMiss : Nat := 0x41008
/-- `XL_CNT_BACKINV` (R500). -/
def R.xlCntBackinv : Nat := 0x41010
/-- `XL_CNT_TWIN` (R500). -/
def R.xlCntTwin : Nat := 0x41018
/-- `HUB_COH_STAT` (R501). -/
def R.cohStat : Nat := 0x20000
/-- `HUB_COH_CNT_SNOOP` (R501). -/
def R.cohCntSnoop : Nat := 0x21000
/-- `DMA_SE_CTRL` (R557). -/
def R.seCtrl (cd i : Nat) : Nat := cdBase cd + 0x40000 + i * 0x40
/-- `DMA_SE_RING` (R557). -/
def R.seRing (cd i : Nat) : Nat := cdBase cd + 0x40008 + i * 0x40
/-- `DMA_SE_DB` (R557). -/
def R.seDb (cd i : Nat) : Nat := cdBase cd + 0x40010 + i * 0x40
/-- `DMA_SE_STAT` (R557). -/
def R.seStat (cd i : Nat) : Nat := cdBase cd + 0x40018 + i * 0x40
/-- `DMA_SE_CMD` (R557). -/
def R.seCmd (cd i : Nat) : Nat := cdBase cd + 0x40020 + i * 0x40
/-- `DMA_SE_EVENT` (R557). -/
def R.seEvent (cd i : Nat) : Nat := cdBase cd + 0x40028 + i * 0x40
/-- `DMA_SE_CNT_BYTES` (R557). -/
def R.seCntBytes (cd i : Nat) : Nat := cdBase cd + 0x41000 + i * 0x10
/-- `DMA_SE_CNT_DESC` (R557). -/
def R.seCntDesc (cd i : Nat) : Nat := cdBase cd + 0x41008 + i * 0x10
/-- `HUB_DMA_SE_CTRL` (R557). -/
def R.hseCtrl (i : Nat) : Nat := 0x50000 + i * 0x40
/-- `HUB_DMA_SE_RING` (R557). -/
def R.hseRing (i : Nat) : Nat := 0x50008 + i * 0x40
/-- `HUB_DMA_SE_DB` (R557). -/
def R.hseDb (i : Nat) : Nat := 0x50010 + i * 0x40
/-- `HUB_DMA_SE_STAT` (R557). -/
def R.hseStat (i : Nat) : Nat := 0x50018 + i * 0x40
/-- `HUB_DMA_SE_CMD` (R557). -/
def R.hseCmd (i : Nat) : Nat := 0x50020 + i * 0x40
/-- `HUB_DMA_SE_EVENT` (R557). -/
def R.hseEvent (i : Nat) : Nat := 0x50028 + i * 0x40
/-- `HUB_DMA_SE_CNT_BYTES` (R557). -/
def R.hseCntBytes (i : Nat) : Nat := 0x51000 + i * 0x10
/-- `HUB_DMA_SE_CNT_DESC` (R557). -/
def R.hseCntDesc (i : Nat) : Nat := 0x51008 + i * 0x10
/-- `HUB_DMA_CTX_BASE` (R558). -/
def R.ctxBase : Nat := 0x50400
/-- `HUB_DMA_SHOOT_VA` (R558). -/
def R.shootVa : Nat := 0x50408
/-- `HUB_DMA_SHOOT_CTRL` (R558). -/
def R.shootCtrl : Nat := 0x50410
/-- `HUB_DMA_SHOOT_SEQ` (R558). -/
def R.shootSeq : Nat := 0x50418
/-- `HUB_DMA_SHOOT_STAT` (R558). -/
def R.shootStat : Nat := 0x50420
/-- `HUB_DMA_FQ_BASE` (R559). -/
def R.fqBase (i : Nat) : Nat := 0x50800 + i * 0x20
/-- `HUB_DMA_FQ_PROD` (R559). -/
def R.fqProd (i : Nat) : Nat := 0x50808 + i * 0x20
/-- `HUB_DMA_FQ_CONS` (R559). -/
def R.fqCons (i : Nat) : Nat := 0x50810 + i * 0x20
/-- `HUB_DMA_FQ_STAT` (R559). -/
def R.fqStat (i : Nat) : Nat := 0x50818 + i * 0x20
/-- `HUB_DMA_FQ_RESOLVE` (R559). -/
def R.fqResolve : Nat := 0x50900
/-- `HUB_DMA_FQ_RES_STAT` (R559). -/
def R.fqResStat : Nat := 0x50908
/-- `HUB_DMA_CNT_FQ` (R559). -/
def R.cntFq (i : Nat) : Nat := 0x51100 + i * 0x8
/-- `HUB_DMA_CNT_SHOOT` (R559). -/
def R.cntShoot : Nat := 0x51180
/-- `WV_CTRL` (R595). -/
def R.wvCtrl : Nat := 0x60000
/-- `WV_IMG_ADDR` (R595). -/
def R.wvImgAddr : Nat := 0x60008
/-- `WV_IMG_LEN` (R595). -/
def R.wvImgLen : Nat := 0x60010
/-- `WV_CMD` (R595). -/
def R.wvCmd : Nat := 0x60018
/-- `WV_STAT` (R596). -/
def R.wvStat : Nat := 0x60020
/-- `WV_EPOCH` (R596). -/
def R.wvEpoch : Nat := 0x60028
/-- `WV_VOTE` (R596). -/
def R.wvVote : Nat := 0x60030
/-- `WV_SCOPE` (R596). -/
def R.wvScope : Nat := 0x60038
/-- `WV_SE_WAIT` (R596). -/
def R.wvSeWait (i : Nat) : Nat := 0x60040 + i * 0x8
/-- `WV_DIGEST` (R596). -/
def R.wvDigest (i : Nat) : Nat := 0x60060 + i * 0x8
/-- `WV_CL_EPOCH` (R596). -/
def R.wvClEpoch (i : Nat) : Nat := 0x60100 + i * 0x8
/-- `WV_CNT_COMMIT` (R597). -/
def R.wvCntCommit : Nat := 0x61000
/-- `WV_CNT_FENCE` (R597). -/
def R.wvCntFence : Nat := 0x61008
/-- `WV_CNT_REFUSED` (R597). -/
def R.wvCntRefused : Nat := 0x61010
/-- `HOSTIF_CTRL` (R643). -/
def R.hostCtrl : Nat := 0xB0000
/-- `HOSTIF_HB` (R643). -/
def R.hostHb : Nat := 0xB0008
/-- `HOSTIF_FB` (R643). -/
def R.hostFb : Nat := 0xB0010
/-- `HOSTIF_RJ` (R643). -/
def R.hostRj (i : Nat) : Nat := 0xB0018 + i * 0x8
/-- `HOSTIF_CNT` (R643). -/
def R.hostCnt : Nat := 0xB0100
/-- `HOSTIF_CNT_CMD` (R643). -/
def R.hostCntCmd : Nat := 0xB0108
/-- `HOSTIF_DB` (R643). -/
def R.hostDb (i : Nat) : Nat := 0xB0800 + i * 0x8
/-- `HOSTIF_RING_BASE` (R643). -/
def R.ringBase (i : Nat) : Nat := 0xB1000 + i * 0x20
/-- `HOSTIF_RING_CTRL` (R643). -/
def R.ringCtrl (i : Nat) : Nat := 0xB1008 + i * 0x20
/-- `HOSTIF_RING_MSI_ADDR` (R101). -/
def R.ringMsiAddr (i : Nat) : Nat := 0xB1010 + i * 0x20
/-- `HOSTIF_RING_MSI_CTRL` (R101). -/
def R.ringMsiCtrl (i : Nat) : Nat := 0xB1018 + i * 0x20
/-- `BOB_CTRL` (R644). -/
def R.bobCtrl (cd i : Nat) : Nat := cdBase cd + 0x60000 + i * 0x8
/-- `PCIE_CTRL` (R645). -/
def R.pcieCtrl (hd i : Nat) : Nat := hdBase hd + 0x10000 + i * 0x10000
/-- `PCIE_STAT` (R645). -/
def R.pcieStat (hd i : Nat) : Nat := hdBase hd + 0x10008 + i * 0x10000
/-- `PCIE_EVENT` (R645). -/
def R.pcieEvent (hd i : Nat) : Nat := hdBase hd + 0x10010 + i * 0x10000
/-- `PCIE_VIOL` (R645). -/
def R.pcieViol (hd i : Nat) : Nat := hdBase hd + 0x10018 + i * 0x10000
/-- `PCIE_DMA_WIN_BASE` (R645). -/
def R.dmaWinBase (hd i j : Nat) : Nat := hdBase hd + 0x10040 + i * 0x10000 + j * 0x10
/-- `PCIE_DMA_WIN_LIMIT` (R645). -/
def R.dmaWinLimit (hd i j : Nat) : Nat := hdBase hd + 0x10048 + i * 0x10000 + j * 0x10
/-- `PCIE_CNT` (R645). -/
def R.pcieCnt (hd i : Nat) : Nat := hdBase hd + 0x11000 + i * 0x10000
/-- `IMSIC geometry` (R78). -/
def R.imsicGeom (hd : Nat) : Nat := hdBase hd + 0x30000
/-- `TWN_CTRL` (R647). -/
def R.twnCtrl : Nat := 0x70000
/-- `TWN_STAT` (R647). -/
def R.twnStat : Nat := 0x70008
/-- `TWN_WIT` (R647). -/
def R.twnWit : Nat := 0x70010
/-- `TWN_MIR_CTRL` (R647). -/
def R.mirCtrl : Nat := 0x70018
/-- `TWN_MIR_STAT` (R647). -/
def R.mirStat : Nat := 0x70020
/-- `TWN_RXJ` (R647). -/
def R.rxj : Nat := 0x70028
/-- `TWN_MIR_RGN_BASE` (R645). -/
def R.mirRgnBase (i : Nat) : Nat := 0x70040 + i * 0x10
/-- `TWN_MIR_RGN_LIMIT` (R645). -/
def R.mirRgnLimit (i : Nat) : Nat := 0x70048 + i * 0x10
/-- `TWN_EXPORT_BASE` (R645). -/
def R.exportBase (i : Nat) : Nat := 0x700C0 + i * 0x10
/-- `TWN_EXPORT_LIMIT` (R645). -/
def R.exportLimit (i : Nat) : Nat := 0x700C8 + i * 0x10
/-- `TWN_DC_CTRL` (R647). -/
def R.dcCtrl : Nat := 0x70140
/-- `TWN_DC_REC` (R647). -/
def R.dcRec (i : Nat) : Nat := 0x70148 + i * 0x8
/-- `TWN_CNT_DC` (R647). -/
def R.twnCntDc : Nat := 0x71000
/-- `TWN_CNT_ERR` (R647). -/
def R.twnCntErr : Nat := 0x71008
/-- `SEC_STAT` (R686). -/
def R.secStat : Nat := 0x80000
/-- `SEC_EVENT` (R686). -/
def R.secEvent : Nat := 0x80008
/-- `SEC_MBOX_ADDR` (R686). -/
def R.mboxAddr : Nat := 0x80010
/-- `SEC_MBOX_CTRL` (R686). -/
def R.mboxCtrl : Nat := 0x80018
/-- `SEC_TWIN_POLICY` (R686). -/
def R.twinPolicy : Nat := 0x80020
/-- `SEC_LOG_STAT` (R686). -/
def R.logStat : Nat := 0x80028
/-- `SEC_LOG_SEQ` (R686). -/
def R.logSeq : Nat := 0x80030
/-- `SEC_LOG_OLDEST` (R686). -/
def R.logOldest : Nat := 0x80038
/-- `SEC_SVN` (R686). -/
def R.secSvn : Nat := 0x80040
/-- `SEC_REVOKED` (R686). -/
def R.secRevoked : Nat := 0x80048
/-- `SEC_MEAS` (R686). -/
def R.secMeas (i j : Nat) : Nat := 0x80100 + i * 0x30 + j * 0x8
/-- `SEC_CNT_AUTH` (R686). -/
def R.secCntAuth : Nat := 0x81000
/-- `SEC_CNT_LOG` (R686). -/
def R.secCntLog : Nat := 0x81008
/-- `PWR_IN` (R719). -/
def R.pwrIn : Nat := 0x90000
/-- `PWR_THR` (R719). -/
def R.pwrThr : Nat := 0x90008
/-- `PWR_HOLDUP` (R719). -/
def R.pwrHoldup : Nat := 0x90010
/-- `PWR_SAVE_CTRL` (R720). -/
def R.saveCtrl : Nat := 0x90018
/-- `PWR_SAVE_LIST` (R720). -/
def R.saveList : Nat := 0x90020
/-- `PWR_SAVE_STAT` (R720). -/
def R.saveStat : Nat := 0x90028
/-- `PWR_EVENT` (R721). -/
def R.pwrEvent : Nat := 0x90030
/-- `PWR_COOL` (R721). -/
def R.pwrCool : Nat := 0x90038
/-- `PWR_CNT` (R722). -/
def R.pwrCnt : Nat := 0x91000
/-- `PWR_CNT_ENERGY` (R722). -/
def R.pwrCntEnergy : Nat := 0x91008
/-- `RAS_CTRL` (R744). -/
def R.rasCtrl : Nat := 0xA0000
/-- `RAS_STAT` (R744). -/
def R.rasStat : Nat := 0xA0008
/-- `RAS_PROD` (R744). -/
def R.rasProd : Nat := 0xA0010
/-- `RAS_CONS` (R744). -/
def R.rasCons : Nat := 0xA0018
/-- `RAS_REC_SEL` (R744). -/
def R.rasRecSel : Nat := 0xA0020
/-- `RAS_RESTORE` (R744). -/
def R.rasRestore : Nat := 0xA0028
/-- `RAS_REC` (R744). -/
def R.rasRec (i : Nat) : Nat := 0xA0040 + i * 0x8
/-- `RAS_CNT` (R744). -/
def R.rasCnt : Nat := 0xA1000

/-! ## Fields -/

def F.site_siteId : Fld := ⟨0, 4, .ro, 0, 0, 0xF⟩
def F.site_siteType : Fld := ⟨4, 2, .ro, 0, 0, 0x3⟩
def F.site_strapPar : Fld := ⟨6, 1, .ro, 0, 0, 0x1⟩
def F.site_strapOk : Fld := ⟨7, 1, .ro, 1, 0, 0x1⟩
def F.site_dieKind : Fld := ⟨8, 4, .ro, 0, 0, 0xF⟩
def F.site_stepping : Fld := ⟨12, 4, .ro, 0, 0, 0xF⟩
def F.site_caps : Fld := ⟨16, 32, .ro, 0, 0, 0xFFFFFFFF⟩
def F.capsPkg_caps : Fld := ⟨0, 32, .ro, 0, 0, 0xFFFFFFFF⟩
def F.capsPkg_diePresent : Fld := ⟨32, 11, .ro, 0, 0, 0x7FF⟩
def F.dieHeld_held : Fld := ⟨0, 11, .ro, 0, 0, 0x7FF⟩
def F.secure_mSecure : Fld := ⟨0, 1, .rws, 0, 0, 0x1⟩
def F.snapCtrl_take : Fld := ⟨0, 1, .w1p, 0, 0, 0x1⟩
def F.snapCtrl_takeAll : Fld := ⟨1, 1, .w1p, 0, 0, 0x1⟩
def F.snapCtrl_busy : Fld := ⟨2, 1, .ro, 0, 0, 0x1⟩
def F.snapCtrl_seq : Fld := ⟨16, 16, .ro, 0, 0, 0xFFFF⟩
def F.snapTime_tick : Fld := ⟨0, 53, .ro, 0, 0, 0x1FFFFFFFFFFFFF⟩
def F.snapTime_dies : Fld := ⟨53, 11, .ro, 0, 0, 0x7FF⟩
def F.violCnt_priv : Fld := ⟨0, 32, .rc, 0, 0, 0xFFFFFFFF⟩
def F.violCnt_secure : Fld := ⟨32, 32, .rc, 0, 0, 0xFFFFFFFF⟩
def F.violFirst_offset : Fld := ⟨0, 32, .rc, 0, 0, 0xFFFFFFFF⟩
def F.violFirst_kind : Fld := ⟨32, 4, .rc, 0, 0, 0xF⟩
def F.violFirst_die : Fld := ⟨36, 4, .rc, 0, 0, 0xF⟩
def F.violFirst_unit : Fld := ⟨40, 8, .rc, 0, 0, 0xFF⟩
def F.violFirst_write : Fld := ⟨48, 1, .rc, 0, 0, 0x1⟩
def F.violFirst_alias : Fld := ⟨49, 1, .rc, 0, 0, 0x1⟩
def F.violFirst_secure : Fld := ⟨50, 1, .rc, 0, 0, 0x1⟩
def F.violFirst_valid : Fld := ⟨51, 1, .rc, 0, 0, 0x1⟩
def F.accErr_decode : Fld := ⟨0, 32, .rc, 0, 0, 0xFFFFFFFF⟩
def F.accErr_size : Fld := ⟨32, 32, .rc, 0, 0, 0xFFFFFFFF⟩
def F.msiAddr_file : Fld := ⟨12, 36, .rwp, 0, 0, 0xFFFFFFFFF⟩
def F.msiCtrl_ident : Fld := ⟨0, 8, .rwp, 0, 0, 0xFF⟩
def F.msiCtrl_mask : Fld := ⟨32, 1, .rwp, 1, 0, 0x1⟩
def F.msiCtrl_pend : Fld := ⟨33, 1, .ro, 0, 0, 0x1⟩
def F.msiCtrl_undeliv : Fld := ⟨34, 1, .ro, 0, 0, 0x1⟩
def F.laserThr_warnPct : Fld := ⟨0, 8, .rwp, 0x1E, 0, 0xFF⟩
def F.laserThr_swapPct : Fld := ⟨8, 8, .rwp, 0x32, 0, 0xFF⟩
def F.laserThr_autoSwap : Fld := ⟨16, 1, .rwp, 1, 0, 0x1⟩
def F.linkCtrl_retrainAll : Fld := ⟨0, 1, .w1p, 0, 0, 0x1⟩
def F.linkCtrl_laserSingle : Fld := ⟨1, 1, .ro, 0, 0, 0x1⟩
def F.linkCtrl_laserNone : Fld := ⟨2, 1, .ro, 0, 0, 0x1⟩
def F.olCtrl_enable : Fld := ⟨0, 1, .rwp, 1, 0, 0x1⟩
def F.olCtrl_retrain : Fld := ⟨1, 1, .w1p, 0, 0, 0x1⟩
def F.olCtrl_spareAuto : Fld := ⟨2, 1, .rwp, 1, 0, 0x1⟩
def F.olCtrl_minWg : Fld := ⟨8, 6, .rwp, 0, 0, 0x3F⟩
def F.olStat_state : Fld := ⟨0, 2, .ro, 0, 0, 0x3⟩
def F.olStat_wgGood : Fld := ⟨2, 6, .ro, 0, 0, 0x3F⟩
def F.olStat_wgTotal : Fld := ⟨8, 6, .ro, 0, 0, 0x3F⟩
def F.olStat_peerSite : Fld := ⟨14, 4, .ro, 0, 0, 0xF⟩
def F.olStat_peerMismatch : Fld := ⟨18, 1, .ro, 0, 0, 0x1⟩
def F.olStat_peerSpare1 : Fld := ⟨19, 1, .ro, 0, 0, 0x1⟩
def F.olStat_trainCount : Fld := ⟨24, 8, .ro, 0, 0, 0xFF⟩
def F.olWg_goodMask : Fld := ⟨0, 32, .ro, 0, 0, 0xFFFFFFFF⟩
def F.olSpare_spareUsed : Fld := ⟨0, 64, .ro, 0, 0, 0xFFFFFFFFFFFFFFFF⟩
def F.olErr_crcRetry : Fld := ⟨0, 32, .rc, 0, 0, 0xFFFFFFFF⟩
def F.olErr_wlFail : Fld := ⟨32, 16, .rc, 0, 0, 0xFFFF⟩
def F.laser_bias : Fld := ⟨0, 16, .ro, 0, 0, 0xFFFF⟩
def F.laser_power : Fld := ⟨16, 16, .ro, 0, 0, 0xFFFF⟩
def F.laser_ageing : Fld := ⟨32, 8, .ro, 0, 0, 0xFF⟩
def F.laser_role : Fld := ⟨40, 2, .ro, 3, 0, 0x3⟩
def F.edgeCtrl_enable : Fld := ⟨0, 1, .rwp, 1, 0, 0x1⟩
def F.edgeCtrl_retrain : Fld := ⟨1, 1, .w1p, 0, 0, 0x1⟩
def F.edgeCtrl_spareAuto : Fld := ⟨2, 1, .rwp, 1, 0, 0x1⟩
def F.edgeCtrl_groupMask : Fld := ⟨3, 4, .rwp, 0xF, 0, 0xF⟩
def F.edgeStat_state : Fld := ⟨0, 2, .ro, 0, 0, 0x3⟩
def F.edgeStat_groupsActive : Fld := ⟨2, 4, .ro, 0, 0, 0xF⟩
def F.edgeStat_width : Fld := ⟨6, 3, .ro, 0, 0, 0x7⟩
def F.edgeStat_localGood : Fld := ⟨9, 4, .ro, 0, 0, 0xF⟩
def F.edgeStat_peerGood : Fld := ⟨13, 4, .ro, 0, 0, 0xF⟩
def F.edgeStat_spareUsed : Fld := ⟨17, 4, .ro, 0, 0, 0xF⟩
def F.edgeStat_peerSite : Fld := ⟨21, 4, .ro, 0, 0, 0xF⟩
def F.edgeStat_peerMismatch : Fld := ⟨25, 1, .ro, 0, 0, 0x1⟩
def F.edgeStat_peerNoW48 : Fld := ⟨26, 1, .ro, 0, 0, 0x1⟩
def F.edgeErr_crcRetry : Fld := ⟨0, 32, .rc, 0, 0, 0xFFFFFFFF⟩
def F.edgeErr_laneFail : Fld := ⟨32, 16, .rc, 0, 0, 0xFFFF⟩
def F.tbCtrl_refOk : Fld := ⟨0, 1, .ro, 0, 0, 0x1⟩
def F.tbCtrl_holdover : Fld := ⟨1, 1, .ro, 0, 0, 0x1⟩
def F.tbValue_value : Fld := ⟨0, 64, .ro, 0, 0, 0xFFFFFFFFFFFFFFFF⟩
def F.classCfg_p3Guard : Fld := ⟨0, 6, .rwp, 0x20, 1, 0x3F⟩
def F.classCfg_p1Alt : Fld := ⟨8, 1, .rwp, 1, 0, 0x1⟩
def F.paceCap_capW : Fld := ⟨0, 16, .rwp, 0x1450, 0, 0xFFFF⟩
def F.paceCap_capEn : Fld := ⟨16, 1, .rwp, 1, 0, 0x1⟩
def F.paceCap_tjMax : Fld := ⟨24, 8, .rwp, 0x5F, 0, 0x69⟩
def F.paceCap_powerW : Fld := ⟨32, 16, .ro, 0, 0, 0xFFFF⟩
def F.paceCtrl_mode : Fld := ⟨0, 2, .rwp, 0, 0, 0x2⟩
def F.paceCtrl_target : Fld := ⟨8, 8, .rwp, 0xC8, 120, 0xF0⟩
def F.paceCtrl_vset : Fld := ⟨16, 12, .rwp, 0x30C, 620, 0x384⟩
def F.paceCtrl_dieCapW : Fld := ⟨32, 12, .rwp, 0, 0, 0xFFF⟩
def F.paceStat_pace : Fld := ⟨0, 8, .ro, 0, 0, 0xFF⟩
def F.paceStat_vcore : Fld := ⟨8, 12, .ro, 0, 0, 0xFFF⟩
def F.paceStat_tj : Fld := ⟨20, 8, .ro, 0, 0, 0xFF⟩
def F.paceStat_power : Fld := ⟨28, 16, .ro, 0, 0, 0xFFFF⟩
def F.paceStat_atCap : Fld := ⟨44, 1, .ro, 0, 0, 0x1⟩
def F.paceStat_atVmax : Fld := ⟨45, 1, .ro, 0, 0, 0x1⟩
def F.paceStat_tjLimit : Fld := ⟨46, 1, .ro, 0, 0, 0x1⟩
def F.idleCtrl_enable : Fld := ⟨0, 1, .rwp, 1, 0, 0x1⟩
def F.idleCtrl_unknownMax : Fld := ⟨1, 3, .rwp, 1, 0, 0x4⟩
def F.idleCtrl_margin : Fld := ⟨8, 8, .rwp, 0x18, 16, 0xFF⟩
def F.idleDie_maxState : Fld := ⟨0, 3, .rwp, 3, 0, 0x4⟩
def F.idleDie_dieState : Fld := ⟨8, 3, .ro, 0, 0, 0x7⟩
def F.idleDie_clI3 : Fld := ⟨16, 8, .ro, 0, 0, 0xFF⟩
def F.idleRes_ticks : Fld := ⟨0, 64, .ro, 0, 0, 0xFFFFFFFFFFFFFFFF⟩
def F.idleAbort_aborts : Fld := ⟨0, 32, .rc, 0, 0, 0xFFFFFFFF⟩
def F.seqCmd_action : Fld := ⟨0, 4, .rwp, 0, 0, 0x4⟩
def F.seqCmd_group : Fld := ⟨8, 8, .rwp, 0, 0, 0xFF⟩
def F.seqStat_halted : Fld := ⟨0, 1, .ro, 0, 0, 0x1⟩
def F.seqStat_haltCause : Fld := ⟨1, 2, .ro, 0, 0, 0x3⟩
def F.seqStat_groups : Fld := ⟨3, 9, .ro, 0, 0, 0x1FF⟩
def F.seqStat_threads : Fld := ⟨12, 12, .ro, 0, 0, 0xFFF⟩
def F.seqStat_blocks : Fld := ⟨24, 5, .ro, 0, 0, 0x1F⟩
def F.seqErr_pc : Fld := ⟨0, 45, .rc, 0, 0, 0x1FFFFFFFFFFF⟩
def F.seqErr_code : Fld := ⟨45, 8, .rc, 0, 0, 0xFF⟩
def F.seqErr_group : Fld := ⟨53, 8, .rc, 0, 0, 0xFF⟩
def F.seqErr_valid : Fld := ⟨61, 1, .rc, 0, 0, 0x1⟩
def F.seqErr_more : Fld := ⟨62, 1, .rc, 0, 0, 0x1⟩
def F.grpSel_group : Fld := ⟨0, 8, .rwp, 0, 0, 0xFF⟩
def F.grpInfo_pc : Fld := ⟨0, 45, .ro, 0, 0, 0x1FFFFFFFFFFF⟩
def F.grpInfo_code : Fld := ⟨45, 8, .ro, 0, 0, 0xFF⟩
def F.grpInfo_halted : Fld := ⟨53, 1, .ro, 0, 0, 0x1⟩
def F.grpInfo_resident : Fld := ⟨54, 1, .ro, 0, 0, 0x1⟩
def F.grpInfo_width : Fld := ⟨55, 2, .ro, 0, 0, 0x3⟩
def F.grpInfo_priority : Fld := ⟨57, 3, .ro, 0, 0, 0x7⟩
def F.grpMask_active : Fld := ⟨0, 64, .ro, 0, 0, 0xFFFFFFFFFFFFFFFF⟩
def F.grpFull_full : Fld := ⟨0, 64, .ro, 0, 0, 0xFFFFFFFFFFFFFFFF⟩
def F.grpHalt_halted : Fld := ⟨0, 64, .ro, 0, 0, 0xFFFFFFFFFFFFFFFF⟩
def F.cntIssue_issued : Fld := ⟨0, 64, .ro, 0, 0, 0xFFFFFFFFFFFFFFFF⟩
def F.cntStall_stallBeats : Fld := ⟨0, 64, .ro, 0, 0, 0xFFFFFFFFFFFFFFFF⟩
def F.cntErr_errors : Fld := ⟨0, 32, .rc, 0, 0, 0xFFFFFFFF⟩
def F.syncCtrl_enable : Fld := ⟨0, 1, .rwp, 1, 0, 0x1⟩
def F.syncCmd_index : Fld := ⟨0, 11, .rwp, 0, 0, 0x7FF⟩
def F.syncCmd_op : Fld := ⟨12, 4, .rwp, 0, 0, 0x7⟩
def F.syncCmd_part : Fld := ⟨16, 3, .rwp, 0, 0, 0x7⟩
def F.syncCmd_amount : Fld := ⟨32, 32, .rwp, 0, 0, 0xFFFFFFFF⟩
def F.syncCmdStat_status : Fld := ⟨0, 4, .ro, 0, 0, 0xF⟩
def F.syncCmdStat_done : Fld := ⟨4, 1, .ro, 0, 0, 0x1⟩
def F.syncCmdStat_value : Fld := ⟨32, 32, .ro, 0, 0, 0xFFFFFFFF⟩
def F.syncViewSel_index : Fld := ⟨0, 11, .rwp, 0, 0, 0x7FF⟩
def F.syncView_type : Fld := ⟨0, 2, .rop, 0, 0, 0x3⟩
def F.syncView_ovf : Fld := ⟨2, 1, .rop, 0, 0, 0x1⟩
def F.syncView_abandoned : Fld := ⟨3, 1, .rop, 0, 0, 0x1⟩
def F.syncView_value : Fld := ⟨4, 32, .rop, 0, 0, 0xFFFFFFFF⟩
def F.syncView_held : Fld := ⟨4, 1, .rop, 0, 0, 0x1⟩
def F.syncView_ownerKind : Fld := ⟨5, 2, .rop, 0, 0, 0x3⟩
def F.syncView_ownerDie : Fld := ⟨7, 4, .rop, 0, 0, 0xF⟩
def F.syncView_ownerCore : Fld := ⟨11, 7, .rop, 0, 0, 0x7F⟩
def F.syncView_ownerGroup : Fld := ⟨18, 8, .rop, 0, 0, 0xFF⟩
def F.syncView_ownerLane : Fld := ⟨26, 6, .rop, 0, 0, 0x3F⟩
def F.syncView_waiters : Fld := ⟨36, 13, .rop, 0, 0, 0x1FFF⟩
def F.syncView_part : Fld := ⟨60, 3, .rop, 0, 0, 0x7⟩
def F.syncEvent_ovfSeen : Fld := ⟨0, 1, .rc, 0, 0, 0x1⟩
def F.syncEvent_abandonSeen : Fld := ⟨1, 1, .rc, 0, 0, 0x1⟩
def F.syncEvent_waitqFull : Fld := ⟨2, 1, .rc, 0, 0, 0x1⟩
def F.syncEvent_firstIndex : Fld := ⟨3, 11, .rc, 0, 0, 0x7FF⟩
def F.syncWaitq_inUse : Fld := ⟨0, 13, .ro, 0, 0, 0x1FFF⟩
def F.syncWaitq_highWater : Fld := ⟨16, 13, .rc, 0, 0, 0x1FFF⟩
def F.syncCntOps_ops : Fld := ⟨0, 64, .ro, 0, 0, 0xFFFFFFFFFFFFFFFF⟩
def F.syncCntTimeout_timeouts : Fld := ⟨0, 32, .rc, 0, 0, 0xFFFFFFFF⟩
def F.syncCntHog_ownGroup : Fld := ⟨0, 32, .rc, 0, 0, 0xFFFFFFFF⟩
def F.syncCntXpart_xpart : Fld := ⟨0, 32, .rc, 0, 0, 0xFFFFFFFF⟩
def F.mxCtrl_srThresh : Fld := ⟨0, 32, .rwp, 0x1000, 0, 0xFFFFFFFF⟩
def F.mxCtrl_srForceRne : Fld := ⟨32, 1, .rwp, 0, 0, 0x1⟩
def F.mxStat_busy : Fld := ⟨0, 1, .ro, 0, 0, 0x1⟩
def F.mxStat_queued : Fld := ⟨1, 4, .ro, 0, 0, 0xF⟩
def F.mxStat_group : Fld := ⟨5, 8, .ro, 0, 0, 0xFF⟩
def F.mxStat_opcode : Fld := ⟨13, 8, .ro, 0, 0, 0xFF⟩
def F.mxFlags_nanCreated : Fld := ⟨0, 1, .rc, 0, 0, 0x1⟩
def F.mxFlags_accOvf : Fld := ⟨1, 1, .rc, 0, 0, 0x1⟩
def F.mxFlags_cvtOvf : Fld := ⟨2, 1, .rc, 0, 0, 0x1⟩
def F.mxFlags_nanScale : Fld := ⟨3, 1, .rc, 0, 0, 0x1⟩
def F.mxFlags_srUsed : Fld := ⟨4, 1, .rc, 0, 0, 0x1⟩
def F.mxFlags_badRecord : Fld := ⟨5, 1, .rc, 0, 0, 0x1⟩
def F.mxCntInstr_instr : Fld := ⟨0, 64, .ro, 0, 0, 0xFFFFFFFFFFFFFFFF⟩
def F.mxCntBusy_busyBeats : Fld := ⟨0, 64, .ro, 0, 0, 0xFFFFFFFFFFFFFFFF⟩
def F.mxCntMac_macs : Fld := ⟨0, 64, .ro, 0, 0, 0xFFFFFFFFFFFFFFFF⟩
def F.mxChain_lenLo : Fld := ⟨0, 32, .ro, 0, 0, 0xFFFFFFFF⟩
def F.mxChain_lenHi : Fld := ⟨32, 32, .ro, 0, 0, 0xFFFFFFFF⟩
def F.nsCtrl_action : Fld := ⟨0, 2, .rwp, 0, 0, 0x2⟩
def F.nsCtrl_rearm : Fld := ⟨2, 1, .w1p, 0, 0, 0x1⟩
def F.laneFlags_invalid : Fld := ⟨0, 1, .rc, 0, 0, 0x1⟩
def F.laneFlags_overflow : Fld := ⟨1, 1, .rc, 0, 0, 0x1⟩
def F.laneFlags_underflow : Fld := ⟨2, 1, .rc, 0, 0, 0x1⟩
def F.laneFlags_inexact : Fld := ⟨3, 1, .rc, 0, 0, 0x1⟩
def F.laneFlags_cvtOvf : Fld := ⟨4, 1, .rc, 0, 0, 0x1⟩
def F.nsRec_word : Fld := ⟨0, 64, .ro, 0, 0, 0xFFFFFFFFFFFFFFFF⟩
def F.nsCnt_reports : Fld := ⟨0, 32, .rc, 0, 0, 0xFFFFFFFF⟩
def F.nsBeats_beats : Fld := ⟨0, 64, .ro, 0, 0, 0xFFFFFFFFFFFFFFFF⟩
def F.srSeed_seed : Fld := ⟨0, 64, .rwp, 0, 0, 0xFFFFFFFFFFFFFFFF⟩
def F.srTestK1_k1 : Fld := ⟨0, 64, .rwp, 0, 0, 0xFFFFFFFFFFFFFFFF⟩
def F.srTestK2_k2 : Fld := ⟨0, 64, .rwp, 0, 0, 0xFFFFFFFFFFFFFFFF⟩
def F.srTestOut_draw : Fld := ⟨0, 24, .ro, 0, 0, 0xFFFFFF⟩
def F.srCntDraws_draws : Fld := ⟨0, 64, .ro, 0, 0, 0xFFFFFFFFFFFFFFFF⟩
def F.veCtrl_srForceRne : Fld := ⟨0, 1, .rwp, 0, 0, 0x1⟩
def F.veStat_busy : Fld := ⟨0, 1, .ro, 0, 0, 0x1⟩
def F.veStat_queued : Fld := ⟨1, 4, .ro, 0, 0, 0xF⟩
def F.veStat_group : Fld := ⟨5, 8, .ro, 0, 0, 0xFF⟩
def F.veStat_opcode : Fld := ⟨13, 8, .ro, 0, 0, 0xFF⟩
def F.veStat_bank : Fld := ⟨21, 1, .ro, 0, 0, 0x1⟩
def F.veStat_tblLoading : Fld := ⟨22, 1, .ro, 0, 0, 0x1⟩
def F.veStat_slotValid : Fld := ⟨23, 16, .ro, 0, 0, 0xFFFF⟩
def F.veFlags_invalid : Fld := ⟨0, 1, .rc, 0, 0, 0x1⟩
def F.veFlags_overflow : Fld := ⟨1, 1, .rc, 0, 0, 0x1⟩
def F.veFlags_underflow : Fld := ⟨2, 1, .rc, 0, 0, 0x1⟩
def F.veFlags_inexact : Fld := ⟨3, 1, .rc, 0, 0, 0x1⟩
def F.veFlags_cvtOvf : Fld := ⟨4, 1, .rc, 0, 0, 0x1⟩
def F.veFlags_nanCreated : Fld := ⟨5, 1, .rc, 0, 0, 0x1⟩
def F.veFlags_sfFlush : Fld := ⟨6, 1, .rc, 0, 0, 0x1⟩
def F.veFlags_sfDomain : Fld := ⟨7, 1, .rc, 0, 0, 0x1⟩
def F.veFlags_sfEmptySlot : Fld := ⟨8, 1, .rc, 0, 0, 0x1⟩
def F.veFlags_normZeroVar : Fld := ⟨9, 1, .rc, 0, 0, 0x1⟩
def F.veFlags_normNonfinite : Fld := ⟨10, 1, .rc, 0, 0, 0x1⟩
def F.veFlags_smaxEmpty : Fld := ⟨11, 1, .rc, 0, 0, 0x1⟩
def F.veFlags_intSat : Fld := ⟨12, 1, .rc, 0, 0, 0x1⟩
def F.veFlags_badRecord : Fld := ⟨13, 1, .rc, 0, 0, 0x1⟩
def F.veFlags_srUsed : Fld := ⟨14, 1, .rc, 0, 0, 0x1⟩
def F.tblCtrl_switch : Fld := ⟨0, 1, .w1p, 0, 0, 0x1⟩
def F.tblAddr_word : Fld := ⟨0, 10, .rwp, 0, 0, 0x207⟩
def F.tblAddr_slot : Fld := ⟨10, 4, .rwp, 0, 0, 0xF⟩
def F.tblAddr_readBank : Fld := ⟨14, 1, .rwp, 0, 0, 0x1⟩
def F.tblAddr_autoInc : Fld := ⟨15, 1, .rwp, 0, 0, 0x1⟩
def F.tblData_data : Fld := ⟨0, 64, .rwp, 0, 0, 0xFFFFFFFFFFFFFFFF⟩
def F.veCntInstr_instr : Fld := ⟨0, 64, .ro, 0, 0, 0xFFFFFFFFFFFFFFFF⟩
def F.veCntBusy_busyBeats : Fld := ⟨0, 64, .ro, 0, 0, 0xFFFFFFFFFFFFFFFF⟩
def F.veCntSf_sfResults : Fld := ⟨0, 64, .ro, 0, 0, 0xFFFFFFFFFFFFFFFF⟩
def F.veCntTblRej_rejected : Fld := ⟨0, 32, .rc, 0, 0, 0xFFFFFFFF⟩
def F.tsCtrl_k : Fld := ⟨0, 5, .rwp, 6, 0, 0x10⟩
def F.tsCtrl_enable : Fld := ⟨5, 1, .rwp, 0, 0, 0x1⟩
def F.tsCtrl_warnInt : Fld := ⟨6, 1, .rwp, 0, 0, 0x1⟩
def F.tsCtrl_alarmInt : Fld := ⟨7, 1, .rwp, 1, 0, 0x1⟩
def F.tsCtrl_rearm : Fld := ⟨8, 1, .w1p, 0, 0, 0x1⟩
def F.tsThr_warn : Fld := ⟨0, 32, .rwp, 0x3D800000, 0, 0xFFFFFFFF⟩
def F.tsThr_alarm : Fld := ⟨32, 32, .rwp, 0x3E800000, 0, 0xFFFFFFFF⟩
def F.tsMaxerr_maxerr : Fld := ⟨0, 32, .rc, 0, 0, 0xFFFFFFFF⟩
def F.tsRec_word : Fld := ⟨0, 64, .ro, 0, 0, 0xFFFFFFFFFFFFFFFF⟩
def F.tsCnt_compared : Fld := ⟨0, 64, .ro, 0, 0, 0xFFFFFFFFFFFFFFFF⟩
def F.tsCntX_warn : Fld := ⟨0, 32, .rc, 0, 0, 0xFFFFFFFF⟩
def F.tsCntX_alarm : Fld := ⟨32, 32, .rc, 0, 0, 0xFFFFFFFF⟩
def F.lgCnt_lost : Fld := ⟨0, 32, .rc, 0, 0, 0xFFFFFFFF⟩
def F.lgCnt_ovf : Fld := ⟨32, 32, .rc, 0, 0, 0xFFFFFFFF⟩
def F.mcCtrl_mapLock : Fld := ⟨0, 1, .rwp, 0, 0, 0x1⟩
def F.mcCtrl_mapBad : Fld := ⟨1, 1, .ro, 0, 0, 0x1⟩
def F.mcStat_trained : Fld := ⟨0, 1, .ro, 0, 0, 0x1⟩
def F.mcStat_selfRefresh : Fld := ⟨1, 1, .ro, 0, 0, 0x1⟩
def F.mcStat_stackT : Fld := ⟨2, 8, .ro, 0, 0, 0xFF⟩
def F.mcStat_refresh2x : Fld := ⟨10, 1, .ro, 0, 0, 0x1⟩
def F.mcStat_overcommit : Fld := ⟨11, 1, .ro, 0, 0, 0x1⟩
def F.mcStat_queued : Fld := ⟨12, 13, .ro, 0, 0, 0x1FFF⟩
def F.mcMap_group : Fld := ⟨0, 2, .rwp, 0, 0, 0x3⟩
def F.mcPart_enable : Fld := ⟨0, 1, .rws, 0, 0, 0x1⟩
def F.mcPart_class : Fld := ⟨1, 1, .rws, 0, 0, 0x1⟩
def F.mcPart_keyLoaded : Fld := ⟨2, 1, .ro, 0, 0, 0x1⟩
def F.mcPart_keyGen : Fld := ⟨8, 8, .ro, 0, 0, 0xFF⟩
def F.rangeBase_valid : Fld := ⟨0, 1, .rws, 0, 0, 0x1⟩
def F.rangeBase_owner : Fld := ⟨1, 3, .rws, 0, 0, 0x7⟩
def F.rangeBase_host : Fld := ⟨4, 1, .rws, 0, 0, 0x1⟩
def F.rangeBase_base : Fld := ⟨21, 19, .rws, 0, 0, 0x7FFFF⟩
def F.rangeLimit_limit : Fld := ⟨21, 19, .rws, 0, 0, 0x7FFFF⟩
def F.mcReg_rate : Fld := ⟨0, 12, .rwp, 0, 0, 0x99A⟩
def F.mcReg_burst : Fld := ⟨16, 20, .rwp, 0x1000, 4, 0xFFFFF⟩
def F.mcReg_wc : Fld := ⟨36, 1, .rwp, 1, 0, 0x1⟩
def F.mcReg_enable : Fld := ⟨37, 1, .rwp, 0, 0, 0x1⟩
def F.mcRegStat_tokens : Fld := ⟨0, 20, .ro, 0, 0, 0xFFFFF⟩
def F.mcRegStat_held : Fld := ⟨20, 1, .ro, 0, 0, 0x1⟩
def F.zeroBase_base : Fld := ⟨21, 19, .rws, 0, 0, 0x7FFFF⟩
def F.zeroLimit_limit : Fld := ⟨21, 19, .rws, 0, 0, 0x7FFFF⟩
def F.zeroCtrl_go : Fld := ⟨0, 1, .rws, 0, 0, 0x1⟩
def F.zeroCtrl_done : Fld := ⟨1, 1, .ro, 0, 0, 0x1⟩
def F.zeroCtrl_error : Fld := ⟨2, 1, .ro, 0, 0, 0x1⟩
def F.eccCtrl_scrubEn : Fld := ⟨0, 1, .rwp, 1, 0, 0x1⟩
def F.eccCtrl_scrubHours : Fld := ⟨8, 8, .rwp, 0x18, 1, 0xFF⟩
def F.eccCtrl_pprPending : Fld := ⟨16, 1, .ro, 0, 0, 0x1⟩
def F.eccCtrl_rowThr : Fld := ⟨20, 8, .rwp, 0x10, 1, 0xFF⟩
def F.mcCntCw_codewords : Fld := ⟨0, 64, .ro, 0, 0, 0xFFFFFFFFFFFFFFFF⟩
def F.mcCntWait_waitTicks : Fld := ⟨0, 64, .ro, 0, 0, 0xFFFFFFFFFFFFFFFF⟩
def F.mcCntCe_corrected : Fld := ⟨0, 32, .rc, 0, 0, 0xFFFFFFFF⟩
def F.mcCntCe_dieEcc : Fld := ⟨32, 32, .rc, 0, 0, 0xFFFFFFFF⟩
def F.mcCntUe_uncorrected : Fld := ⟨0, 32, .rc, 0, 0, 0xFFFFFFFF⟩
def F.mcCntUe_poisonReads : Fld := ⟨32, 32, .rc, 0, 0, 0xFFFFFFFF⟩
def F.mcCntRu_ops : Fld := ⟨0, 64, .ro, 0, 0, 0xFFFFFFFFFFFFFFFF⟩
def F.mcCntXpart_refused : Fld := ⟨0, 32, .rc, 0, 0, 0xFFFFFFFF⟩
def F.mcCntXpart_nokey : Fld := ⟨32, 32, .rc, 0, 0, 0xFFFFFFFF⟩
def F.mcCntBorrow_borrowed : Fld := ⟨0, 64, .ro, 0, 0, 0xFFFFFFFFFFFFFFFF⟩
def F.l2Ctrl_enable : Fld := ⟨0, 1, .rwp, 0, 0, 0x1⟩
def F.l2Ctrl_tileHost : Fld := ⟨1, 1, .rwp, 0, 0, 0x1⟩
def F.l2Ctrl_tilePairs : Fld := ⟨8, 3, .rwp, 0, 0, 0x6⟩
def F.l2Cmd_invalidate : Fld := ⟨0, 1, .w1p, 0, 0, 0x1⟩
def F.l2Cmd_clean : Fld := ⟨1, 1, .w1p, 0, 0, 0x1⟩
def F.l2Cmd_busy : Fld := ⟨8, 1, .ro, 0, 0, 0x1⟩
def F.l2Cmd_invDone : Fld := ⟨9, 1, .ro, 0, 0, 0x1⟩
def F.l2Cmd_enableRefused : Fld := ⟨10, 1, .rc, 0, 0, 0x1⟩
def F.l2Cmd_cmdRefused : Fld := ⟨11, 1, .rc, 0, 0, 0x1⟩
def F.l2Stat_enabled : Fld := ⟨0, 1, .ro, 0, 0, 0x1⟩
def F.l2Stat_disabling : Fld := ⟨1, 1, .ro, 0, 0, 0x1⟩
def F.l2Stat_staleRisk : Fld := ⟨2, 1, .ro, 0, 0, 0x1⟩
def F.l2Stat_tileChanging : Fld := ⟨3, 1, .ro, 0, 0, 0x1⟩
def F.l2Stat_missUsed : Fld := ⟨4, 9, .ro, 0, 0, 0x1FF⟩
def F.l2Stat_part : Fld := ⟨13, 3, .ro, 0, 0, 0x7⟩
def F.l1Ctrl_enable : Fld := ⟨0, 1, .rwp, 0, 0, 0x1⟩
def F.l1Ctrl_invalidate : Fld := ⟨1, 1, .w1p, 0, 0, 0x1⟩
def F.l1Ctrl_invDone : Fld := ⟨2, 1, .ro, 0, 0, 0x1⟩
def F.l1Ctrl_enableRefused : Fld := ⟨3, 1, .rc, 0, 0, 0x1⟩
def F.l1Ctrl_missUsed : Fld := ⟨4, 7, .ro, 0, 0, 0x7F⟩
def F.l1Ctrl_bufUsed : Fld := ⟨11, 5, .ro, 0, 0, 0x1F⟩
def F.route_valid : Fld := ⟨0, 1, .ro, 0, 0, 0x1⟩
def F.route_srcCore : Fld := ⟨1, 4, .ro, 0, 0, 0xF⟩
def F.route_dstCore : Fld := ⟨5, 4, .ro, 0, 0, 0xF⟩
def F.route_class : Fld := ⟨9, 1, .ro, 0, 0, 0x1⟩
def F.route_srcOff : Fld := ⟨16, 11, .ro, 0, 0, 0x7FF⟩
def F.route_dstOff : Fld := ⟨27, 11, .ro, 0, 0, 0x7FF⟩
def F.route_lenM1 : Fld := ⟨38, 11, .ro, 0, 0, 0x7FF⟩
def F.cluCntL2Hit_hits : Fld := ⟨0, 64, .ro, 0, 0, 0xFFFFFFFFFFFFFFFF⟩
def F.cluCntL2Miss_misses : Fld := ⟨0, 64, .ro, 0, 0, 0xFFFFFFFFFFFFFFFF⟩
def F.cluCntL2Wb_writebacks : Fld := ⟨0, 64, .ro, 0, 0, 0xFFFFFFFFFFFFFFFF⟩
def F.cluCntSnoop_notPresent : Fld := ⟨0, 32, .rc, 0, 0, 0xFFFFFFFF⟩
def F.cluCntSnoop_mergeFull : Fld := ⟨32, 32, .rc, 0, 0, 0xFFFFFFFF⟩
def F.cluCntTile_refused : Fld := ⟨0, 32, .rc, 0, 0, 0xFFFFFFFF⟩
def F.cluCntL1_misses : Fld := ⟨0, 64, .ro, 0, 0, 0xFFFFFFFFFFFFFFFF⟩
def F.homeStat_mosi : Fld := ⟨0, 1, .ro, 0, 0, 0x1⟩
def F.homeStat_txnUsed : Fld := ⟨1, 14, .ro, 0, 0, 0x3FFF⟩
def F.homeStat_dirUsed : Fld := ⟨15, 22, .ro, 0, 0, 0x3FFFFF⟩
def F.dirSel_line : Fld := ⟨7, 33, .rwp, 0, 0, 0x1FFFFFFFF⟩
def F.dirView_state : Fld := ⟨0, 3, .rop, 0, 0, 0x7⟩
def F.dirView_entry : Fld := ⟨3, 1, .rop, 0, 0, 0x1⟩
def F.dirView_owner : Fld := ⟨4, 5, .rop, 0, 0, 0x1F⟩
def F.dirView_sharers : Fld := ⟨9, 28, .rop, 0, 0, 0xFFFFFFF⟩
def F.dirView_busy : Fld := ⟨37, 1, .rop, 0, 0, 0x1⟩
def F.homeCntReq_requests : Fld := ⟨0, 64, .ro, 0, 0, 0xFFFFFFFFFFFFFFFF⟩
def F.homeCntFwd_forwards : Fld := ⟨0, 64, .ro, 0, 0, 0xFFFFFFFFFFFFFFFF⟩
def F.homeCntInv_notPresent : Fld := ⟨0, 32, .rc, 0, 0, 0xFFFFFFFF⟩
def F.homeCntInv_dirEvict : Fld := ⟨32, 32, .rc, 0, 0, 0xFFFFFFFF⟩
def F.homeCntPfence_linesCleaned : Fld := ⟨0, 64, .ro, 0, 0, 0xFFFFFFFFFFFFFFFF⟩
def F.xlCtrl_enable : Fld := ⟨0, 1, .rwp, 0, 0, 0x1⟩
def F.xlCmd_invalidate : Fld := ⟨0, 1, .w1p, 0, 0, 0x1⟩
def F.xlCmd_clean : Fld := ⟨1, 1, .w1p, 0, 0, 0x1⟩
def F.xlCmd_busy : Fld := ⟨8, 1, .ro, 0, 0, 0x1⟩
def F.xlCmd_invDone : Fld := ⟨9, 1, .ro, 0, 0, 0x1⟩
def F.xlCmd_enableRefused : Fld := ⟨10, 1, .rc, 0, 0, 0x1⟩
def F.xlCmd_cmdRefused : Fld := ⟨11, 1, .rc, 0, 0, 0x1⟩
def F.xlStat_enabled : Fld := ⟨0, 1, .ro, 0, 0, 0x1⟩
def F.xlStat_disabling : Fld := ⟨1, 1, .ro, 0, 0, 0x1⟩
def F.xlStat_staleRisk : Fld := ⟨2, 1, .ro, 0, 0, 0x1⟩
def F.xlStat_missUsed : Fld := ⟨3, 14, .ro, 0, 0, 0x3FFF⟩
def F.xlTwinCtrl_enable : Fld := ⟨0, 1, .rwp, 0, 0, 0x1⟩
def F.xlTwinCtrl_wayMask : Fld := ⟨16, 16, .rwp, 3, 0, 0xFFFF⟩
def F.xlTwinCtrl_ttl : Fld := ⟨32, 32, .rwp, 0x2710, 1, 0xFFFFFFFF⟩
def F.xlPart_wayMask : Fld := ⟨0, 16, .rwp, 0xFFFF, 0, 0xFFFF⟩
def F.xlCntHit_hits : Fld := ⟨0, 64, .ro, 0, 0, 0xFFFFFFFFFFFFFFFF⟩
def F.xlCntMiss_misses : Fld := ⟨0, 64, .ro, 0, 0, 0xFFFFFFFFFFFFFFFF⟩
def F.xlCntBackinv_backinv : Fld := ⟨0, 32, .rc, 0, 0, 0xFFFFFFFF⟩
def F.xlCntBackinv_notPresent : Fld := ⟨32, 32, .rc, 0, 0, 0xFFFFFFFF⟩
def F.xlCntTwin_twinHits : Fld := ⟨0, 64, .ro, 0, 0, 0xFFFFFFFFFFFFFFFF⟩
def F.cohStat_mosi : Fld := ⟨0, 1, .ro, 0, 0, 0x1⟩
def F.cohStat_detour : Fld := ⟨8, 8, .ro, 0, 0, 0xFF⟩
def F.cohCntSnoop_snoops : Fld := ⟨0, 64, .ro, 0, 0, 0xFFFFFFFFFFFFFFFF⟩
def F.seCtrl_enable : Fld := ⟨0, 1, .rwp, 0, 0, 0x1⟩
def F.seCtrl_hostAccess : Fld := ⟨1, 1, .rwp, 0, 0, 0x1⟩
def F.seCtrl_ctx : Fld := ⟨8, 8, .rwp, 0, 0, 0xFF⟩
def F.seCtrl_part : Fld := ⟨16, 3, .rws, 0, 0, 0x7⟩
def F.seCtrl_ringLog2 : Fld := ⟨24, 5, .rwp, 2, 2, 0x10⟩
def F.seRing_ring : Fld := ⟨6, 42, .rwp, 0, 0, 0x3FFFFFFFFFF⟩
def F.seDb_prod : Fld := ⟨0, 32, .rw, 0, 0, 0xFFFFFFFF⟩
def F.seDb_fetch : Fld := ⟨32, 32, .ro, 0, 0, 0xFFFFFFFF⟩
def F.seStat_state : Fld := ⟨0, 3, .ro, 0, 0, 0x7⟩
def F.seStat_queued : Fld := ⟨3, 9, .ro, 0, 0, 0x1FF⟩
def F.seStat_runs : Fld := ⟨12, 15, .ro, 0, 0, 0x7FFF⟩
def F.seStat_doneIdx : Fld := ⟨32, 32, .ro, 0, 0, 0xFFFFFFFF⟩
def F.seCmd_action : Fld := ⟨0, 4, .rwp, 0, 0, 0x3⟩
def F.seEvent_done : Fld := ⟨0, 1, .rc, 0, 0, 0x1⟩
def F.seEvent_error : Fld := ⟨1, 1, .rc, 0, 0, 0x1⟩
def F.seEvent_deadline : Fld := ⟨2, 1, .rc, 0, 0, 0x1⟩
def F.seEvent_badDoorbell : Fld := ⟨3, 1, .rc, 0, 0, 0x1⟩
def F.seEvent_firstIdx : Fld := ⟨16, 32, .rc, 0, 0, 0xFFFFFFFF⟩
def F.seCntBytes_bytes : Fld := ⟨0, 64, .ro, 0, 0, 0xFFFFFFFFFFFFFFFF⟩
def F.seCntDesc_descriptors : Fld := ⟨0, 32, .rc, 0, 0, 0xFFFFFFFF⟩
def F.seCntDesc_faults : Fld := ⟨32, 32, .rc, 0, 0, 0xFFFFFFFF⟩
def F.hseCtrl_enable : Fld := ⟨0, 1, .rwp, 0, 0, 0x1⟩
def F.hseCtrl_hostAccess : Fld := ⟨1, 1, .rwp, 0, 0, 0x1⟩
def F.hseCtrl_ctx : Fld := ⟨8, 8, .rwp, 0, 0, 0xFF⟩
def F.hseCtrl_part : Fld := ⟨16, 3, .rws, 0, 0, 0x7⟩
def F.hseCtrl_ringLog2 : Fld := ⟨24, 5, .rwp, 2, 2, 0x10⟩
def F.hseRing_ring : Fld := ⟨6, 42, .rwp, 0, 0, 0x3FFFFFFFFFF⟩
def F.hseDb_prod : Fld := ⟨0, 32, .rw, 0, 0, 0xFFFFFFFF⟩
def F.hseDb_fetch : Fld := ⟨32, 32, .ro, 0, 0, 0xFFFFFFFF⟩
def F.hseStat_state : Fld := ⟨0, 3, .ro, 0, 0, 0x7⟩
def F.hseStat_queued : Fld := ⟨3, 9, .ro, 0, 0, 0x1FF⟩
def F.hseStat_runs : Fld := ⟨12, 15, .ro, 0, 0, 0x7FFF⟩
def F.hseStat_doneIdx : Fld := ⟨32, 32, .ro, 0, 0, 0xFFFFFFFF⟩
def F.hseCmd_action : Fld := ⟨0, 4, .rwp, 0, 0, 0x3⟩
def F.hseEvent_done : Fld := ⟨0, 1, .rc, 0, 0, 0x1⟩
def F.hseEvent_error : Fld := ⟨1, 1, .rc, 0, 0, 0x1⟩
def F.hseEvent_deadline : Fld := ⟨2, 1, .rc, 0, 0, 0x1⟩
def F.hseEvent_badDoorbell : Fld := ⟨3, 1, .rc, 0, 0, 0x1⟩
def F.hseEvent_firstIdx : Fld := ⟨16, 32, .rc, 0, 0, 0xFFFFFFFF⟩
def F.hseCntBytes_bytes : Fld := ⟨0, 64, .ro, 0, 0, 0xFFFFFFFFFFFFFFFF⟩
def F.hseCntDesc_descriptors : Fld := ⟨0, 32, .rc, 0, 0, 0xFFFFFFFF⟩
def F.hseCntDesc_faults : Fld := ⟨32, 32, .rc, 0, 0, 0xFFFFFFFF⟩
def F.ctxBase_enable : Fld := ⟨0, 1, .rwp, 0, 0, 0x1⟩
def F.ctxBase_base : Fld := ⟨13, 31, .rwp, 0, 0, 0x7FFFFFFF⟩
def F.shootVa_va : Fld := ⟨16, 32, .rwp, 0, 0, 0xFFFFFFFF⟩
def F.shootCtrl_ctx : Fld := ⟨0, 8, .rwp, 0, 0, 0xFF⟩
def F.shootCtrl_all : Fld := ⟨8, 1, .rwp, 0, 0, 0x1⟩
def F.shootCtrl_go : Fld := ⟨9, 1, .w1p, 0, 0, 0x1⟩
def F.shootCtrl_npages : Fld := ⟨16, 24, .rwp, 0, 0, 0xFFFFFF⟩
def F.shootSeq_seq : Fld := ⟨0, 32, .rwp, 0, 0, 0xFFFFFFFF⟩
def F.shootStat_busy : Fld := ⟨0, 1, .ro, 0, 0, 0x1⟩
def F.shootStat_seqMismatch : Fld := ⟨1, 1, .rc, 0, 0, 0x1⟩
def F.shootStat_refused : Fld := ⟨2, 1, .rc, 0, 0, 0x1⟩
def F.shootStat_requeued : Fld := ⟨16, 16, .ro, 0, 0, 0xFFFF⟩
def F.fqBase_enable : Fld := ⟨0, 1, .rwp, 0, 0, 0x1⟩
def F.fqBase_sizeLog2 : Fld := ⟨1, 5, .rwp, 0xC, 12, 0x10⟩
def F.fqBase_base : Fld := ⟨12, 32, .rwp, 0, 0, 0xFFFFFFFF⟩
def F.fqProd_prod : Fld := ⟨0, 32, .ro, 0, 0, 0xFFFFFFFF⟩
def F.fqProd_pending : Fld := ⟨32, 17, .ro, 0, 0, 0x1FFFF⟩
def F.fqCons_cons : Fld := ⟨0, 32, .rwp, 0, 0, 0xFFFFFFFF⟩
def F.fqStat_full : Fld := ⟨0, 1, .ro, 0, 0, 0x1⟩
def F.fqStat_held : Fld := ⟨1, 11, .ro, 0, 0, 0x7FF⟩
def F.fqResolve_part : Fld := ⟨0, 3, .rwp, 0, 0, 0x7⟩
def F.fqResolve_action : Fld := ⟨3, 1, .rwp, 0, 0, 0x1⟩
def F.fqResolve_go : Fld := ⟨4, 1, .w1p, 0, 0, 0x1⟩
def F.fqResolve_index : Fld := ⟨32, 32, .rwp, 0, 0, 0xFFFFFFFF⟩
def F.fqResStat_done : Fld := ⟨0, 1, .ro, 0, 0, 0x1⟩
def F.fqResStat_notPending : Fld := ⟨1, 1, .ro, 0, 0, 0x1⟩
def F.fqResStat_count : Fld := ⟨16, 16, .ro, 0, 0, 0xFFFF⟩
def F.cntFq_overflow : Fld := ⟨0, 32, .rc, 0, 0, 0xFFFFFFFF⟩
def F.cntFq_merged : Fld := ⟨32, 32, .rc, 0, 0, 0xFFFFFFFF⟩
def F.cntShoot_shootdowns : Fld := ⟨0, 64, .ro, 0, 0, 0xFFFFFFFFFFFFFFFF⟩
def F.wvCtrl_timeoutUs : Fld := ⟨0, 24, .rwp, 0x4E20, 1, 0xFFFFFF⟩
def F.wvImgAddr_addr : Fld := ⟨6, 34, .rwp, 0, 0, 0x3FFFFFFFF⟩
def F.wvImgLen_len : Fld := ⟨0, 32, .rwp, 0, 0, 0xFFFFFFFF⟩
def F.wvCmd_action : Fld := ⟨0, 4, .rwp, 0, 0, 0x3⟩
def F.wvStat_state : Fld := ⟨0, 3, .ro, 0, 0, 0x7⟩
def F.wvStat_reason : Fld := ⟨8, 8, .ro, 0, 0, 0xFF⟩
def F.wvStat_zeroPending : Fld := ⟨16, 1, .ro, 0, 0, 0x1⟩
def F.wvStat_cmdRefused : Fld := ⟨17, 1, .rc, 0, 0, 0x1⟩
def F.wvEpoch_epoch : Fld := ⟨0, 32, .ro, 0, 0, 0xFFFFFFFF⟩
def F.wvEpoch_next : Fld := ⟨32, 32, .ro, 0, 0, 0xFFFFFFFF⟩
def F.wvVote_ready : Fld := ⟨0, 64, .ro, 0, 0, 0xFFFFFFFFFFFFFFFF⟩
def F.wvScope_scope : Fld := ⟨0, 64, .ro, 0, 0, 0xFFFFFFFFFFFFFFFF⟩
def F.wvSeWait_ready : Fld := ⟨0, 64, .ro, 0, 0, 0xFFFFFFFFFFFFFFFF⟩
def F.wvDigest_digest : Fld := ⟨0, 64, .ro, 0, 0, 0xFFFFFFFFFFFFFFFF⟩
def F.wvClEpoch_epoch : Fld := ⟨0, 32, .ro, 0, 0, 0xFFFFFFFF⟩
def F.wvClEpoch_cstate : Fld := ⟨32, 3, .ro, 4, 0, 0x7⟩
def F.wvClEpoch_parkedGroups : Fld := ⟨35, 13, .ro, 0, 0, 0x1FFF⟩
def F.wvCntCommit_commits : Fld := ⟨0, 32, .rc, 0, 0, 0xFFFFFFFF⟩
def F.wvCntCommit_aborts : Fld := ⟨32, 32, .rc, 0, 0, 0xFFFFFFFF⟩
def F.wvCntFence_held : Fld := ⟨0, 32, .rc, 0, 0, 0xFFFFFFFF⟩
def F.wvCntFence_lateVotes : Fld := ⟨32, 32, .rc, 0, 0, 0xFFFFFFFF⟩
def F.wvCntRefused_refused : Fld := ⟨0, 32, .rc, 0, 0, 0xFFFFFFFF⟩
def F.wvCntRefused_killed : Fld := ⟨32, 32, .rc, 0, 0, 0xFFFFFFFF⟩
def F.hostCtrl_action : Fld := ⟨0, 4, .rwp, 0, 0, 0x3⟩
def F.hostCtrl_hdInService : Fld := ⟨4, 2, .ro, 0, 0, 0x3⟩
def F.hostHb_value : Fld := ⟨0, 64, .rw, 0, 0, 0xFFFFFFFFFFFFFFFF⟩
def F.hostFb_fbTimeoutMs : Fld := ⟨0, 16, .rwp, 0x1F4, 0, 0xFFFF⟩
def F.hostFb_hbPeriodMs : Fld := ⟨16, 16, .rwp, 0, 0, 0xFFFF⟩
def F.hostFb_absent : Fld := ⟨32, 1, .ro, 0, 0, 0x1⟩
def F.hostFb_fbActive : Fld := ⟨33, 1, .ro, 0, 0, 0x1⟩
def F.hostFb_fbDie : Fld := ⟨34, 4, .ro, 0, 0, 0xF⟩
def F.hostFb_fbNone : Fld := ⟨38, 1, .ro, 0, 0, 0x1⟩
def F.hostRj_enable : Fld := ⟨0, 1, .rwp, 0, 0, 0x1⟩
def F.hostRj_valid : Fld := ⟨1, 1, .rc, 0, 0, 0x1⟩
def F.hostRj_base : Fld := ⟨22, 18, .rwp, 0, 0, 0x3FFFF⟩
def F.hostCnt_hostResets : Fld := ⟨0, 32, .rc, 0, 0, 0xFFFFFFFF⟩
def F.hostCnt_fallbacks : Fld := ⟨32, 32, .rc, 0, 0, 0xFFFFFFFF⟩
def F.hostCntCmd_commands : Fld := ⟨0, 64, .ro, 0, 0, 0xFFFFFFFFFFFFFFFF⟩
def F.hostDb_prod : Fld := ⟨0, 32, .rw, 0, 0, 0xFFFFFFFF⟩
def F.hostDb_done : Fld := ⟨32, 32, .ro, 0, 0, 0xFFFFFFFF⟩
def F.ringBase_ring : Fld := ⟨6, 42, .rwp, 0, 0, 0x3FFFFFFFFFF⟩
def F.ringCtrl_enable : Fld := ⟨0, 1, .rwp, 0, 0, 0x1⟩
def F.ringCtrl_pause : Fld := ⟨1, 1, .rwp, 0, 0, 0x1⟩
def F.ringCtrl_sizeLog2 : Fld := ⟨2, 5, .rwp, 2, 2, 0x10⟩
def F.ringCtrl_badDoorbell : Fld := ⟨7, 1, .rc, 0, 0, 0x1⟩
def F.ringCtrl_ctx : Fld := ⟨8, 8, .rwp, 0, 0, 0xFF⟩
def F.ringCtrl_part : Fld := ⟨16, 3, .rws, 0, 0, 0x7⟩
def F.ringCtrl_state : Fld := ⟨19, 3, .ro, 0, 0, 0x7⟩
def F.ringCtrl_fetch : Fld := ⟨32, 32, .ro, 0, 0, 0xFFFFFFFF⟩
def F.ringMsiAddr_file : Fld := ⟨12, 36, .rwp, 0, 0, 0xFFFFFFFFF⟩
def F.ringMsiCtrl_ident : Fld := ⟨0, 8, .rwp, 0, 0, 0xFF⟩
def F.ringMsiCtrl_mask : Fld := ⟨32, 1, .rwp, 1, 0, 0x1⟩
def F.ringMsiCtrl_pend : Fld := ⟨33, 1, .ro, 0, 0, 0x1⟩
def F.ringMsiCtrl_undeliv : Fld := ⟨34, 1, .ro, 0, 0, 0x1⟩
def F.bobCtrl_run : Fld := ⟨0, 1, .rwp, 0, 0, 0x1⟩
def F.bobCtrl_fbEligible : Fld := ⟨1, 1, .rwp, 1, 0, 0x1⟩
def F.bobCtrl_role : Fld := ⟨2, 2, .ro, 0, 0, 0x3⟩
def F.bobCtrl_halted : Fld := ⟨4, 1, .ro, 0, 0, 0x1⟩
def F.pcieCtrl_enable : Fld := ⟨0, 1, .rwp, 1, 0, 0x1⟩
def F.pcieCtrl_retrain : Fld := ⟨1, 1, .w1p, 0, 0, 0x1⟩
def F.pcieStat_speed : Fld := ⟨0, 3, .ro, 0, 0, 0x7⟩
def F.pcieStat_width : Fld := ⟨3, 5, .ro, 0, 0, 0x1F⟩
def F.pcieStat_dpc : Fld := ⟨8, 1, .ro, 0, 0, 0x1⟩
def F.pcieEvent_linkChange : Fld := ⟨0, 1, .rc, 0, 0, 0x1⟩
def F.pcieEvent_aerUncorr : Fld := ⟨1, 1, .rc, 0, 0, 0x1⟩
def F.pcieEvent_aerCorr : Fld := ⟨2, 1, .rc, 0, 0, 0x1⟩
def F.pcieEvent_winViol : Fld := ⟨3, 1, .rc, 0, 0, 0x1⟩
def F.pcieViol_addr : Fld := ⟨0, 48, .rc, 0, 0, 0xFFFFFFFFFFFF⟩
def F.pcieViol_reqId : Fld := ⟨48, 16, .rc, 0, 0, 0xFFFF⟩
def F.dmaWinBase_valid : Fld := ⟨0, 1, .rwp, 0, 0, 0x1⟩
def F.dmaWinBase_r : Fld := ⟨1, 1, .rwp, 0, 0, 0x1⟩
def F.dmaWinBase_w : Fld := ⟨2, 1, .rwp, 0, 0, 0x1⟩
def F.dmaWinBase_base : Fld := ⟨21, 19, .rwp, 0, 0, 0x7FFFF⟩
def F.dmaWinLimit_limit : Fld := ⟨21, 19, .rwp, 0, 0, 0x7FFFF⟩
def F.pcieCnt_viol : Fld := ⟨0, 32, .rc, 0, 0, 0xFFFFFFFF⟩
def F.imsicGeom_identities : Fld := ⟨0, 16, .ro, 0xFF, 0, 0xFFFF⟩
def F.imsicGeom_geilen : Fld := ⟨16, 8, .ro, 7, 0, 0xFF⟩
def F.twnCtrl_enable : Fld := ⟨0, 1, .rwp, 0, 0, 0x1⟩
def F.twnCtrl_mode : Fld := ⟨1, 2, .rwp, 0, 0, 0x2⟩
def F.twnCtrl_role : Fld := ⟨3, 1, .rwp, 0, 0, 0x1⟩
def F.twnCtrl_autoTakeover : Fld := ⟨4, 1, .rwp, 0, 0, 0x1⟩
def F.twnCtrl_action : Fld := ⟨8, 4, .rwp, 0, 0, 0x4⟩
def F.twnCtrl_minLanes : Fld := ⟨12, 5, .rwp, 8, 1, 0x10⟩
def F.twnStat_state : Fld := ⟨0, 3, .ro, 0, 0, 0x7⟩
def F.twnStat_lanes : Fld := ⟨3, 5, .ro, 0, 0, 0x1F⟩
def F.twnStat_peerSeen : Fld := ⟨8, 1, .ro, 0, 0, 0x1⟩
def F.twnStat_fenced : Fld := ⟨9, 1, .ro, 0, 0, 0x1⟩
def F.twnStat_takenOver : Fld := ⟨10, 1, .rc, 0, 0, 0x1⟩
def F.twnStat_batchBroken : Fld := ⟨11, 1, .rc, 0, 0, 0x1⟩
def F.twnStat_resyncNeeded : Fld := ⟨12, 1, .ro, 0, 0, 0x1⟩
def F.twnStat_peerSuspended : Fld := ⟨13, 1, .ro, 0, 0, 0x1⟩
def F.twnStat_modeRefused : Fld := ⟨14, 3, .ro, 0, 0, 0x7⟩
def F.twnWit_leaseMs : Fld := ⟨0, 16, .rwp, 0xC8, 0, 0xFFFF⟩
def F.twnWit_takeoverMs : Fld := ⟨16, 16, .rwp, 0x1F4, 0, 0xFFFF⟩
def F.twnWit_witnessMs : Fld := ⟨32, 16, .rwp, 0x64, 20, 0xFFFF⟩
def F.mirCtrl_windowMb : Fld := ⟨0, 3, .rwp, 4, 1, 0x4⟩
def F.mirCtrl_onLinkLoss : Fld := ⟨3, 1, .rwp, 1, 0, 0x1⟩
def F.mirStat_markSent : Fld := ⟨0, 32, .ro, 0, 0, 0xFFFFFFFF⟩
def F.mirStat_markApplied : Fld := ⟨32, 32, .ro, 0, 0, 0xFFFFFFFF⟩
def F.rxj_enable : Fld := ⟨0, 1, .rwp, 0, 0, 0x1⟩
def F.rxj_size : Fld := ⟨1, 7, .rwp, 0, 1, 0x40⟩
def F.rxj_base : Fld := ⟨26, 14, .rwp, 0, 0, 0x3FFF⟩
def F.mirRgnBase_valid : Fld := ⟨0, 1, .rwp, 0, 0, 0x1⟩
def F.mirRgnBase_base : Fld := ⟨21, 19, .rwp, 0, 0, 0x7FFFF⟩
def F.mirRgnLimit_limit : Fld := ⟨21, 19, .rwp, 0, 0, 0x7FFFF⟩
def F.exportBase_valid : Fld := ⟨0, 1, .rwp, 0, 0, 0x1⟩
def F.exportBase_r : Fld := ⟨1, 1, .rwp, 0, 0, 0x1⟩
def F.exportBase_w : Fld := ⟨2, 1, .rwp, 0, 0, 0x1⟩
def F.exportBase_base : Fld := ⟨21, 19, .rwp, 0, 0, 0x7FFFF⟩
def F.exportLimit_limit : Fld := ⟨21, 19, .rwp, 0, 0, 0x7FFFF⟩
def F.dcCtrl_dcTimeoutUs : Fld := ⟨0, 32, .rwp, 0x3E8, 1, 0xFFFFFFFF⟩
def F.dcCtrl_rearm : Fld := ⟨32, 1, .w1p, 0, 0, 0x1⟩
def F.dcRec_word : Fld := ⟨0, 64, .ro, 0, 0, 0xFFFFFFFFFFFFFFFF⟩
def F.twnCntDc_compared : Fld := ⟨0, 32, .rc, 0, 0, 0xFFFFFFFF⟩
def F.twnCntDc_mismatches : Fld := ⟨32, 32, .rc, 0, 0, 0xFFFFFFFF⟩
def F.twnCntErr_crcRetry : Fld := ⟨0, 32, .rc, 0, 0, 0xFFFFFFFF⟩
def F.twnCntErr_refused : Fld := ⟨32, 32, .rc, 0, 0, 0xFFFFFFFF⟩
def F.secStat_state : Fld := ⟨0, 3, .ro, 0, 0, 0x7⟩
def F.secStat_jtagUnlocked : Fld := ⟨3, 1, .ro, 0, 0, 0x1⟩
def F.secStat_zeroizing : Fld := ⟨4, 1, .ro, 0, 0, 0x1⟩
def F.secStat_failStage : Fld := ⟨5, 4, .ro, 0, 0, 0xF⟩
def F.secStat_unlockFails : Fld := ⟨9, 2, .ro, 0, 0, 0x3⟩
def F.secEvent_verifyFail : Fld := ⟨0, 1, .rc, 0, 0, 0x1⟩
def F.secEvent_unlockAttempt : Fld := ⟨1, 1, .rc, 0, 0, 0x1⟩
def F.secEvent_twinAuthFail : Fld := ⟨2, 1, .rc, 0, 0, 0x1⟩
def F.secEvent_coalescing : Fld := ⟨3, 1, .rc, 0, 0, 0x1⟩
def F.secEvent_mboxDone : Fld := ⟨4, 1, .rc, 0, 0, 0x1⟩
def F.mboxAddr_addr : Fld := ⟨12, 28, .rwp, 0, 0, 0xFFFFFFF⟩
def F.mboxCtrl_go : Fld := ⟨0, 1, .w1p, 0, 0, 0x1⟩
def F.mboxCtrl_busy : Fld := ⟨1, 1, .ro, 0, 0, 0x1⟩
def F.mboxCtrl_refused : Fld := ⟨2, 1, .rc, 0, 0, 0x1⟩
def F.mboxCtrl_secureReq : Fld := ⟨3, 1, .ro, 0, 0, 0x1⟩
def F.twinPolicy_matchSlots : Fld := ⟨0, 16, .rws, 5, 0, 0xFFFF⟩
def F.logStat_pending : Fld := ⟨0, 16, .ro, 0, 0, 0xFFFF⟩
def F.logStat_coalescing : Fld := ⟨16, 1, .ro, 0, 0, 0x1⟩
def F.logSeq_next : Fld := ⟨0, 64, .ro, 0, 0, 0xFFFFFFFFFFFFFFFF⟩
def F.logOldest_oldest : Fld := ⟨0, 64, .ro, 0, 0, 0xFFFFFFFFFFFFFFFF⟩
def F.secSvn_onyxFw : Fld := ⟨0, 6, .ro, 0, 0, 0x3F⟩
def F.secSvn_hostFw : Fld := ⟨8, 6, .ro, 0, 0, 0x3F⟩
def F.secSvn_bobbinFw : Fld := ⟨16, 6, .ro, 0, 0, 0x3F⟩
def F.secSvn_debugUnlock : Fld := ⟨24, 6, .ro, 0, 0, 0x3F⟩
def F.secSvn_manifest : Fld := ⟨32, 6, .ro, 0, 0, 0x3F⟩
def F.secRevoked_revoked : Fld := ⟨0, 16, .ro, 0, 0, 0xFFFF⟩
def F.secMeas_word : Fld := ⟨0, 64, .ro, 0, 0, 0xFFFFFFFFFFFFFFFF⟩
def F.secCntAuth_tagFail : Fld := ⟨0, 32, .rc, 0, 0, 0xFFFFFFFF⟩
def F.secCntAuth_spdmErr : Fld := ⟨32, 32, .rc, 0, 0, 0xFFFFFFFF⟩
def F.secCntLog_coalesced : Fld := ⟨0, 32, .rc, 0, 0, 0xFFFFFFFF⟩
def F.secCntLog_verifyFails : Fld := ⟨32, 32, .rc, 0, 0, 0xFFFFFFFF⟩
def F.pwrIn_vin : Fld := ⟨0, 16, .ro, 0, 0, 0xFFFF⟩
def F.pwrIn_vhold : Fld := ⟨16, 16, .ro, 0, 0, 0xFFFF⟩
def F.pwrIn_pin : Fld := ⟨32, 16, .ro, 0, 0, 0xFFFF⟩
def F.pwrIn_iin : Fld := ⟨48, 16, .ro, 0, 0, 0xFFFF⟩
def F.pwrThr_warnV : Fld := ⟨0, 12, .rwp, 0x2BC, 680, 0x320⟩
def F.pwrThr_sagV : Fld := ⟨16, 12, .ro, 0x280, 0, 0xFFF⟩
def F.pwrThr_rearmV : Fld := ⟨32, 12, .ro, 0x2A8, 0, 0xFFF⟩
def F.pwrThr_dropoutV : Fld := ⟨48, 12, .ro, 0x1E0, 0, 0xFFF⟩
def F.pwrHoldup_capUf : Fld := ⟨0, 16, .ro, 0, 0, 0xFFFF⟩
def F.pwrHoldup_measValid : Fld := ⟨16, 1, .ro, 0, 0, 0x1⟩
def F.pwrHoldup_holdupLow : Fld := ⟨17, 1, .ro, 0, 0, 0x1⟩
def F.saveCtrl_action : Fld := ⟨0, 4, .rwp, 0, 0, 0x2⟩
def F.saveCtrl_listCount : Fld := ⟨16, 9, .rwp, 0, 0, 0x1FF⟩
def F.saveList_addr : Fld := ⟨12, 28, .rwp, 0, 0, 0xFFFFFFF⟩
def F.saveStat_state : Fld := ⟨0, 2, .ro, 0, 0, 0x3⟩
def F.saveStat_lastSlot : Fld := ⟨2, 1, .ro, 0, 0, 0x1⟩
def F.saveStat_lastCause : Fld := ⟨3, 3, .ro, 0, 0, 0x7⟩
def F.saveStat_lastResult : Fld := ⟨6, 2, .ro, 0, 0, 0x3⟩
def F.saveStat_listEntries : Fld := ⟨8, 9, .ro, 0, 0, 0x1FF⟩
def F.saveStat_listKib : Fld := ⟨17, 14, .ro, 0, 0, 0x3FFF⟩
def F.saveStat_lastSeq : Fld := ⟨32, 32, .ro, 0, 0, 0xFFFFFFFF⟩
def F.pwrEvent_warn : Fld := ⟨0, 1, .rc, 0, 0, 0x1⟩
def F.pwrEvent_sag : Fld := ⟨1, 1, .rc, 0, 0, 0x1⟩
def F.pwrEvent_overvolt : Fld := ⟨2, 1, .rc, 0, 0, 0x1⟩
def F.pwrEvent_overcurrent : Fld := ⟨3, 1, .rc, 0, 0, 0x1⟩
def F.pwrEvent_overpower : Fld := ⟨4, 1, .rc, 0, 0, 0x1⟩
def F.pwrEvent_saveDone : Fld := ⟨5, 1, .rc, 0, 0, 0x1⟩
def F.pwrEvent_listBad : Fld := ⟨6, 1, .rc, 0, 0, 0x1⟩
def F.pwrEvent_holdupLow : Fld := ⟨7, 1, .rc, 0, 0, 0x1⟩
def F.pwrCool_inletT : Fld := ⟨0, 8, .ro, 0, 0, 0xFF⟩
def F.pwrCool_outletT : Fld := ⟨8, 8, .ro, 0, 0, 0xFF⟩
def F.pwrCool_flow : Fld := ⟨16, 12, .ro, 0, 0, 0xFFF⟩
def F.pwrCool_coolWarn : Fld := ⟨28, 1, .ro, 0, 0, 0x1⟩
def F.pwrCool_derateW : Fld := ⟨32, 16, .rwp, 0, 0, 0xFFFF⟩
def F.pwrCnt_warns : Fld := ⟨0, 32, .rc, 0, 0, 0xFFFFFFFF⟩
def F.pwrCnt_sags : Fld := ⟨32, 32, .rc, 0, 0, 0xFFFFFFFF⟩
def F.pwrCntEnergy_energyJ : Fld := ⟨0, 64, .ro, 0, 0, 0xFFFFFFFFFFFFFFFF⟩
def F.rasCtrl_action : Fld := ⟨0, 4, .rwp, 0, 0, 0x4⟩
def F.rasCtrl_site : Fld := ⟨4, 4, .rwp, 0, 0, 0xF⟩
def F.rasStat_lostNear : Fld := ⟨0, 8, .ro, 0, 0, 0xFF⟩
def F.rasStat_restoreBusy : Fld := ⟨8, 1, .ro, 0, 0, 0x1⟩
def F.rasStat_restoreDone : Fld := ⟨9, 1, .rc, 0, 0, 0x1⟩
def F.rasStat_restoreNone : Fld := ⟨10, 1, .rc, 0, 0, 0x1⟩
def F.rasProd_prod : Fld := ⟨0, 64, .ro, 0, 0, 0xFFFFFFFFFFFFFFFF⟩
def F.rasCons_cons : Fld := ⟨0, 64, .rwp, 0, 0, 0xFFFFFFFFFFFFFFFF⟩
def F.rasRecSel_seq : Fld := ⟨0, 64, .rwp, 0, 0, 0xFFFFFFFFFFFFFFFF⟩
def F.rasRestore_addr : Fld := ⟨12, 28, .rwp, 0, 0, 0xFFFFFFF⟩
def F.rasRec_word : Fld := ⟨0, 64, .ro, 0, 0, 0xFFFFFFFFFFFFFFFF⟩
def F.rasCnt_droppedCe : Fld := ⟨0, 16, .rc, 0, 0, 0xFFFF⟩
def F.rasCnt_overwritten : Fld := ⟨16, 16, .rc, 0, 0, 0xFFFF⟩
def F.rasCnt_pprSkipped : Fld := ⟨32, 16, .rc, 0, 0, 0xFFFF⟩
def F.rasCnt_dieLosses : Fld := ⟨48, 16, .rc, 0, 0, 0xFFFF⟩

/-! ## The catalogue -/

def rows_glob0 : List RegRow := [
  { dom := .glob, off := 0x0,
    fields := [F.site_siteId, F.site_siteType, F.site_strapPar, F.site_strapOk, F.site_dieKind, F.site_stepping, F.site_caps] },
  { dom := .glob, off := 0x20,
    fields := [F.snapCtrl_take, F.snapCtrl_takeAll, F.snapCtrl_busy, F.snapCtrl_seq] },
  { dom := .glob, off := 0x28,
    fields := [F.snapTime_tick, F.snapTime_dies] },
  { dom := .glob, off := 0x30, counter := true,
    fields := [F.violCnt_priv, F.violCnt_secure] },
  { dom := .glob, off := 0x38,
    fields := [F.violFirst_offset, F.violFirst_kind, F.violFirst_die, F.violFirst_unit, F.violFirst_write, F.violFirst_alias, F.violFirst_secure, F.violFirst_valid] },
  { dom := .glob, off := 0x40, counter := true,
    fields := [F.accErr_decode, F.accErr_size] },
  { dom := .glob, off := 0x3000, n1 := 256, s1 := 0x10,
    fields := [F.msiAddr_file] },
  { dom := .glob, off := 0x3008, n1 := 256, s1 := 0x10,
    fields := [F.msiCtrl_ident, F.msiCtrl_mask, F.msiCtrl_pend, F.msiCtrl_undeliv] }]

/-- The registers of domain `glob`. -/
def rows_glob : List RegRow := rows_glob0

def rows_hub0 : List RegRow := [
  { dom := .hub, off := 0x8,
    fields := [F.capsPkg_caps, F.capsPkg_diePresent] },
  { dom := .hub, off := 0x10,
    fields := [F.dieHeld_held] },
  { dom := .hub, off := 0x10000,
    fields := [F.laserThr_warnPct, F.laserThr_swapPct, F.laserThr_autoSwap] },
  { dom := .hub, off := 0x10008,
    fields := [F.linkCtrl_retrainAll, F.linkCtrl_laserSingle, F.linkCtrl_laserNone] },
  { dom := .hub, off := 0x10100, n1 := 8, s1 := 0x40,
    fields := [F.olCtrl_enable, F.olCtrl_retrain, F.olCtrl_spareAuto, { F.olCtrl_minWg with reset := 0x10 }] },
  { dom := .hub, off := 0x10300, n1 := 2, s1 := 0x40,
    fields := [F.olCtrl_enable, F.olCtrl_retrain, F.olCtrl_spareAuto, { F.olCtrl_minWg with reset := 0x8 }] },
  { dom := .hub, off := 0x10108, n1 := 8, s1 := 0x40,
    fields := [F.olStat_state, F.olStat_wgGood, { F.olStat_wgTotal with reset := 0x20 }, F.olStat_peerSite, F.olStat_peerMismatch, F.olStat_peerSpare1, F.olStat_trainCount] },
  { dom := .hub, off := 0x10308, n1 := 2, s1 := 0x40,
    fields := [F.olStat_state, F.olStat_wgGood, { F.olStat_wgTotal with reset := 0x10 }, F.olStat_peerSite, F.olStat_peerMismatch, F.olStat_peerSpare1, F.olStat_trainCount] },
  { dom := .hub, off := 0x10110, n1 := 10, s1 := 0x40,
    fields := [F.olWg_goodMask] },
  { dom := .hub, off := 0x10118, n1 := 10, s1 := 0x40,
    fields := [F.olSpare_spareUsed] },
  { dom := .hub, off := 0x10120, n1 := 10, s1 := 0x40,
    fields := [F.olErr_crcRetry, F.olErr_wlFail] },
  { dom := .hub, off := 0x10800, n1 := 4, s1 := 0x8,
    fields := [F.laser_bias, F.laser_power, F.laser_ageing, F.laser_role] },
  { dom := .hub, off := 0x30000,
    fields := [F.tbCtrl_refOk, F.tbCtrl_holdover] },
  { dom := .hub, off := 0x30008,
    fields := [F.tbValue_value] },
  { dom := .hub, off := 0x30010,
    fields := [F.classCfg_p3Guard, F.classCfg_p1Alt] },
  { dom := .hub, off := 0x30018,
    fields := [F.paceCap_capW, F.paceCap_capEn, F.paceCap_tjMax, F.paceCap_powerW] },
  { dom := .hub, off := 0x30100, n1 := 11, s1 := 0x10,
    fields := [F.paceCtrl_mode, F.paceCtrl_target, F.paceCtrl_vset, F.paceCtrl_dieCapW] },
  { dom := .hub, off := 0x30108, n1 := 11, s1 := 0x10,
    fields := [F.paceStat_pace, F.paceStat_vcore, F.paceStat_tj, F.paceStat_power, F.paceStat_atCap, F.paceStat_atVmax, F.paceStat_tjLimit] },
  { dom := .hub, off := 0x30200,
    fields := [F.idleCtrl_enable, F.idleCtrl_unknownMax, F.idleCtrl_margin] },
  { dom := .hub, off := 0x30208, n1 := 8, s1 := 0x8,
    fields := [F.idleDie_maxState, F.idleDie_dieState, F.idleDie_clI3] },
  { dom := .hub, off := 0x31000, n1 := 8, s1 := 0x28, n2 := 5, s2 := 0x8, counter := true,
    fields := [F.idleRes_ticks] },
  { dom := .hub, off := 0x31200, n1 := 8, s1 := 0x8, counter := true,
    fields := [F.idleAbort_aborts] },
  { dom := .hub, off := 0x40000,
    fields := [F.xlCtrl_enable] },
  { dom := .hub, off := 0x40008,
    fields := [F.xlCmd_invalidate, F.xlCmd_clean, F.xlCmd_busy, F.xlCmd_invDone, F.xlCmd_enableRefused, F.xlCmd_cmdRefused] }]

def rows_hub1 : List RegRow := [
  { dom := .hub, off := 0x40010,
    fields := [F.xlStat_enabled, F.xlStat_disabling, F.xlStat_staleRisk, F.xlStat_missUsed] },
  { dom := .hub, off := 0x40018,
    fields := [F.xlTwinCtrl_enable, F.xlTwinCtrl_wayMask, F.xlTwinCtrl_ttl] },
  { dom := .hub, off := 0x40040, n1 := 9, s1 := 0x8,
    fields := [F.xlPart_wayMask] },
  { dom := .hub, off := 0x41000, counter := true,
    fields := [F.xlCntHit_hits] },
  { dom := .hub, off := 0x41008, counter := true,
    fields := [F.xlCntMiss_misses] },
  { dom := .hub, off := 0x41010, counter := true,
    fields := [F.xlCntBackinv_backinv, F.xlCntBackinv_notPresent] },
  { dom := .hub, off := 0x41018, counter := true,
    fields := [F.xlCntTwin_twinHits] },
  { dom := .hub, off := 0x20000,
    fields := [F.cohStat_mosi, F.cohStat_detour] },
  { dom := .hub, off := 0x21000, counter := true,
    fields := [F.cohCntSnoop_snoops] },
  { dom := .hub, off := 0x50000, n1 := 8, s1 := 0x40,
    fields := [F.hseCtrl_enable, F.hseCtrl_hostAccess, F.hseCtrl_ctx, F.hseCtrl_part, F.hseCtrl_ringLog2] },
  { dom := .hub, off := 0x50008, n1 := 8, s1 := 0x40,
    fields := [F.hseRing_ring] },
  { dom := .hub, off := 0x50010, n1 := 8, s1 := 0x40,
    fields := [F.hseDb_prod, F.hseDb_fetch] },
  { dom := .hub, off := 0x50018, n1 := 8, s1 := 0x40,
    fields := [F.hseStat_state, F.hseStat_queued, F.hseStat_runs, F.hseStat_doneIdx] },
  { dom := .hub, off := 0x50020, n1 := 8, s1 := 0x40,
    fields := [F.hseCmd_action] },
  { dom := .hub, off := 0x50028, n1 := 8, s1 := 0x40,
    fields := [F.hseEvent_done, F.hseEvent_error, F.hseEvent_deadline, F.hseEvent_badDoorbell, F.hseEvent_firstIdx] },
  { dom := .hub, off := 0x51000, n1 := 8, s1 := 0x10, counter := true,
    fields := [F.hseCntBytes_bytes] },
  { dom := .hub, off := 0x51008, n1 := 8, s1 := 0x10, counter := true,
    fields := [F.hseCntDesc_descriptors, F.hseCntDesc_faults] },
  { dom := .hub, off := 0x50400,
    fields := [F.ctxBase_enable, F.ctxBase_base] },
  { dom := .hub, off := 0x50408,
    fields := [F.shootVa_va] },
  { dom := .hub, off := 0x50410,
    fields := [F.shootCtrl_ctx, F.shootCtrl_all, F.shootCtrl_go, F.shootCtrl_npages] },
  { dom := .hub, off := 0x50418,
    fields := [F.shootSeq_seq] },
  { dom := .hub, off := 0x50420,
    fields := [F.shootStat_busy, F.shootStat_seqMismatch, F.shootStat_refused, F.shootStat_requeued] },
  { dom := .hub, off := 0x50800, n1 := 8, s1 := 0x20,
    fields := [F.fqBase_enable, F.fqBase_sizeLog2, F.fqBase_base] },
  { dom := .hub, off := 0x50808, n1 := 8, s1 := 0x20,
    fields := [F.fqProd_prod, F.fqProd_pending] }]

def rows_hub2 : List RegRow := [
  { dom := .hub, off := 0x50810, n1 := 8, s1 := 0x20,
    fields := [F.fqCons_cons] },
  { dom := .hub, off := 0x50818, n1 := 8, s1 := 0x20,
    fields := [F.fqStat_full, F.fqStat_held] },
  { dom := .hub, off := 0x50900,
    fields := [F.fqResolve_part, F.fqResolve_action, F.fqResolve_go, F.fqResolve_index] },
  { dom := .hub, off := 0x50908,
    fields := [F.fqResStat_done, F.fqResStat_notPending, F.fqResStat_count] },
  { dom := .hub, off := 0x51100, n1 := 8, s1 := 0x8, counter := true,
    fields := [F.cntFq_overflow, F.cntFq_merged] },
  { dom := .hub, off := 0x51180, counter := true,
    fields := [F.cntShoot_shootdowns] },
  { dom := .hub, off := 0x60000,
    fields := [F.wvCtrl_timeoutUs] },
  { dom := .hub, off := 0x60008,
    fields := [F.wvImgAddr_addr] },
  { dom := .hub, off := 0x60010,
    fields := [F.wvImgLen_len] },
  { dom := .hub, off := 0x60018,
    fields := [F.wvCmd_action] },
  { dom := .hub, off := 0x60020,
    fields := [F.wvStat_state, F.wvStat_reason, F.wvStat_zeroPending, F.wvStat_cmdRefused] },
  { dom := .hub, off := 0x60028,
    fields := [F.wvEpoch_epoch, F.wvEpoch_next] },
  { dom := .hub, off := 0x60030,
    fields := [F.wvVote_ready] },
  { dom := .hub, off := 0x60038,
    fields := [F.wvScope_scope] },
  { dom := .hub, off := 0x60040, n1 := 3, s1 := 0x8,
    fields := [F.wvSeWait_ready] },
  { dom := .hub, off := 0x60060, n1 := 6, s1 := 0x8,
    fields := [F.wvDigest_digest] },
  { dom := .hub, off := 0x60100, n1 := 64, s1 := 0x8,
    fields := [F.wvClEpoch_epoch, F.wvClEpoch_cstate, F.wvClEpoch_parkedGroups] },
  { dom := .hub, off := 0x61000, counter := true,
    fields := [F.wvCntCommit_commits, F.wvCntCommit_aborts] },
  { dom := .hub, off := 0x61008, counter := true,
    fields := [F.wvCntFence_held, F.wvCntFence_lateVotes] },
  { dom := .hub, off := 0x61010, counter := true,
    fields := [F.wvCntRefused_refused, F.wvCntRefused_killed] },
  { dom := .hub, off := 0xB0000,
    fields := [F.hostCtrl_action, F.hostCtrl_hdInService] },
  { dom := .hub, off := 0xB0008,
    fields := [F.hostHb_value] },
  { dom := .hub, off := 0xB0010,
    fields := [F.hostFb_fbTimeoutMs, F.hostFb_hbPeriodMs, F.hostFb_absent, F.hostFb_fbActive, F.hostFb_fbDie, F.hostFb_fbNone] },
  { dom := .hub, off := 0xB0018, n1 := 2, s1 := 0x8,
    fields := [F.hostRj_enable, F.hostRj_valid, F.hostRj_base] }]

def rows_hub3 : List RegRow := [
  { dom := .hub, off := 0xB0100, counter := true,
    fields := [F.hostCnt_hostResets, F.hostCnt_fallbacks] },
  { dom := .hub, off := 0xB0108, counter := true,
    fields := [F.hostCntCmd_commands] },
  { dom := .hub, off := 0xB0800, n1 := 64, s1 := 0x8,
    fields := [F.hostDb_prod, F.hostDb_done] },
  { dom := .hub, off := 0xB1000, n1 := 64, s1 := 0x20,
    fields := [F.ringBase_ring] },
  { dom := .hub, off := 0xB1008, n1 := 64, s1 := 0x20,
    fields := [F.ringCtrl_enable, F.ringCtrl_pause, F.ringCtrl_sizeLog2, F.ringCtrl_badDoorbell, F.ringCtrl_ctx, F.ringCtrl_part, F.ringCtrl_state, F.ringCtrl_fetch] },
  { dom := .hub, off := 0xB1010, n1 := 64, s1 := 0x20,
    fields := [F.ringMsiAddr_file] },
  { dom := .hub, off := 0xB1018, n1 := 64, s1 := 0x20,
    fields := [F.ringMsiCtrl_ident, F.ringMsiCtrl_mask, F.ringMsiCtrl_pend, F.ringMsiCtrl_undeliv] },
  { dom := .hub, off := 0x70000,
    fields := [F.twnCtrl_enable, F.twnCtrl_mode, F.twnCtrl_role, F.twnCtrl_autoTakeover, F.twnCtrl_action, F.twnCtrl_minLanes] },
  { dom := .hub, off := 0x70008,
    fields := [F.twnStat_state, F.twnStat_lanes, F.twnStat_peerSeen, F.twnStat_fenced, F.twnStat_takenOver, F.twnStat_batchBroken, F.twnStat_resyncNeeded, F.twnStat_peerSuspended, F.twnStat_modeRefused] },
  { dom := .hub, off := 0x70010,
    fields := [F.twnWit_leaseMs, F.twnWit_takeoverMs, F.twnWit_witnessMs] },
  { dom := .hub, off := 0x70018,
    fields := [F.mirCtrl_windowMb, F.mirCtrl_onLinkLoss] },
  { dom := .hub, off := 0x70020,
    fields := [F.mirStat_markSent, F.mirStat_markApplied] },
  { dom := .hub, off := 0x70028,
    fields := [F.rxj_enable, F.rxj_size, F.rxj_base] },
  { dom := .hub, off := 0x70040, n1 := 8, s1 := 0x10,
    fields := [F.mirRgnBase_valid, F.mirRgnBase_base] },
  { dom := .hub, off := 0x70048, n1 := 8, s1 := 0x10,
    fields := [F.mirRgnLimit_limit] },
  { dom := .hub, off := 0x700C0, n1 := 8, s1 := 0x10,
    fields := [F.exportBase_valid, F.exportBase_r, F.exportBase_w, F.exportBase_base] },
  { dom := .hub, off := 0x700C8, n1 := 8, s1 := 0x10,
    fields := [F.exportLimit_limit] },
  { dom := .hub, off := 0x70140,
    fields := [F.dcCtrl_dcTimeoutUs, F.dcCtrl_rearm] },
  { dom := .hub, off := 0x70148, n1 := 4, s1 := 0x8,
    fields := [F.dcRec_word] },
  { dom := .hub, off := 0x71000, counter := true,
    fields := [F.twnCntDc_compared, F.twnCntDc_mismatches] },
  { dom := .hub, off := 0x71008, counter := true,
    fields := [F.twnCntErr_crcRetry, F.twnCntErr_refused] },
  { dom := .hub, off := 0x80000,
    fields := [F.secStat_state, F.secStat_jtagUnlocked, F.secStat_zeroizing, F.secStat_failStage, F.secStat_unlockFails] },
  { dom := .hub, off := 0x80008,
    fields := [F.secEvent_verifyFail, F.secEvent_unlockAttempt, F.secEvent_twinAuthFail, F.secEvent_coalescing, F.secEvent_mboxDone] },
  { dom := .hub, off := 0x80010,
    fields := [F.mboxAddr_addr] }]

def rows_hub4 : List RegRow := [
  { dom := .hub, off := 0x80018,
    fields := [F.mboxCtrl_go, F.mboxCtrl_busy, F.mboxCtrl_refused, F.mboxCtrl_secureReq] },
  { dom := .hub, off := 0x80020,
    fields := [F.twinPolicy_matchSlots] },
  { dom := .hub, off := 0x80028,
    fields := [F.logStat_pending, F.logStat_coalescing] },
  { dom := .hub, off := 0x80030,
    fields := [F.logSeq_next] },
  { dom := .hub, off := 0x80038,
    fields := [F.logOldest_oldest] },
  { dom := .hub, off := 0x80040,
    fields := [F.secSvn_onyxFw, F.secSvn_hostFw, F.secSvn_bobbinFw, F.secSvn_debugUnlock, F.secSvn_manifest] },
  { dom := .hub, off := 0x80048,
    fields := [F.secRevoked_revoked] },
  { dom := .hub, off := 0x80100, n1 := 16, s1 := 0x30, n2 := 6, s2 := 0x8,
    fields := [F.secMeas_word] },
  { dom := .hub, off := 0x81000, counter := true,
    fields := [F.secCntAuth_tagFail, F.secCntAuth_spdmErr] },
  { dom := .hub, off := 0x81008, counter := true,
    fields := [F.secCntLog_coalesced, F.secCntLog_verifyFails] },
  { dom := .hub, off := 0x90000,
    fields := [F.pwrIn_vin, F.pwrIn_vhold, F.pwrIn_pin, F.pwrIn_iin] },
  { dom := .hub, off := 0x90008,
    fields := [F.pwrThr_warnV, F.pwrThr_sagV, F.pwrThr_rearmV, F.pwrThr_dropoutV] },
  { dom := .hub, off := 0x90010,
    fields := [F.pwrHoldup_capUf, F.pwrHoldup_measValid, F.pwrHoldup_holdupLow] },
  { dom := .hub, off := 0x90018,
    fields := [F.saveCtrl_action, F.saveCtrl_listCount] },
  { dom := .hub, off := 0x90020,
    fields := [F.saveList_addr] },
  { dom := .hub, off := 0x90028,
    fields := [F.saveStat_state, F.saveStat_lastSlot, F.saveStat_lastCause, F.saveStat_lastResult, F.saveStat_listEntries, F.saveStat_listKib, F.saveStat_lastSeq] },
  { dom := .hub, off := 0x90030,
    fields := [F.pwrEvent_warn, F.pwrEvent_sag, F.pwrEvent_overvolt, F.pwrEvent_overcurrent, F.pwrEvent_overpower, F.pwrEvent_saveDone, F.pwrEvent_listBad, F.pwrEvent_holdupLow] },
  { dom := .hub, off := 0x90038,
    fields := [F.pwrCool_inletT, F.pwrCool_outletT, F.pwrCool_flow, F.pwrCool_coolWarn, F.pwrCool_derateW] },
  { dom := .hub, off := 0x91000, counter := true,
    fields := [F.pwrCnt_warns, F.pwrCnt_sags] },
  { dom := .hub, off := 0x91008, counter := true,
    fields := [F.pwrCntEnergy_energyJ] },
  { dom := .hub, off := 0xA0000,
    fields := [F.rasCtrl_action, F.rasCtrl_site] },
  { dom := .hub, off := 0xA0008,
    fields := [F.rasStat_lostNear, F.rasStat_restoreBusy, F.rasStat_restoreDone, F.rasStat_restoreNone] },
  { dom := .hub, off := 0xA0010,
    fields := [F.rasProd_prod] },
  { dom := .hub, off := 0xA0018,
    fields := [F.rasCons_cons] }]

def rows_hub5 : List RegRow := [
  { dom := .hub, off := 0xA0020,
    fields := [F.rasRecSel_seq] },
  { dom := .hub, off := 0xA0028,
    fields := [F.rasRestore_addr] },
  { dom := .hub, off := 0xA0040, n1 := 8, s1 := 0x8,
    fields := [F.rasRec_word] },
  { dom := .hub, off := 0xA1000, counter := true,
    fields := [F.rasCnt_droppedCe, F.rasCnt_overwritten, F.rasCnt_pprSkipped, F.rasCnt_dieLosses] }]

/-- The registers of domain `hub`. -/
def rows_hub : List RegRow := rows_hub0 ++ rows_hub1 ++ rows_hub2 ++ rows_hub3 ++ rows_hub4 ++ rows_hub5

def rows_cd0 : List RegRow := [
  { dom := .cd, off := 0x10000, n1 := 2, s1 := 0x8,
    fields := [F.edgeCtrl_enable, F.edgeCtrl_retrain, F.edgeCtrl_spareAuto, F.edgeCtrl_groupMask] },
  { dom := .cd, off := 0x10010, n1 := 2, s1 := 0x8,
    fields := [F.edgeStat_state, F.edgeStat_groupsActive, F.edgeStat_width, F.edgeStat_localGood, F.edgeStat_peerGood, F.edgeStat_spareUsed, F.edgeStat_peerSite, F.edgeStat_peerMismatch, F.edgeStat_peerNoW48] },
  { dom := .cd, off := 0x10020, n1 := 2, s1 := 0x8,
    fields := [F.edgeErr_crcRetry, F.edgeErr_laneFail] },
  { dom := .cd, off := 0x50000,
    fields := [F.syncCtrl_enable] },
  { dom := .cd, off := 0x50008,
    fields := [F.syncCmd_index, F.syncCmd_op, F.syncCmd_part, F.syncCmd_amount] },
  { dom := .cd, off := 0x50010,
    fields := [F.syncCmdStat_status, F.syncCmdStat_done, F.syncCmdStat_value] },
  { dom := .cd, off := 0x50018,
    fields := [F.syncViewSel_index] },
  { dom := .cd, off := 0x50020,
    fields := [F.syncView_type, F.syncView_ovf, F.syncView_abandoned, F.syncView_value, F.syncView_held, F.syncView_ownerKind, F.syncView_ownerDie, F.syncView_ownerCore, F.syncView_ownerGroup, F.syncView_ownerLane, F.syncView_waiters, F.syncView_part] },
  { dom := .cd, off := 0x50028,
    fields := [F.syncEvent_ovfSeen, F.syncEvent_abandonSeen, F.syncEvent_waitqFull, F.syncEvent_firstIndex] },
  { dom := .cd, off := 0x50030,
    fields := [F.syncWaitq_inUse, F.syncWaitq_highWater] },
  { dom := .cd, off := 0x50100, counter := true,
    fields := [F.syncCntOps_ops] },
  { dom := .cd, off := 0x50108, counter := true,
    fields := [F.syncCntTimeout_timeouts] },
  { dom := .cd, off := 0x50110, counter := true,
    fields := [F.syncCntHog_ownGroup] },
  { dom := .cd, off := 0x50118, counter := true,
    fields := [F.syncCntXpart_xpart] },
  { dom := .cd, off := 0x20000,
    fields := [F.mcCtrl_mapLock, F.mcCtrl_mapBad] },
  { dom := .cd, off := 0x20008, n1 := 2, s1 := 0x8,
    fields := [F.mcStat_trained, F.mcStat_selfRefresh, F.mcStat_stackT, F.mcStat_refresh2x, F.mcStat_overcommit, F.mcStat_queued] },
  { dom := .cd, off := 0x20040, n1 := 8, s1 := 0x8,
    fields := [F.mcMap_group] },
  { dom := .cd, off := 0x20080, n1 := 1, s1 := 0x8,
    fields := [{ F.mcPart_enable with reset := 0x1 }, F.mcPart_class, F.mcPart_keyLoaded, F.mcPart_keyGen] },
  { dom := .cd, off := 0x20088, n1 := 7, s1 := 0x8,
    fields := [F.mcPart_enable, F.mcPart_class, F.mcPart_keyLoaded, F.mcPart_keyGen] },
  { dom := .cd, off := 0x20100, n1 := 1, s1 := 0x10,
    fields := [{ F.rangeBase_valid with reset := 0x1 }, F.rangeBase_owner, { F.rangeBase_host with reset := 0x1 }, F.rangeBase_base] },
  { dom := .cd, off := 0x20110, n1 := 31, s1 := 0x10,
    fields := [F.rangeBase_valid, F.rangeBase_owner, F.rangeBase_host, F.rangeBase_base] },
  { dom := .cd, off := 0x20108, n1 := 1, s1 := 0x10,
    fields := [{ F.rangeLimit_limit with reset := 0x7FFFF }] },
  { dom := .cd, off := 0x20118, n1 := 31, s1 := 0x10,
    fields := [F.rangeLimit_limit] },
  { dom := .cd, off := 0x20400, n1 := 2, s1 := 0x80, n2 := 8, s2 := 0x10,
    fields := [F.mcReg_rate, F.mcReg_burst, F.mcReg_wc, F.mcReg_enable] }]

def rows_cd1 : List RegRow := [
  { dom := .cd, off := 0x20408, n1 := 2, s1 := 0x80, n2 := 8, s2 := 0x10,
    fields := [F.mcRegStat_tokens, F.mcRegStat_held] },
  { dom := .cd, off := 0x20600,
    fields := [F.zeroBase_base] },
  { dom := .cd, off := 0x20608,
    fields := [F.zeroLimit_limit] },
  { dom := .cd, off := 0x20610,
    fields := [F.zeroCtrl_go, F.zeroCtrl_done, F.zeroCtrl_error] },
  { dom := .cd, off := 0x20700,
    fields := [F.eccCtrl_scrubEn, F.eccCtrl_scrubHours, F.eccCtrl_pprPending, F.eccCtrl_rowThr] },
  { dom := .cd, off := 0x21000, n1 := 2, s1 := 0x100, n2 := 8, s2 := 0x10, counter := true,
    fields := [F.mcCntCw_codewords] },
  { dom := .cd, off := 0x21008, n1 := 2, s1 := 0x100, n2 := 8, s2 := 0x10, counter := true,
    fields := [F.mcCntWait_waitTicks] },
  { dom := .cd, off := 0x21200, n1 := 2, s1 := 0x40, counter := true,
    fields := [F.mcCntCe_corrected, F.mcCntCe_dieEcc] },
  { dom := .cd, off := 0x21208, n1 := 2, s1 := 0x40, counter := true,
    fields := [F.mcCntUe_uncorrected, F.mcCntUe_poisonReads] },
  { dom := .cd, off := 0x21210, n1 := 2, s1 := 0x40, counter := true,
    fields := [F.mcCntRu_ops] },
  { dom := .cd, off := 0x21218, n1 := 2, s1 := 0x40, counter := true,
    fields := [F.mcCntXpart_refused, F.mcCntXpart_nokey] },
  { dom := .cd, off := 0x21220, n1 := 2, s1 := 0x40, counter := true,
    fields := [F.mcCntBorrow_borrowed] },
  { dom := .cd, off := 0x30000,
    fields := [F.homeStat_mosi, F.homeStat_txnUsed, F.homeStat_dirUsed] },
  { dom := .cd, off := 0x30008,
    fields := [F.dirSel_line] },
  { dom := .cd, off := 0x30010,
    fields := [F.dirView_state, F.dirView_entry, F.dirView_owner, F.dirView_sharers, F.dirView_busy] },
  { dom := .cd, off := 0x31000, counter := true,
    fields := [F.homeCntReq_requests] },
  { dom := .cd, off := 0x31008, counter := true,
    fields := [F.homeCntFwd_forwards] },
  { dom := .cd, off := 0x31010, counter := true,
    fields := [F.homeCntInv_notPresent, F.homeCntInv_dirEvict] },
  { dom := .cd, off := 0x31018, counter := true,
    fields := [F.homeCntPfence_linesCleaned] },
  { dom := .cd, off := 0x40000, n1 := 16, s1 := 0x40,
    fields := [F.seCtrl_enable, F.seCtrl_hostAccess, F.seCtrl_ctx, F.seCtrl_part, F.seCtrl_ringLog2] },
  { dom := .cd, off := 0x40008, n1 := 16, s1 := 0x40,
    fields := [F.seRing_ring] },
  { dom := .cd, off := 0x40010, n1 := 16, s1 := 0x40,
    fields := [F.seDb_prod, F.seDb_fetch] },
  { dom := .cd, off := 0x40018, n1 := 16, s1 := 0x40,
    fields := [F.seStat_state, F.seStat_queued, F.seStat_runs, F.seStat_doneIdx] },
  { dom := .cd, off := 0x40020, n1 := 16, s1 := 0x40,
    fields := [F.seCmd_action] }]

def rows_cd2 : List RegRow := [
  { dom := .cd, off := 0x40028, n1 := 16, s1 := 0x40,
    fields := [F.seEvent_done, F.seEvent_error, F.seEvent_deadline, F.seEvent_badDoorbell, F.seEvent_firstIdx] },
  { dom := .cd, off := 0x41000, n1 := 16, s1 := 0x10, counter := true,
    fields := [F.seCntBytes_bytes] },
  { dom := .cd, off := 0x41008, n1 := 16, s1 := 0x10, counter := true,
    fields := [F.seCntDesc_descriptors, F.seCntDesc_faults] },
  { dom := .cd, off := 0x60000, n1 := 2, s1 := 0x8,
    fields := [F.bobCtrl_run, F.bobCtrl_fbEligible, F.bobCtrl_role, F.bobCtrl_halted] }]

/-- The registers of domain `cd`. -/
def rows_cd : List RegRow := rows_cd0 ++ rows_cd1 ++ rows_cd2

def rows_hd0 : List RegRow := [
  { dom := .hd, off := 0x18,
    fields := [F.secure_mSecure] },
  { dom := .hd, off := 0x10000, n1 := 2, s1 := 0x10000,
    fields := [F.pcieCtrl_enable, F.pcieCtrl_retrain] },
  { dom := .hd, off := 0x10008, n1 := 2, s1 := 0x10000,
    fields := [F.pcieStat_speed, F.pcieStat_width, F.pcieStat_dpc] },
  { dom := .hd, off := 0x10010, n1 := 2, s1 := 0x10000,
    fields := [F.pcieEvent_linkChange, F.pcieEvent_aerUncorr, F.pcieEvent_aerCorr, F.pcieEvent_winViol] },
  { dom := .hd, off := 0x10018, n1 := 2, s1 := 0x10000,
    fields := [F.pcieViol_addr, F.pcieViol_reqId] },
  { dom := .hd, off := 0x10040, n1 := 2, s1 := 0x10000, n2 := 8, s2 := 0x10,
    fields := [F.dmaWinBase_valid, F.dmaWinBase_r, F.dmaWinBase_w, F.dmaWinBase_base] },
  { dom := .hd, off := 0x10048, n1 := 2, s1 := 0x10000, n2 := 8, s2 := 0x10,
    fields := [F.dmaWinLimit_limit] },
  { dom := .hd, off := 0x11000, n1 := 2, s1 := 0x10000, counter := true,
    fields := [F.pcieCnt_viol] },
  { dom := .hd, off := 0x30000,
    fields := [F.imsicGeom_identities, F.imsicGeom_geilen] }]

/-- The registers of domain `hd`. -/
def rows_hd : List RegRow := rows_hd0

def rows_clu0 : List RegRow := [
  { dom := .clu, off := 0x0,
    fields := [F.l2Ctrl_enable, F.l2Ctrl_tileHost, F.l2Ctrl_tilePairs] },
  { dom := .clu, off := 0x8,
    fields := [F.l2Cmd_invalidate, F.l2Cmd_clean, F.l2Cmd_busy, F.l2Cmd_invDone, F.l2Cmd_enableRefused, F.l2Cmd_cmdRefused] },
  { dom := .clu, off := 0x10,
    fields := [F.l2Stat_enabled, F.l2Stat_disabling, F.l2Stat_staleRisk, F.l2Stat_tileChanging, F.l2Stat_missUsed, F.l2Stat_part] },
  { dom := .clu, off := 0x100, n1 := 16, s1 := 0x8,
    fields := [F.l1Ctrl_enable, F.l1Ctrl_invalidate, F.l1Ctrl_invDone, F.l1Ctrl_enableRefused, F.l1Ctrl_missUsed, F.l1Ctrl_bufUsed] },
  { dom := .clu, off := 0x800, n1 := 128, s1 := 0x8,
    fields := [F.route_valid, F.route_srcCore, F.route_dstCore, F.route_class, F.route_srcOff, F.route_dstOff, F.route_lenM1] },
  { dom := .clu, off := 0x1000, counter := true,
    fields := [F.cluCntL2Hit_hits] },
  { dom := .clu, off := 0x1008, counter := true,
    fields := [F.cluCntL2Miss_misses] },
  { dom := .clu, off := 0x1010, counter := true,
    fields := [F.cluCntL2Wb_writebacks] },
  { dom := .clu, off := 0x1018, counter := true,
    fields := [F.cluCntSnoop_notPresent, F.cluCntSnoop_mergeFull] },
  { dom := .clu, off := 0x1020, counter := true,
    fields := [F.cluCntTile_refused] },
  { dom := .clu, off := 0x1100, n1 := 16, s1 := 0x8, counter := true,
    fields := [F.cluCntL1_misses] }]

/-- The registers of domain `clu`. -/
def rows_clu : List RegRow := rows_clu0

def rows_core0 : List RegRow := [
  { dom := .core, off := 0x0,
    fields := [F.seqCmd_action, F.seqCmd_group] },
  { dom := .core, off := 0x8,
    fields := [F.seqStat_halted, F.seqStat_haltCause, F.seqStat_groups, F.seqStat_threads, F.seqStat_blocks] },
  { dom := .core, off := 0x10,
    fields := [F.seqErr_pc, F.seqErr_code, F.seqErr_group, F.seqErr_valid, F.seqErr_more] },
  { dom := .core, off := 0x18,
    fields := [F.grpSel_group] },
  { dom := .core, off := 0x20,
    fields := [F.grpInfo_pc, F.grpInfo_code, F.grpInfo_halted, F.grpInfo_resident, F.grpInfo_width, F.grpInfo_priority] },
  { dom := .core, off := 0x28,
    fields := [F.grpMask_active] },
  { dom := .core, off := 0x30,
    fields := [F.grpFull_full] },
  { dom := .core, off := 0x40, n1 := 4, s1 := 0x8,
    fields := [F.grpHalt_halted] },
  { dom := .core, off := 0x100, counter := true,
    fields := [F.cntIssue_issued] },
  { dom := .core, off := 0x108, counter := true,
    fields := [F.cntStall_stallBeats] },
  { dom := .core, off := 0x110, counter := true,
    fields := [F.cntErr_errors] },
  { dom := .core, off := 0x500,
    fields := [F.mxCtrl_srThresh, F.mxCtrl_srForceRne] },
  { dom := .core, off := 0x508,
    fields := [F.mxStat_busy, F.mxStat_queued, F.mxStat_group, F.mxStat_opcode] },
  { dom := .core, off := 0x510,
    fields := [F.mxFlags_nanCreated, F.mxFlags_accOvf, F.mxFlags_cvtOvf, F.mxFlags_nanScale, F.mxFlags_srUsed, F.mxFlags_badRecord] },
  { dom := .core, off := 0x540, counter := true,
    fields := [F.mxCntInstr_instr] },
  { dom := .core, off := 0x548, counter := true,
    fields := [F.mxCntBusy_busyBeats] },
  { dom := .core, off := 0x550, counter := true,
    fields := [F.mxCntMac_macs] },
  { dom := .core, off := 0x580, n1 := 16, s1 := 0x8,
    fields := [F.mxChain_lenLo, F.mxChain_lenHi] },
  { dom := .core, off := 0x400,
    fields := [F.nsCtrl_action, F.nsCtrl_rearm] },
  { dom := .core, off := 0x408,
    fields := [F.laneFlags_invalid, F.laneFlags_overflow, F.laneFlags_underflow, F.laneFlags_inexact, F.laneFlags_cvtOvf] },
  { dom := .core, off := 0x420, n1 := 4, s1 := 0x8,
    fields := [F.nsRec_word] },
  { dom := .core, off := 0x440, counter := true,
    fields := [F.nsCnt_reports] },
  { dom := .core, off := 0x448, counter := true,
    fields := [F.nsBeats_beats] },
  { dom := .core, off := 0x800,
    fields := [F.srSeed_seed] }]

def rows_core1 : List RegRow := [
  { dom := .core, off := 0x808,
    fields := [F.srTestK1_k1] },
  { dom := .core, off := 0x810,
    fields := [F.srTestK2_k2] },
  { dom := .core, off := 0x818,
    fields := [F.srTestOut_draw] },
  { dom := .core, off := 0x840, counter := true,
    fields := [F.srCntDraws_draws] },
  { dom := .core, off := 0x600,
    fields := [F.veCtrl_srForceRne] },
  { dom := .core, off := 0x608,
    fields := [F.veStat_busy, F.veStat_queued, F.veStat_group, F.veStat_opcode, F.veStat_bank, F.veStat_tblLoading, F.veStat_slotValid] },
  { dom := .core, off := 0x610,
    fields := [F.veFlags_invalid, F.veFlags_overflow, F.veFlags_underflow, F.veFlags_inexact, F.veFlags_cvtOvf, F.veFlags_nanCreated, F.veFlags_sfFlush, F.veFlags_sfDomain, F.veFlags_sfEmptySlot, F.veFlags_normZeroVar, F.veFlags_normNonfinite, F.veFlags_smaxEmpty, F.veFlags_intSat, F.veFlags_badRecord, F.veFlags_srUsed] },
  { dom := .core, off := 0x618,
    fields := [F.tblCtrl_switch] },
  { dom := .core, off := 0x620,
    fields := [F.tblAddr_word, F.tblAddr_slot, F.tblAddr_readBank, F.tblAddr_autoInc] },
  { dom := .core, off := 0x628,
    fields := [F.tblData_data] },
  { dom := .core, off := 0x640, counter := true,
    fields := [F.veCntInstr_instr] },
  { dom := .core, off := 0x648, counter := true,
    fields := [F.veCntBusy_busyBeats] },
  { dom := .core, off := 0x650, counter := true,
    fields := [F.veCntSf_sfResults] },
  { dom := .core, off := 0x658, counter := true,
    fields := [F.veCntTblRej_rejected] },
  { dom := .core, off := 0x700,
    fields := [F.tsCtrl_k, F.tsCtrl_enable, F.tsCtrl_warnInt, F.tsCtrl_alarmInt, F.tsCtrl_rearm] },
  { dom := .core, off := 0x708,
    fields := [F.tsThr_warn, F.tsThr_alarm] },
  { dom := .core, off := 0x710,
    fields := [F.tsMaxerr_maxerr] },
  { dom := .core, off := 0x720, n1 := 4, s1 := 0x8,
    fields := [F.tsRec_word] },
  { dom := .core, off := 0x740, counter := true,
    fields := [F.tsCnt_compared] },
  { dom := .core, off := 0x748, counter := true,
    fields := [F.tsCntX_warn, F.tsCntX_alarm] },
  { dom := .core, off := 0x750, counter := true,
    fields := [F.lgCnt_lost, F.lgCnt_ovf] }]

/-- The registers of domain `core`. -/
def rows_core : List RegRow := rows_core0 ++ rows_core1

end Sys2Proof.Machine
end

