-- ==== Sys2Proof/Machine/Sparse.lean ====
section
/-!
DEFINITION. Sparse arrays in one canonical form: a list of (index, value) pairs with strictly rising indices
and no entry equal to what an unlisted index reads as. Registers, memory bytes, cache lines, directory
entries, thread groups and the like are held in this form, so that equal contents are equal data.
-/

namespace Sys2Proof.Machine

/-- A sparse array: the entries that differ from the array's default function. -/
abbrev Sparse (α : Type) := List (Nat × α)

/-- The value at index `k`; an unlisted index reads as `d k`. -/
def Sparse.get {α : Type} (d : Nat → α) : Sparse α → Nat → α
  | [], k => d k
  | (j, v) :: m, k => if k = j then v else Sparse.get d m k

/-- The array without index `k`. -/
def Sparse.erase {α : Type} (k : Nat) : Sparse α → Sparse α
  | [] => []
  | (j, w) :: m => if k = j then Sparse.erase k m else (j, w) :: Sparse.erase k m

/-- The array with an entry for index `k` at its place. -/
def Sparse.insert {α : Type} (k : Nat) (v : α) : Sparse α → Sparse α
  | [] => [(k, v)]
  | (j, w) :: m => if k < j then (k, v) :: (j, w) :: m else (j, w) :: Sparse.insert k v m

/-- Write value `v` at index `k`; writing the default value removes the entry. -/
def Sparse.set {α : Type} [DecidableEq α] (d : Nat → α) (m : Sparse α) (k : Nat) (v : α) : Sparse α :=
  if v = d k then Sparse.erase k m else Sparse.insert k v (Sparse.erase k m)

/-- Every index of `m` is above `k`. -/
def Sparse.above {α : Type} (k : Nat) : Sparse α → Bool
  | [] => true
  | (j, _) :: _ => decide (k < j)

/-- The canonical form: strictly rising indices, and no entry equal to the default. -/
def Sparse.wf {α : Type} [DecidableEq α] (d : Nat → α) : Sparse α → Bool
  | [] => true
  | (j, v) :: m => decide (v ≠ d j) && Sparse.above j m && Sparse.wf d m

/-- Change the value at index `k` by `f`. -/
def Sparse.upd {α : Type} [DecidableEq α] (d : Nat → α) (m : Sparse α) (k : Nat) (f : α → α) : Sparse α :=
  Sparse.set d m k (f (Sparse.get d m k))

end Sys2Proof.Machine
end

