-- ==== Sys2Proof/Machine/State.lean ====
section
/-!
DEFINITION. The state of the block: every register, memory, cache, queue, mode and list the spec gives the
module, as plain data, and the state right after a package reset.
-/

namespace Sys2Proof.Machine

/-! ## Why a command can stop -/

/-- The faults of a step. -/
inductive Fault where
  /-- R688: the input terminals meet more than the absolute maximum of 1,000 V, beyond which no behaviour is
  given. Raised by VIN_WARN. Safe: the model stops. -/
  | absoluteMaximum
  deriving DecidableEq, Repr

/-- The refusals of a step. -/
inductive Refusal where
  /-- An arm of the dispatch that has no meaning yet. Safe: the model stops. -/
  | notModelled (mnemonic : String)
  deriving DecidableEq, Repr

/-! ## Dies and links -/

/-- What the module knows of one die (R16 to R21, R52, R54, R731): the facts of its straps and fuses; whether it is
out of reset and has accepted its straps; whether the spindle has admitted it on its port; whether it is held, and
held for having given no answer; whether it has been taken out of service and awaits RELEASE_CD; and whether it is in
service. -/
structure DieSt where
  facts : DieFacts := ⟨false, 0, 0, 0, 0, false, none⟩
  released : Bool := false
  accepted : Bool := false
  admitted : Bool := false
  held : Bool := false
  mute : Bool := false
  out : Bool := false
  inService : Bool := false
  deriving DecidableEq, Repr

/-- The step of R36 a link stands in. -/
inductive LinkPhase where
  | down | hello | agree | service
  deriving DecidableEq, Repr

/-- One end's view of a link in training and its internal resend count (R36 to R46). -/
structure EndSt where
  helloOk : Bool := false
  peerCaps : BitVec 32 := 0
  good : BitVec 32 := 0
  commitOk : Bool := false
  resends : Nat := 0
  windowStart : Nat := 0
  deriving DecidableEq, Repr

/-- The hidden state of one link. `full` says that the attempt is the initial training of R36 rather than a
retrain of R37; `fromService` that it started from service (R25); `upSinceReset` that the link has been up
since its ends were last reset; `kick` that it waits for one of the events of R39 and R41. -/
structure LinkSt where
  phase : LinkPhase := .down
  full : Bool := true
  fromService : Bool := false
  upSinceReset : Bool := false
  kick : Bool := false
  fails : Nat := 0
  faults : LinkFaults := ⟨[], []⟩
  endA : EndSt := {}
  endB : EndSt := {}
  active : BitVec 32 := 0
  deriving DecidableEq, Repr

/-! ## Thread groups and cores -/

/-- An entry of a divergence stack (R169). `join` is the address after the JOIN that a first set has reached. -/
structure StackEntry where
  tag : BitVec 4
  active : BitVec 64
  notTaken : BitVec 64
  pc : BitVec 48
  join : Option (BitVec 48) := none
  deriving DecidableEq, Repr

/-- The serialized region of a group (R199): the ACQG, the instruction after the closing RELG, the mask of entry,
the lanes that have not had their turn, the depth of the divergence stack at entry, and the lanes granted in the
present turn with their locks; between turns nobody is granted. -/
structure Region where
  acqg : BitVec 48
  close : BitVec 48
  entry : BitVec 64
  remaining : BitVec 64
  depth : Nat
  granted : List (Nat × Nat)
  deriving DecidableEq, Repr

/-- What a group waits for. -/
inductive GroupWait where
  | none
  | counter (obj : Nat) (dst : Nat)
  | locks (pending : BitVec 64) (granted : List (Nat × Nat)) (dst : Nat) (region : Bool)
  | barrier (dst : Option Nat)
  | fault
  | parked
  deriving DecidableEq, Repr

/-- A thread group (R155 to R173). -/
structure Group where
  resident : Bool := false
  ring : BitVec 6 := 0
  launch : BitVec 32 := 0
  kernel : BitVec 16 := 0
  ctx : BitVec 8 := 0
  unit : Nat := 0
  blockNo : Nat := 0
  index : Nat := 0
  width : Nat := 0
  regs : Nat := 0
  unif : Nat := 0
  prio : BitVec 3 := 0
  slice : Nat := 0
  pc : BitVec 48 := 0
  active : BitVec 64 := 0
  full : BitVec 64 := 0
  preds : Sparse (BitVec 64) := []
  lregs : Sparse (BitVec 32) := []
  uregs : Sparse Word := []
  stack : List StackEntry := []
  halt : Option (BitVec 8) := none
  region : Option Region := none
  wait : GroupWait := .none
  /-- The sum of R640. -/
  dsum : Word := 0
  deriving DecidableEq, Repr

/-- A group that has arrived at a barrier and waits (R184, R187). -/
structure BarWaiter where
  slot : Nat
  dst : Option Nat
  deadline : Option Nat
  deriving DecidableEq, Repr

/-- A barrier unit and its block (R183): the group slots of the block that have not ended, those arrived in the
present phase, and those that wait. -/
structure Block where
  used : Bool := false
  ring : BitVec 6 := 0
  launch : BitVec 32 := 0
  blockNo : Nat := 0
  phase : Nat := 0
  members : List Nat := []
  arrived : List Nat := []
  waiting : List BarWaiter := []
  deriving DecidableEq, Repr

/-! ## Synchronization objects -/

/-- The owner of a lock (R196): kind 0 accelerator lane, 1 host core, 2 bobbin core, 3 management master. -/
structure Owner where
  kind : BitVec 2
  die : BitVec 4
  core : BitVec 7
  group : BitVec 8
  lane : BitVec 6
  deriving DecidableEq, Repr

/-- A queued waiter (R193, R197): who waits, the amount asked of a counter, and the tick its timeout falls due. -/
structure Waiter where
  who : WaiterRef
  amount : Nat
  deadline : Option Nat
  deriving DecidableEq, Repr

/-- The type of a synchronization object (R216). -/
inductive ObjType where
  | unused | counter | lock
  deriving DecidableEq, Repr

/-- A synchronization object (R188 to R202). `abandoned` says how the lock was last freed, `nextAband` that the next
grant carries ABANDONED. -/
structure SyncObj where
  typ : ObjType := .unused
  ovf : Bool := false
  abandoned : Bool := false
  nextAband : Bool := false
  value : BitVec 32 := 0
  owner : Option Owner := none
  part : BitVec 3 := 0
  queue : List Waiter := []
  deriving DecidableEq, Repr

/-! ## Error records -/

/-- A record of R737. -/
structure RasRec where
  seq : Nat
  tick : Nat
  det : Detection
  count : Nat
  deriving DecidableEq, Repr

/-- What a command answers to its sender. -/
inductive RespStatus where
  | ok | error | poison | refused | held | none
  deriving DecidableEq, Repr

/-- The answer of the last command: its status and data. -/
structure Resp where
  status : RespStatus := .none
  data : List Word := []
  deriving DecidableEq, Repr

/-! ## Onyx -/

/-- An entry of the audit log (R671), without its reserved fields. -/
structure LogEntry where
  seq : Nat
  tick : Nat
  typ : BitVec 16
  die : BitVec 4
  unit : BitVec 8
  boot : BitVec 32
  arg0 : Word
  arg1 : Word
  chain : BitVec 128
  deriving DecidableEq, Repr

/-- Events merged while the store lags (R672). -/
structure LogOpen where
  tick : Nat
  typ : BitVec 16
  die : BitVec 4
  unit : BitVec 8
  arg0 : Word
  count : Nat
  deriving DecidableEq, Repr

/-- An item of a save (R696, R709): TYPE, TAG, its bytes, whether a codeword was saved as zeros, its GCM tag, and VALID. -/
structure SaveItem where
  typ : Nat
  tag : Nat
  body : List Byte
  poisoned : Bool
  gcm : Nat
  valid : Bool
  deriving DecidableEq, Repr

/-- A save slot (R708): CAUSE, COMPLETE, SEQ, TICK, EPOCH, SVN and its items. -/
structure SaveSlot where
  cause : Nat
  complete : Bool
  seq : Nat
  tick : Nat
  epoch : Nat
  svn : Nat
  items : List SaveItem
  deriving DecidableEq, Repr

/-- Onyx's own state: the audit log (entries kept, newest last, and how many of the newest await the persistent
store), the merged events, and the persistent counters. -/
structure OnyxSt where
  log : List LogEntry := []
  logPending : Nat := 0
  logOpen : List LogOpen := []
  logNext : Nat := 0
  boots : Nat := 0
  /-- The key manifest in force (R653). -/
  manifest : List ManEntry := []
  /-- Revocation bits that are fused (R654). -/
  revoked : BitVec 16 := 0
  /-- The identity the next drawn key takes; keys are compared and never shown (R650). -/
  nextKey : Nat := 1
  /-- The fall-back runtime's image has failed verification at bring-up (R657). -/
  fbOff : Bool := false
  /-- The fused security versions, laid out as SEC_SVN, and those that run (R654). -/
  fused : Word := 0
  running : Word := 0
  /-- The store's images and the manifest in force are of this kind (R656, R707). -/
  store : Option StoreFacts := none
  /-- The tamper fuse (R680, R683). -/
  fuse : Bool := false
  /-- The live NONCE and the tick it was issued (R674). -/
  nonce : Option (Nat × Nat) := none
  /-- The mailbox request in progress (R665). -/
  mbox : Option (List Byte) := none
  /-- SPDM sessions: management interfaces, host mailbox, twin link (R659, R660). -/
  sessions : List Bool := [false, false, false]
  /-- The save slots A and B (R703, R707). -/
  slots : List (Option SaveSlot) := [none, none]
  /-- Saves since manufacture (R708). -/
  saves : Nat := 0
  deriving DecidableEq, Repr

/-! ## Memory -/

/-- The key and the address a codeword was encrypted under (R434); key 0: never written. -/
structure CwTag where
  key : Nat := 0
  pa : Nat := 0
  deriving DecidableEq, Repr

/-- The data of a 128 B line with the poison bits of its two codewords (R733). -/
structure Line where
  data : BitVec 1024 := 0
  poison : BitVec 2 := 0
  deriving DecidableEq, Repr

/-- A line in a reduction buffer (R424), by its line number PA[39:7]. -/
structure RedLine where
  line : Nat
  val : Line
  deriving DecidableEq, Repr

/-- A range of addresses with its owner, as the range table had it (R406). -/
structure OwnedRange where
  lo : Nat
  hi : Nat
  owner : Nat
  host : Bool
  deriving DecidableEq, Repr

/-- A run of a die's zeroization engine (R436): addresses, the range table in force with the key identities of
partitions 0 to 7 and of SAK, and a key index that Onyx names for released blocks. -/
structure ZeroRun where
  cd : Nat
  lo : Nat
  hi : Nat
  ranges : List OwnedRange
  keys : List Nat
  named : Option Nat
  deriving DecidableEq, Repr

/-! ## Caches -/

/-- How a holder stands to a line (R468, R472). -/
inductive Coh where
  | i | s | o | m
  deriving DecidableEq, Repr

/-- A line in a cache: its state, its way, its data, and for a twin copy the tick of its fill (R466). -/
structure CacheLine where
  st : Coh := .i
  way : Nat := 0
  val : Line := {}
  fill : Nat := 0
  deriving DecidableEq, Repr

/-- The states of a line at its home (R468). -/
inductive HomeState where
  | u | s | o | m | p
  deriving DecidableEq, Repr

/-- A directory entry (R467, R468): agents by the indices of R467; `used` orders entries by their last use. -/
structure DirEnt where
  st : HomeState := .u
  owner : Nat := 0
  sharers : BitVec 28 := 0
  used : Nat := 0
  deriving DecidableEq, Repr

/-- What the far cache records of a line (R462): how it stands at the home, the sub-holder that owns the line, and
the sub-holders that hold it: 64 cluster L2s, 8 bobbin pairs and 2 host dies. -/
structure SubEnt where
  st : Coh := .i
  owner : Option Nat := none
  mask : BitVec 74 := 0
  deriving DecidableEq, Repr

/-- A miss register in flight (R458 to R460): its holder and line, what the home granted, and how many secondary
misses have merged. -/
structure Miss where
  holder : Nat
  line : Nat
  st : Coh
  val : Line
  secs : Nat
  deriving DecidableEq, Repr

/-- An entry of a write-merging buffer (R447 to R449): the line PA[47:7], its bytes and their enables, the tick of
its first store, and the group slots whose stores it holds. -/
structure MergeEnt where
  line : Nat
  val : Line
  en : BitVec 128
  since : Nat
  slots : List Nat
  deriving DecidableEq, Repr

/-! ## Translation -/

/-- A context entry that a walker keeps (R502, R515). -/
structure CtxEnt where
  ctx : Nat
  part : Nat
  mirror : Bool
  root : Nat
  seq : Nat
  deriving DecidableEq, Repr

/-- A cached translation (R507, R514): the first 64 KiB page of its VA range, the number of 64 KiB pages, the
physical address of the range, and the leaf's rights, owner, hint and level. -/
structure TlbEnt where
  ctx : Nat
  page : Nat
  pages : Nat
  pa : Nat
  r : Bool
  w : Bool
  a : Bool
  owner : Nat
  hint : Nat
  level : Nat
  deriving DecidableEq, Repr

/-- A cached pointer (R514): the level of the table it points to and the VA bits that lead there. -/
structure PtrEnt where
  ctx : Nat
  level : Nat
  prefix_ : Nat
  next : Nat
  deriving DecidableEq, Repr

/-- A walker unit's caches (R514, R515). -/
structure WalkerSt where
  ctxs : List CtxEnt := []
  tlb : List TlbEnt := []
  ptrs : List PtrEnt := []
  deriving DecidableEq, Repr

/-- The key of a fault (R544): partition, context, VA[47:16] and access type. -/
structure FaultKey where
  part : Nat
  ctx : Nat
  page : Nat
  acc : Nat
  deriving DecidableEq, Repr

/-- How a unit's fault stands: it has arisen and not reached the queue, it waits on a pending entry, or it is held
(R544 to R547). -/
inductive FaultStand where
  | arising | pending (idx : Nat) | held
  deriving DecidableEq, Repr

/-- A unit's fault (R543, R546, R549): the group slot of a core's fault. -/
structure XlFault where
  key : FaultKey
  va : Nat
  cause : Nat
  level : Nat
  hint : Nat
  seq : Nat
  tick : Nat
  slot : Nat
  stand : FaultStand
  deriving DecidableEq, Repr

/-- A pending entry of a fault queue (R544, R545). -/
structure PendingFault where
  idx : Nat
  key : FaultKey
  count : Nat
  deriving DecidableEq, Repr

/-- A partition's fault queue beyond its registers: pending entries, and units whose fault is held, in order. -/
structure FqSt where
  pend : List PendingFault := []
  held : List Nat := []
  deriving DecidableEq, Repr

/-- A shootdown in progress (R519): the context, the pages from `lo` below `hi`, and the descriptors marked. -/
structure Shoot where
  ctx : Nat
  lo : Nat
  hi : Nat
  marked : Nat
  deriving DecidableEq, Repr

/-! ## Shuttle engines -/

/-- A translated page of a descriptor in the run store (R530), and whether it is HOST-owned (R618). -/
structure RunPage where
  page : Nat
  pa : Nat
  acc : Nat
  host : Bool
  deriving DecidableEq, Repr

/-- A descriptor of an engine's queue (R530 to R542): its ring index, its eight words, the tick of its fetch, its
translated pages and whether they must be translated again, the bytes done, the tick of its start, its status once
it is decided, the address of the first byte not done, whether its data writes have ended (step 1 of R537), and
whether its deadline has expired first. -/
structure SeDesc where
  idx : Nat
  words : List Word
  fetched : Nat
  runs : List RunPage := []
  marked : Bool := false
  bytes : Nat := 0
  start : Option Nat := none
  status : Option Nat := none
  errVa : Nat := 0
  ended : Option Nat := none
  late : Bool := false
  deriving DecidableEq, Repr

/-- A shuttle engine beyond its registers: the queue, a descriptor that waits for its translation before it can
join the queue, and the commands in force. -/
structure SeSt where
  queue : List SeDesc := []
  fetching : Option SeDesc := none
  paused : Bool := false
  error : Bool := false
  deriving DecidableEq, Repr

/-! ## Weave -/

/-- A kernel of a CODE section (R571); `width` is the number of lanes. -/
structure Kernel where
  id : Nat
  width : Nat
  regs : Nat
  unif : Nat
  block : Nat
  prio : Nat
  cert : Bool
  entry : Nat
  loadVa : Nat
  ctx : Nat
  code : List Byte
  deriving DecidableEq, Repr

/-- An entry of a SCHED section (R573): kind 0 WAIT, 1 QUIESCE, 2 RESUME, 3 DOORBELL; `pc` is VA[47:3]. -/
structure SchedEnt where
  kernel : Nat
  kind : Nat
  arg : Nat
  pc : Nat
  cacheDead : Bool
  tileDead : Bool
  deriving DecidableEq, Repr

/-- The active configuration of a cluster (R581, R590): links, the two ENGINE words, seeds, table slots with their
words, kernels and SCHED entries. -/
structure ClConf where
  routes : List Word := []
  engine : Word := 0
  thresholds : Word := 0
  seeds : List Word := []
  tables : List (Nat × List Word) := []
  kernels : List Kernel := []
  sched : List SchedEnt := []
  part : Nat := 0
  deriving DecidableEq, Repr

/-- The fields of a PART section (R575): ENABLE and CLASS of each partition, the partition of each cluster, the
words of the range table, and the partition of each engine. -/
structure PartSect where
  enable : List Bool
  cls : List Bool
  clusters : List Nat
  ranges : List Word
  sePart : List Nat
  deriving DecidableEq, Repr

/-- A weave image whose fields have been read (R561 to R577): FULL, SCOPE, the digest, the configuration of each
cluster in SCOPE, and the PART and REGU sections. -/
structure Image where
  full : Bool
  scope : BitVec 64
  digest : List Byte
  conf : List (Nat × ClConf)
  part : Option PartSect
  regu : Option (List Word)
  deriving DecidableEq, Repr

/-- A range that awaits zeroization under its old owner's key (R576, R593): dies whose engine has not begun it, and
dies whose engine runs over it. -/
structure FreedRange where
  lo : Nat
  hi : Nat
  owner : Nat
  left : List Nat
  going : List Nat
  deriving DecidableEq, Repr

/-- The weave loader beyond its registers: the candidate, the deadline of the vote, the engines of the vote set,
clusters to which the new epoch has not arrived, ranges that await zeroization, and partitions the commit disables. -/
structure WvSt where
  cand : Option Image := none
  deadline : Nat := 0
  engines : List Nat := []
  coming : List Nat := []
  freed : List FreedRange := []
  disabled : List Nat := []
  deriving DecidableEq, Repr

/-! ## Command rings and launches -/

/-- A command of a ring that has started and not completed (R605 to R609): its ring index, its words, its status once
it is decided, whether it waits at a counter, and for a duplex-checked launch the digest and the tick the wait for
the partner ends (R641). -/
structure RingCmd where
  idx : Nat
  words : List Word
  status : Option Nat := none
  waits : Bool := false
  dc : Option (Word × Nat) := none
  deriving DecidableEq, Repr

/-- A command ring beyond its registers: commands in progress, and a fault that has been resolved with ABORT. -/
structure RingSt where
  queue : List RingCmd := []
  aborted : Bool := false
  deriving DecidableEq, Repr

/-- A LAUNCH in progress (R606, R607, R640): ring and index, what its groups take, the next block to offer, the core
that took the last one, whether its kernel has gone, and the digest of the groups that have ended. -/
structure Launch where
  ring : BitVec 6
  idx : BitVec 32
  kernel : Nat
  ctx : Nat
  arg : Word
  target : Word
  blocks : Nat
  next : Nat := 0
  last : Option Nat := none
  gone : Bool := false
  sum : Word := 0
  deriving DecidableEq, Repr

/-- A launch whose duplex wait has timed out (R641): a triple that comes later is still compared. -/
structure LateCheck where
  ring : BitVec 6
  idx : BitVec 32
  digest : Word
  deriving DecidableEq, Repr

/-! ## Host coupling -/

/-- What Beryl is told. -/
inductive Notice where
  | fallbackNone | hostReset (hd : Nat) | dieLost (cd : Nat) | linkDown (link : Nat) | verifyFailed (role : Nat)
  | bootFailed | tamper | laser (k : Nat) | save (result : Nat)
  deriving DecidableEq, Repr

/-- Host absence and resets (R616, R621): the tick of the last heartbeat, whether the watchdog has lapsed, when the
absence began, and how often each host die has been reset. -/
structure HostSt where
  beat : Nat := 0
  lapsed : Bool := false
  since : Option Nat := none
  resets : List Nat := [0, 0]
  deriving DecidableEq, Repr

/-! ## The twin link -/

/-- An entry of the journal (R630 to R633): a codeword with its poison bit, zeroed codewords, or a mark. -/
inductive TwnRec where
  | word (pa : Nat) (data : BitVec 512) (poison : Bool)
  | zeros (lo hi : Nat)
  | mark (n : Nat)
  deriving DecidableEq, Repr

/-- The twin controller beyond its registers: the journal tail, oldest first; the receive journal; the tick since
which both paths have been lost, and whether a TAKEOVER action waits for TAKEOVER_MS; the tick of the last heartbeat;
good lanes; the 1 ms window of tag failures and its count; the tick the session key was set, whether KEY_UPDATE has
been requested, and the key phase; and what the partner last showed. -/
structure TwnSt where
  tail : List TwnRec := []
  rx : List TwnRec := []
  lost : Option Nat := some 0
  asked : Bool := false
  beat : Nat := 0
  good : Nat := 16
  failWin : Nat := 0
  fails : Nat := 0
  keyed : Option Nat := none
  rekey : Bool := false
  phase : Bool := false
  peer : PeerFacts := ⟨false, 0, false, []⟩
  deriving DecidableEq, Repr

/-! ## Arbitration -/

/-- An arbiter (R124, R125): whether the last grant was P1, the input last granted in each rank, and how many grants to
higher classes the P3 request at the head of each input has watched. -/
structure HopSt where
  lastP1 : Bool := false
  last : Sparse Nat := []
  seen : Sparse Nat := []
  deriving DecidableEq, Repr

/-! ## Snapshots -/

/-- A die's snapshot in progress: its tick, and whether it belongs to a package snapshot (R88, R90). -/
structure SnapSt where
  tick : Nat := 0
  pkg : Bool := false
  deriving DecidableEq, Repr

/-- A package snapshot (R90): its tick, the dies its command has not reached, those that take part and those that have
completed. -/
structure PkgSnap where
  tick : Nat
  coming : List Nat
  part : List Nat
  done : List Nat
  deriving DecidableEq, Repr

/-! ## Power -/

/-- How the module is powered: nothing; the standby rail alone; a package power-on or reset that has not brought the
dies up yet; or in operation. -/
inductive PwrPhase where
  | off | standby | starting | on
  deriving DecidableEq, Repr

/-- A save in progress (R701, R705): the slot it writes, its cause, and whether it is a SAVE_ONLY. -/
structure SaveRun where
  slot : Nat
  cause : Nat
  only : Bool
  image : SaveSlot
  deriving DecidableEq, Repr

/-- The supply as Beryl sees it (R688 to R716): the phase; the standby-enable input; whether the module waits for VIN
(R704) or for a command to power on (R712, R714), and whether that command has come; that a PowerCycle is under way; why the
input switch is open: 0 closed, 1 overvoltage, 2 overcurrent; the save list in force, as address, length and TAG; and
the save in progress. -/
structure PwrSt where
  phase : PwrPhase := .starting
  enable : Bool := true
  waitVin : Bool := false
  waitOn : Bool := false
  thermal : Bool := false
  cycle : Bool := false
  open_ : Nat := 0
  list : List (Nat × Nat × Nat) := []
  save : Option SaveRun := none
  deriving DecidableEq, Repr

/-! ## A core -/

/-- A VTLOAD whose copy into the inactive bank is under way (R352): the slots named, and the words of their images
by slot and word. -/
structure TblLoad where
  mask : BitVec 16
  words : List (Nat × Word)
  deriving DecidableEq, Repr

/-- A core's state beyond its registers (R154). Operand cache and accumulator memory are sparse byte arrays
that read 0 where nothing is listed; `opcBad` and `accBad` list the words with an uncorrectable error (R257).
The tables are two banks of sixteen slots of 520 words (R346), keyed bank, slot and word. -/
structure CoreSt where
  groups : Sparse Group := []
  blocks : Sparse Block := []
  halted : BitVec 2 := 0
  opc : Sparse Byte := []
  acc : Sparse Byte := []
  opcBad : List Nat := []
  accBad : List Nat := []
  tbl : Sparse Word := []
  tblBank : Bool := false
  tblLoad : Option TblLoad := none
  /-- Ranges of the operand cache written since the route links last delivered (R567); empty between commands. -/
  wrote : List (Nat × Nat) := []
  /-- The L1, by line number PA[47:7] (R447). -/
  l1 : Sparse CacheLine := []
  /-- The write-merging buffer, oldest entry first. -/
  mbuf : List MergeEnt := []
  /-- An INVALIDATE of the L1 has started and not completed. -/
  l1Busy : Bool := false
  /-- The core TLB (R514). -/
  tlb : List TlbEnt := []
  deriving DecidableEq, Repr

/-! ## The machine -/

/-- The state of the block. Registers are keyed by their offset from the base of register space (R69). -/
structure State where
  /-- The timebase, in ticks (R114). -/
  tick : Nat
  /-- How many free values have been drawn: the model's own field. -/
  drawn : Nat
  /-- The answer of the last command. -/
  resp : Resp
  /-- Every register field that holds a value of its own. -/
  regs : Sparse Word
  /-- Pending identities of the IMSIC files, keyed by page offset in register space (R78, R103). -/
  imsic : Sparse (BitVec 256)
  /-- The dies by site. -/
  dies : Sparse DieSt
  /-- The links: 0 to 7 edge, 8 to 15 OC0 to OC7, 16 and 17 OH0 and OH1. -/
  links : Sparse LinkSt
  /-- The accelerator cores. -/
  cores : Sparse CoreSt
  /-- Synchronization objects, keyed die times 2,048 plus index (R188). -/
  sync : Sparse SyncObj
  /-- The error records held (R737). -/
  ras : List RasRec
  /-- Onyx (chapter 14). -/
  onyx : OnyxSt
  /-- A command that has to wait for a regulator, a die's wake or a link is given up: the model's own field, false
  between commands. -/
  hold : Bool
  /-- Order stamps of directory entries (R474): the model's own counter. -/
  stamp : Nat
  /-- DRAM bytes by physical cell: die times 2^37 plus die-local address (R400). -/
  dram : Sparse Byte
  /-- Encryption tags of codewords, by cell. -/
  tags : Sparse CwTag
  /-- Poisoned codewords, by cell. -/
  bad : Sparse Bool
  /-- The reduction buffers, oldest line first (R424). -/
  red : List RedLine
  /-- Identities of the keys of partitions 0 to 7 and of the save-area key 8 (R435, R403). -/
  keys : Sparse Nat
  /-- Dies whose controllers hold the save-area key. -/
  sak : Sparse Bool
  /-- The spindle's package copy of map, ranges, partitions and regulators (R144), by register address. -/
  pkg : Sparse Word
  /-- Corrected errors of each row (R432). -/
  rowCe : Sparse Nat
  /-- Zeroization runs in progress, at most one per die. -/
  zero : List ZeroRun
  /-- Zeroization runs that have ended, latest first: what untagged codewords hold. -/
  zeroed : List ZeroRun
  /-- Lines in caches, keyed holder times 2^34 plus line (R443): 0 to 63 cluster L2s, 64 to 71 bobbin pairs, 72 and
  73 host dies, 74 the far cache. A line is PA[39:7]; twin lines stand 2^33 higher. -/
  lines : Sparse CacheLine
  /-- The far cache's records of sub-holders, by line. -/
  subs : Sparse SubEnt
  /-- The directories of all homes, by line. -/
  dir : Sparse DirEnt
  /-- Miss registers in flight. -/
  miss : List Miss
  /-- Tile memory by offset in the tile region (R453). -/
  tile : Sparse Byte
  /-- Poisoned 64 B blocks of tile memory. -/
  tileBad : Sparse Bool
  /-- Tile requests that wait for a change of ways or for their epoch (R457, R583). -/
  tileWait : List TileRequest
  /-- The translation walkers: clusters 0 to 63, shuttle walkers of CD0 to CD7 64 to 71, the hub's 72. -/
  walk : Sparse WalkerSt
  /-- Faults of units: cores 0 to 1,023, engines from 1,024, command rings from 2,048. -/
  ufault : Sparse (Option XlFault)
  /-- The fault queues of the partitions. -/
  fq : Sparse FqSt
  /-- The shootdown in progress. -/
  shoot : Option Shoot
  /-- The shuttle engines: 16 per compute die, then the hub's eight. -/
  se : Sparse SeSt
  /-- The waits of command rings at counters (R608): 0 none, 1 waiting, otherwise 2 plus the status. -/
  ringWait : Sparse Nat
  /-- The active configuration of each cluster. -/
  clConf : Sparse ClConf
  /-- The weave loader. -/
  wv : WvSt
  /-- Launches one of whose groups was ended by KILL_GROUP (R610): ring and launch. -/
  killed : List (BitVec 6 × BitVec 32)
  /-- The command rings. -/
  rings : Sparse RingSt
  /-- Launches in progress, in the order in which they started. -/
  launches : List Launch
  /-- Partner triples that wait for the local launch (R641). -/
  triples : List Triple
  /-- Launches whose duplex wait has timed out. -/
  dcLate : List LateCheck
  /-- Host absence and resets. -/
  host : HostSt
  /-- What Beryl has been told, oldest first. -/
  told : List Notice
  /-- The twin controller. -/
  twn : TwnSt
  /-- The lost-line lists of the compute dies (R732). -/
  lost : Sparse (List Nat)
  /-- The idle states 1 and 2 of cores (R137). -/
  sleep : Sparse Nat
  /-- Units whose wake has started: cores, clusters from 1,024, dies from 1,088. -/
  waking : List Nat
  /-- The tick at which each die's residency counts were last brought up to date. -/
  idleSince : Sparse Nat
  /-- The last nine arrivals at each ring's doorbell, newest first (R139). -/
  bells : Sparse (List Nat)
  /-- The arbiters, by hop (R124, R125). -/
  hops : Sparse HopSt
  /-- Beryl's OVERPOWER limit acts (R690). -/
  overpower : Bool
  /-- Snapshots in progress, by site (R88). -/
  snaps : Sparse SnapSt
  /-- The package snapshot in progress (R90). -/
  pkgSnap : Option PkgSnap
  /-- Beryl's list of rows to repair (R432, R728). -/
  marked : List Nat
  /-- The module's supply (chapter 15). -/
  pwr : PwrSt
  /-- Commands that wait, first in, first out. -/
  pending : List Instr
  deriving DecidableEq, Repr

/-- The machine right after a package reset: every die held in reset, every register at its reset value,
nothing in memory, no command waiting. -/
def State.reset : State where
  tick := 0
  drawn := 0
  resp := {}
  regs := []
  imsic := []
  dies := []
  links := []
  cores := []
  sync := []
  ras := []
  onyx := {}
  hold := false
  stamp := 0
  dram := []
  tags := []
  bad := []
  red := []
  keys := []
  sak := []
  pkg := []
  rowCe := []
  zero := []
  zeroed := []
  lines := []
  subs := []
  dir := []
  miss := []
  tile := []
  tileBad := []
  tileWait := []
  walk := []
  ufault := []
  fq := []
  shoot := none
  se := []
  ringWait := []
  clConf := []
  wv := {}
  killed := []
  rings := []
  launches := []
  triples := []
  dcLate := []
  host := {}
  told := []
  twn := {}
  lost := []
  sleep := []
  waking := []
  idleSince := []
  bells := []
  hops := []
  overpower := false
  snaps := []
  pkgSnap := none
  marked := []
  pwr := {}
  pending := []

end Sys2Proof.Machine
end

