-- ==== Sys2Proof/Machine/Ops.lean ====
section
/-!
DEFINITION. The named operations every family uses: registers and their fields, time, free values, die
service, interrupts (R101 to R108) and error records (R736 to R741).
-/

namespace Sys2Proof.Machine

/-! ## Bits -/

/-- Bit of a Bool as a number. -/
def b2n (b : Bool) : Nat := if b then 1 else 0

/-- Bits lo to lo + w - 1 of a number. -/
def bits (x lo w : Nat) : Nat := (x >>> lo) % 2 ^ w

/-- The value of a field in a register word. -/
def Fld.get (f : Fld) (x : Word) : Nat := bits x.toNat f.lo f.w

/-- The mask of a field. -/
def Fld.mask (f : Fld) : Word := Word.of ((2 ^ f.w - 1) <<< f.lo)

/-- A register word with a field set; the value is cut to the field's width. -/
def Fld.set (f : Fld) (v : Nat) (x : Word) : Word :=
  (x &&& ~~~ f.mask) ||| Word.of ((v % 2 ^ f.w) <<< f.lo)

/-- R13: a value is legal in a field unless it is a reserved encoding. -/
def Fld.legal (f : Fld) (v : Nat) : Bool := decide (f.least ≤ v) && decide (v ≤ f.most)

/-! ## The catalogue by address -/

/-- Whether an offset is a register of this row. -/
def RegRow.hit (r : RegRow) (off : Nat) : Bool :=
  decide (r.off ≤ off) &&
    (let d := off - r.off
     let i := d / r.s1
     let rest := d % r.s1
     decide (i < r.n1) && decide (rest / r.s2 < r.n2) && decide (rest % r.s2 = 0))

/-- Where an address in register space falls: its site, the rows that can hold it and its offset in them, with
the offset of its 64 KiB slot in the window (R69, R75 to R77). `none` past the windows and slots. -/
def regPlace (a : Nat) : Option (Nat × List RegRow × Nat) :=
  let site := a / 0x1_0000_0000
  let w := a % 0x1_0000_0000
  if site = 0 then some (site, rows_glob ++ rows_hub, w)
  else if site ≤ 8 then
    if w < 0x0100_0000 then some (site, rows_glob ++ rows_cd, w)
    else
      let k := (w - 0x0100_0000) / 0x20_0000
      let u := (w - 0x0100_0000) % 0x20_0000 / 0x1_0000
      if k < 8 then
        if u = 0 then some (site, rows_clu, w % 0x1_0000)
        else if u ≤ 16 then some (site, rows_core, w % 0x1_0000)
        else none
      else none
  else if site ≤ 10 then some (site, rows_glob ++ rows_hd, w)
  else none

/-- R79: which of the four copies of its block an address names: 0 plain, 1 set, 2 clear, 3 toggle. -/
def regCopy (a : Nat) : Nat := a / 0x4000 % 4

/-- The address of the register itself for an address in any of the four copies of its block. -/
def regPlain (a : Nat) : Nat := a - regCopy a * 0x4000

/-- The catalogue row of a register address, and whether the address is its holding copy (R86, R87). -/
def regRow (a : Nat) : Option (RegRow × Bool) :=
  match regPlace a with
  | none => none
  | some (_, rows, off) =>
    match rows.find? (fun r => r.hit off) with
    | some r => some (r, false)
    | none =>
      if 0x2000 ≤ off then
        match rows.find? (fun r => r.counter && r.hit (off - 0x2000)) with
        | some r => some (r, true)
        | none => none
      else none

/-- A word of the fields' reset values. -/
def resetWord (fs : List Fld) : Word := fs.foldl (fun x f => f.set f.reset x) 0

/-- The reset value of the register at an address; holding copies and undefined offsets give 0. -/
def regReset (a : Nat) : Word :=
  match regRow a with
  | some (r, false) => resetWord r.fields
  | _ => 0

/-! ## Registers -/

/-- The stored value of the register at address `a`. -/
def State.reg (s : State) (a : Nat) : Word := Sparse.get regReset s.regs a

/-- Store a register. -/
def State.setReg (s : State) (a : Nat) (v : Word) : State :=
  { s with regs := Sparse.set regReset s.regs a v }

/-- The value of a field of a register. -/
def State.fld (s : State) (a : Nat) (f : Fld) : Nat := f.get (s.reg a)

/-- Whether a one-bit field is 1. -/
def State.flag (s : State) (a : Nat) (f : Fld) : Bool := decide (s.fld a f ≠ 0)

/-- Set a field of a register; a hardware update through the register's one update port (R82). -/
def State.setFld (s : State) (a : Nat) (f : Fld) (v : Nat) : State := s.setReg a (f.set v (s.reg a))

/-- Raise a count field: a count of type RC saturates at all ones (R84); the others wrap at their width. -/
def State.count (s : State) (a : Nat) (f : Fld) (n : Nat) : State :=
  let v := s.fld a f + n
  s.setFld a f (if f.acc = .rc then min v (2 ^ f.w - 1) else v)

/-- Put every register of a die, or of any address range, back to its reset value. -/
def State.resetRegs (s : State) (lo hi : Nat) : State :=
  { s with regs := s.regs.filter (fun e => decide (e.1 < lo) || decide (hi ≤ e.1)) }

/-! ## Time, answers and free values -/

/-- Time passes to tick `t`, when it has not passed already. -/
def State.until (s : State) (t : Nat) : State := { s with tick := max s.tick t }

/-- Answer the command's sender. -/
def State.answer (s : State) (st : RespStatus) (data : List Word := []) : State :=
  { s with resp := ⟨st, data⟩ }

/-- The next free value. -/
def State.free (s : State) : Nat := Config.free s.drawn

/-- Advance past a free value that has been used. -/
def State.draw (s : State) : State := { s with drawn := s.drawn + 1 }

/-- Advance past `n` free values. -/
def State.drawN (s : State) (n : Nat) : State := { s with drawn := s.drawn + n }

/-- Give the command up: it waits for something that has not happened yet. -/
def State.wait (s : State) : State := { s with hold := true }

/-- Run a command's effect; a command that has to wait changes nothing and answers `held`. -/
def State.commit (s : State) (body : State → State) : State :=
  let t := body s
  if t.hold then s.answer .held else t

/-- What the meaning of a command answers. -/
abbrev Out := Host.Outcome State Fault Refusal

/-- A state in which nothing has been given up. -/
def State.fresh (s : State) : State := { s with hold := false }

/-- The meaning of a command: its effect as one event, on everything but the queue. A command that has to wait
for something changes nothing and answers `held`. -/
def State.run (s : State) (body : State → State) : Out :=
  let t := s.fresh.commit body
  .next { t with pending := s.pending, hold := false }

/-! ## Dies -/

/-- The die at a site. -/
def State.die (s : State) (site : Nat) : DieSt := Sparse.get (fun _ => {}) s.dies site

/-- Change the die at a site. -/
def State.setDie (s : State) (site : Nat) (d : DieSt) : State :=
  { s with dies := Sparse.set (fun _ => {}) s.dies site d }

/-- R70: whether a die is in service. -/
def State.up (s : State) (site : Nat) : Bool := (s.die site).inService

/-- The compute dies in service. -/
def State.cdUp (s : State) (cd : Nat) : Bool := s.up (cd + 1)

/-- The site of a shuttle engine's die. -/
def SeRef.site : SeRef → Nat
  | .cd n _ => n.val + 1
  | .hub _ => 0

/-- The hidden state of a link: 0 to 7 the edge links, 8 to 17 the optical ones. -/
def State.lnk (s : State) (l : Nat) : LinkSt := Sparse.get (fun _ => {}) s.links l

/-- Store the hidden state of a link. -/
def State.setLnk (s : State) (l : Nat) (k : LinkSt) : State :=
  { s with links := Sparse.set (fun _ => {}) s.links l k }

/-! ## Interrupts -/

/-- The pending identities of an interrupt file page. -/
def State.file (s : State) (page : Nat) : BitVec 256 := Sparse.get (fun _ => 0) s.imsic page

/-- R77, R644: the pages of register space that are interrupt files, with the site of their die. -/
def filePage (a : Nat) : Option Nat :=
  let site := a / 0x1_0000_0000
  let w := a % 0x1_0000_0000
  if site = 9 ∨ site = 10 then
    if 0x1000_0000 ≤ w ∧ w < 0x1000_0000 + 48 * 0x1000 then some site
    else if 0x1100_0000 ≤ w ∧ w < 0x1100_0000 + 48 * 0x8000 then some site
    else none
  else if 1 ≤ site ∧ site ≤ 8 then
    if 0x6_1000 ≤ w ∧ w < 0x6_3000 then some site else none
  else none

/-- The base of register space (R69). -/
def regSpace : Nat := 0xE00_0000_0000

/-- R102: whether PA[47:12] names an interrupt file of a die in service. -/
def State.fileValid (s : State) (file : Nat) : Bool :=
  let pa := file * 0x1000
  decide (regSpace ≤ pa) && decide (pa < 0xF00_0000_0000) &&
    (match filePage (pa - regSpace) with
     | some site => s.up site
     | none => false)

/-- R103: the setipnum_le write: identity `ident` becomes pending in a file; identities are 1 to 255 (R78). -/
def State.setIp (s : State) (page ident : Nat) : State :=
  if ident = 0 ∨ 255 < ident then s
  else { s with imsic := Sparse.set (fun _ => 0) s.imsic page (s.file page ||| BitVec.twoPow 256 ident) }

/-- R103 and R104 for one source entry given by the addresses of its two registers: `event` says that the
source's event has occurred now. -/
def State.msiEntry (s : State) (addr ctrl : Nat) (event : Bool) : State :=
  let file := s.fld addr F.msiAddr_file
  let ident := s.fld ctrl F.msiCtrl_ident
  let bad := !s.fileValid file || decide (ident = 0)
  if event || s.flag ctrl F.msiCtrl_pend then
    if !s.flag ctrl F.msiCtrl_mask && !bad then
      ((s.setIp (file * 0x1000 - regSpace) ident).setFld ctrl F.msiCtrl_pend 0).setFld ctrl F.msiCtrl_undeliv 0
    else (s.setFld ctrl F.msiCtrl_pend 1).setFld ctrl F.msiCtrl_undeliv (b2n bad)
  else s

/-- R103: the event of interrupt source `i` of the die at `site`. A die that is not in service raises none. -/
def State.raise (s : State) (site i : Nat) : State :=
  if s.up site then s.msiEntry (R.msiAddr site i) (R.msiCtrl site i) true else s

/-- The indices of a table below `n`, in rising order. -/
def upTo (n : Nat) : List Nat := List.range n

/-- R104: after a change of service state, every entry with PEND at 1 is evaluated again, the command rings'
entries among them. Only stored registers can have PEND at 1. -/
def State.msiAll (s : State) : State :=
  s.regs.foldl (fun t e =>
    let a := e.1
    let off := a % 0x1_0000_0000
    if decide (0x3000 ≤ off) && decide (off < 0x4000) && decide (off % 0x10 = 8) then t.msiEntry (a - 8) a false
    else if decide (a < 0x1_0000_0000) && decide (0xB1000 ≤ off) && decide (off < 0xB1800) && decide (off % 0x20 = 0x18) then
      t.msiEntry (a - 8) a false
    else t) s

/-! ## Error records -/

/-- R740: whether a CE merges into a record. -/
def RasRec.merges (r : RasRec) (d : Detection) (now : Nat) : Bool :=
  decide (r.det.cls = d.cls) && decide (r.det.die = d.die) && decide (r.det.unit = d.unit)
    && decide (r.det.code = d.code) && decide (r.det.addr = d.addr) && decide (now < r.tick + 1_000_000)

/-- The newest of the records that a test admits. -/
def newestRec (p : RasRec → Bool) (rs : List RasRec) : Option RasRec :=
  rs.foldl (fun best r => if p r then
      (match best with | some b => if b.seq ≤ r.seq then some r else best | none => some r) else best) none

/-- The oldest of the records that a test admits. -/
def oldestRec (p : RasRec → Bool) (rs : List RasRec) : Option RasRec :=
  rs.foldl (fun best r => if p r then
      (match best with | some b => if r.seq ≤ b.seq then some r else best | none => some r) else best) none

/-- R739: the interrupt that follows a written record: source 1 for a CE, 2 otherwise, of the detecting die, or
of the spindle when that die is not in service. -/
def State.rasInterrupt (s : State) (d : Detection) : State :=
  let site := if s.up d.die.toNat then d.die.toNat else 0
  s.raise site (if d.severity = 0 then 1 else 2)

/-- A record takes the next SEQ, in place of the record of SEQ `out` if one is named. -/
def State.rasPut (s : State) (d : Detection) (out : Option Nat) : State :=
  let seq := s.fld R.rasProd F.rasProd_prod
  let keep := match out with
    | some q => s.ras.filter (fun (r : RasRec) => decide (r.seq ≠ q))
    | none => s.ras
  let s1 : State := { s with ras := keep ++ [(⟨seq, s.tick, d, 1⟩ : RasRec)] }
  (s1.setFld R.rasProd F.rasProd_prod (seq + 1)).rasInterrupt d

/-- The slots of the RAS block (R737). -/
def rasSlots : Nat := 16384

/-- R741: find the record a slot. -/
def State.rasAdmit (s : State) (d : Detection) (isCe : Bool) : State :=
  if s.ras.length < rasSlots then s.rasPut d none
  else
    let cons := s.fld R.rasCons F.rasCons_cons
    match oldestRec (fun r => decide (r.seq < cons)) s.ras with
    | some r => s.rasPut d (some r.seq)
    | none =>
      if isCe then s.count R.rasCnt F.rasCnt_droppedCe 1
      else
        match oldestRec (fun r => decide (r.det.severity = 0)) s.ras with
        | some r => s.rasPut d (some r.seq)
        | none =>
          match oldestRec (fun _ => true) s.ras with
          | some r => (s.rasPut d (some r.seq)).count R.rasCnt F.rasCnt_overwritten 1
          | none => s

/-- R739 to R741: a detection reaches the RAS block: merged, written into an empty or read slot, dropped, or
written over an unread record. -/
def State.rasWrite (s : State) (d : Detection) : State :=
  let isCe := decide (d.severity = 0)
  let newest := newestRec (fun r => decide (r.det.severity = 0)) s.ras
  match (if isCe then newest else none) with
  | some n =>
    if n.merges d s.tick then
      { s with ras := s.ras.map (fun r => if r.seq = n.seq then { r with count := min (r.count + 1) (2 ^ 32 - 1) } else r) }
    else s.rasAdmit d isCe
  | none => s.rasAdmit d isCe

/-- A detection without an address or arguments. -/
def det (severity : Fin 3) (cls : Nat) (die : Nat) (unit : Nat) (code : Nat) : Detection where
  severity := severity
  cls := BitVec.ofNat 6 cls
  die := BitVec.ofNat 4 die
  unit := BitVec.ofNat 8 unit
  code := BitVec.ofNat 8 code
  addr := none
  consumed := false
  arg0 := 0
  arg1 := 0

/-! ## Masters -/

/-- R91: whether a master's requests are secure. -/
def State.isSecure (s : State) : Master → Bool
  | .host hd _ .m => s.flag (R.secure hd.val) F.secure_mSecure
  | .onyx => true
  | _ => false

/-- R91, R92: whether a master's requests count as privileged. -/
def State.isPriv (s : State) (m : Master) : Bool :=
  match m with
  | .host _ _ .m => true
  | .host _ _ .hs => true
  | .bobbin _ _ .m => true
  | .bobbin _ _ .s => true
  | .beryl => true
  | .onyx => true
  | .jtag => true
  | m => s.isSecure m

end Sys2Proof.Machine
end

