-- ==== Sys2Proof/Machine/Audit.lean ====
section
/-!
DEFINITION. Onyx's audit log (R671 to R673) and its measurement slots (R655).
-/

namespace Sys2Proof.Machine

/-- A number as `n` little-endian bytes. -/
def toBytes : Nat → Nat → List Byte
  | 0, _ => []
  | n + 1, v => BitVec.ofNat 8 v :: toBytes n (v / 256)

/-- Little-endian bytes as a number. -/
def ofBytes : List Byte → Nat
  | [] => 0
  | b :: bs => b.toNat + 256 * ofBytes bs

/-- The first 40 bytes of an entry (R671). -/
def LogEntry.head (e : LogEntry) : List Byte :=
  toBytes 8 e.seq ++ toBytes 8 e.tick
    ++ toBytes 8 (e.typ.toNat + e.die.toNat * 2 ^ 16 + e.unit.toNat * 2 ^ 20 + e.boot.toNat * 2 ^ 32)
    ++ toBytes 8 e.arg0.toNat ++ toBytes 8 e.arg1.toNat

/-- A whole entry of 64 bytes. -/
def LogEntry.bytes (e : LogEntry) : List Byte := e.head ++ toBytes 16 e.chain.toNat ++ toBytes 8 0

/-- Store 48 bytes in a measurement slot (R655). -/
def State.setMeas (s : State) (m : Nat) (digest : List Byte) : State :=
  (upTo 6).foldl (fun t w => t.setReg (R.secMeas m w) (Word.of (ofBytes ((digest.drop (8 * w)).take 8)))) s

/-- The bytes of a measurement slot. -/
def State.meas (s : State) (m : Nat) : List Byte := (upTo 6).flatMap (fun w => toBytes 8 (s.reg (R.secMeas m w)).toNat)

/-- R655: extend a slot with a value. -/
def State.extendMeas (s : State) (m : Nat) (x : List Byte) : State := s.setMeas m (sha384 (s.meas m ++ x))

/-- The entries of the persistent ring (R672). -/
def ringEntries : Nat := 16384

/-- R671: append an entry: the next sequence number, the chain over the previous entry, and slot 8. -/
def State.logPut (s : State) (o : LogOpen) : State :=
  let x := s.onyx
  let prev : BitVec 128 := match x.log.getLast? with | some e => e.chain | none => 0
  let e0 : LogEntry := {
    seq := x.logNext, tick := o.tick, typ := o.typ, die := o.die, unit := o.unit, boot := BitVec.ofNat 32 x.boots,
    arg0 := o.arg0, arg1 := Word.of o.count, chain := 0 }
  let e : LogEntry := { e0 with chain := BitVec.ofNat 128 (ofBytes (sha384 (e0.head ++ toBytes 16 prev.toNat))) }
  let log := x.log ++ [e]
  let y : OnyxSt := { x with
    log := log.drop (log.length - ringEntries), logPending := x.logPending + 1, logNext := x.logNext + 1 }
  { s with onyx := y }.setMeas 8 (sha384 e.bytes)

/-- R686: set a flag of SEC_EVENT; a change from 0 to 1 raises spindle source 49. -/
def State.secEvent (s : State) (f : Fld) : State :=
  if s.flag R.secEvent f then s else (s.setFld R.secEvent f 1).raise 0 49

/-- R671 to R673: Onyx logs an event. While more than 1,024 entries await the store, events of types 1 to 3 merge
by type and source. -/
def State.audit (s : State) (typ die unit : Nat) (arg0 arg1 : Word) : State :=
  let o : LogOpen := ⟨s.tick, BitVec.ofNat 16 typ, BitVec.ofNat 4 die, BitVec.ofNat 8 unit, arg0, arg1.toNat⟩
  if typ ≤ 3 ∧ 1024 < s.onyx.logPending then
    let same (q : LogOpen) : Bool := decide (q.typ = o.typ) && decide (q.die = o.die) && decide (q.unit = o.unit)
    if s.onyx.logOpen.any same then
      { s with onyx := { s.onyx with
          logOpen := s.onyx.logOpen.map (fun q => if same q then { q with count := q.count + 1 } else q) } }.count
        R.secCntLog F.secCntLog_coalesced 1
    else
      { s with onyx := { s.onyx with logOpen := s.onyx.logOpen ++ [{ o with count := 1 }] } }.secEvent
        F.secEvent_coalescing
  else s.logPut o

/-- R672: the persistent store takes one entry that awaits it; when 1,024 or fewer are left, the merged events
become entries. -/
def State.logStore (s : State) : State :=
  let n := s.onyx.logPending - 1
  let s1 : State := { s with onyx := { s.onyx with logPending := n } }
  if n ≤ 1024 then
    s1.onyx.logOpen.foldl State.logPut { s1 with onyx := { s1.onyx with logOpen := [] } }
  else s1

end Sys2Proof.Machine
end

