-- ==== Sys2Proof/Machine/Num.lean ====
section
/-!
DEFINITION. Numbers: the storage formats (R264 to R268), the common internal form (R269), rounding (R270 to
R272), overflow (R273 to R276), lane arithmetic on exact values (R283) and the stochastic generator (R285).
Every operation is computed exactly on natural numbers and integers and rounded once at the end.
-/

namespace Sys2Proof.Machine

/-- The formats of R264 by name. -/
inductive Fmt where
  | f64 | f32 | f16 | bf16 | e4m3 | e5m2 | e2m1 | i8 | i32 | i64
  deriving DecidableEq, Repr

/-- The format of a code of R264 (R226). -/
def Fmt.ofCode : Nat → Option Fmt
  | 0 => some .f64
  | 1 => some .f32
  | 2 => some .f16
  | 3 => some .bf16
  | 4 => some .e4m3
  | 5 => some .e5m2
  | 8 => some .e2m1
  | 9 => some .i8
  | 10 => some .i32
  | 11 => some .i64
  | _ => none

/-- Storage width in bits. -/
def Fmt.width : Fmt → Nat
  | .f64 => 64 | .f32 => 32 | .f16 => 16 | .bf16 => 16 | .e4m3 => 8 | .e5m2 => 8 | .e2m1 => 4
  | .i8 => 8 | .i32 => 32 | .i64 => 64

/-- Width of the exponent field; 0 for an integer format. -/
def Fmt.eBits : Fmt → Nat
  | .f64 => 11 | .f32 => 8 | .f16 => 5 | .bf16 => 8 | .e4m3 => 4 | .e5m2 => 5 | .e2m1 => 2
  | .i8 => 0 | .i32 => 0 | .i64 => 0

/-- Width of the trailing significand field. -/
def Fmt.fBits : Fmt → Nat
  | .f64 => 52 | .f32 => 23 | .f16 => 10 | .bf16 => 7 | .e4m3 => 3 | .e5m2 => 2 | .e2m1 => 1
  | .i8 => 0 | .i32 => 0 | .i64 => 0

/-- The exponent bias. -/
def Fmt.bias : Fmt → Nat
  | .f64 => 1023 | .f32 => 127 | .f16 => 15 | .bf16 => 127 | .e4m3 => 7 | .e5m2 => 15 | .e2m1 => 1
  | .i8 => 0 | .i32 => 0 | .i64 => 0

/-- Whether the format is an integer format. -/
def Fmt.isInt : Fmt → Bool
  | .i8 => true | .i32 => true | .i64 => true
  | _ => false

/-- Whether the format has infinities (R265). -/
def Fmt.hasInf : Fmt → Bool
  | .f64 => true | .f32 => true | .f16 => true | .bf16 => true | .e5m2 => true
  | _ => false

/-- Whether the format has NaNs (R265). -/
def Fmt.hasNan : Fmt → Bool
  | .e4m3 => true
  | f => f.hasInf

/-- The code of the largest finite magnitude (R265, R266). -/
def Fmt.maxCode : Fmt → Nat
  | .e4m3 => 0x7E
  | .e2m1 => 0x7
  | f => if f.isInt then 2 ^ (f.width - 1) - 1 else (2 ^ f.eBits - 1) * 2 ^ f.fBits - 1

/-- The sign bit of a format as a number. -/
def Fmt.signBit (f : Fmt) : Nat := 2 ^ (f.width - 1)

/-- The code of +∞. -/
def Fmt.infCode (f : Fmt) : Nat := (2 ^ f.eBits - 1) * 2 ^ f.fBits

/-- The canonical NaN (R265); for a format without NaN, the SAT result of R275. -/
def Fmt.nanCode : Fmt → Nat
  | .e4m3 => 0x7F
  | f => if f.hasInf then f.infCode + 2 ^ (f.fBits - 1) else 0

/-- The common internal form (R269): a signed zero, a finite (−1)^neg × m × 2^e with m not 0, a signed infinity,
or NaN. -/
inductive Val where
  | zero (neg : Bool)
  | fin (neg : Bool) (m : Nat) (e : Int)
  | inf (neg : Bool)
  | nan
  deriving DecidableEq, Repr

/-- A finite value or a zero of the given sign. -/
def Val.mk (neg : Bool) (m : Nat) (e : Int) : Val := if m = 0 then .zero neg else .fin neg m e

/-- The value of an integer; zero is +0. -/
def Val.ofInt (i : Int) : Val := Val.mk (decide (i < 0)) i.natAbs 0

/-- A two's complement field of width w as an integer. -/
def signedOf (w x : Nat) : Int :=
  let v := x % 2 ^ w
  if 2 ^ (w - 1) ≤ v then (v : Int) - (2 ^ w : Nat) else v

/-- R264 to R268: the value of a code. -/
def Fmt.decode (f : Fmt) (x : Nat) : Val :=
  if f.isInt then Val.ofInt (signedOf f.width x)
  else
    let v := x % 2 ^ f.width
    let neg := decide (f.signBit ≤ v)
    let mag := v % f.signBit
    let ex := mag / 2 ^ f.fBits
    let fr := mag % 2 ^ f.fBits
    if f.hasInf && decide (ex = 2 ^ f.eBits - 1) then (if fr = 0 then .inf neg else .nan)
    else if decide (f = .e4m3) && decide (mag = 0x7F) then .nan
    else if ex = 0 then Val.mk neg fr (1 - (f.bias : Int) - f.fBits)
    else Val.mk neg (2 ^ f.fBits + fr) ((ex : Int) - f.bias - f.fBits)

/-! ## Rounding -/

/-- Flags and reports of one conversion or rounding. `drew`: a stochastic draw was used; `nan2`: an overflow
became a created NaN of cause 2 (R277). -/
structure NFlags where
  invalid : Bool := false
  overflow : Bool := false
  underflow : Bool := false
  inexact : Bool := false
  drew : Bool := false
  nan2 : Bool := false
  deriving DecidableEq, Repr

/-- Both sets of flags. -/
def NFlags.or (a b : NFlags) : NFlags where
  invalid := a.invalid || b.invalid
  overflow := a.overflow || b.overflow
  underflow := a.underflow || b.underflow
  inexact := a.inexact || b.inexact
  drew := a.drew || b.drew
  nan2 := a.nan2 || b.nan2

/-- The position of the leading one, plus one. -/
def bitLen (m : Nat) : Nat := if m = 0 then 0 else Nat.log2 m + 1

/-- m × 2^e in units of 2^q: the integer part, and the remainder with its divisor (0 and 1 when exact). -/
def inUnits (m : Nat) (e q : Int) : Nat × Nat × Nat :=
  if q ≤ e then (m * 2 ^ (e - q).toNat, 0, 1)
  else
    let d := 2 ^ (q - e).toNat
    (m / d, m % d, d)

/-- R270, R271: whether the magnitude k + rem/div moves up to k + 1. -/
def roundsUp (mode : Nat) (draw : Nat) (neg : Bool) (k rem div : Nat) : Bool :=
  if rem = 0 then false
  else match mode with
  | 0 => decide (div < 2 * rem) || (decide (div = 2 * rem) && decide (k % 2 = 1))
  | 1 => false
  | 2 => neg
  | 3 => !neg
  | _ => decide (draw < rem * 2 ^ 24 / div)

/-- A rounded magnitude n × 2^q of a float format, with n ≤ 2^(fBits + 1), as a code; codes above the format's
largest stand for values above it. -/
def Fmt.encodeMag (f : Fmt) (n : Nat) (q : Int) : Nat :=
  if n < 2 ^ f.fBits then n
  else ((q + f.fBits + f.bias).toNat * 2 ^ f.fBits) + (n - 2 ^ f.fBits)

/-- R274: the value of an overflowing result. `fromInt`: the source was an integer. -/
def Fmt.overflowCode (f : Fmt) (ieee : Bool) (mode : Nat) (neg fromInt : Bool) : Nat :=
  let s := if neg then f.signBit else 0
  if f.isInt then
    if ieee && !fromInt then f.signBit else (if neg then f.signBit else f.maxCode)
  else if f.hasInf then
    if !ieee then s + f.maxCode
    else if mode = 1 ∨ (mode = 2 ∧ ¬ neg) ∨ (mode = 3 ∧ neg) then s + f.maxCode
    else s + f.infCode
  else if f = .e4m3 then (if ieee then f.nanCode else s + f.maxCode)
  else s + f.maxCode

/-- R270 to R275: round a value into a format. `ieee` is OVF_IEEE; `draw` the 24-bit draw used under mode 4. -/
def Fmt.round (f : Fmt) (mode : Nat) (ieee : Bool) (draw : Nat) (fromInt : Bool) (v : Val) : Nat × NFlags :=
  let beyond (neg : Bool) : Nat × NFlags :=
    (f.overflowCode ieee mode neg fromInt,
      { overflow := true, inexact := true, nan2 := decide (f = .e4m3) && ieee })
  match v with
  | .nan =>
    if f.hasNan then (f.nanCode, {})
    else if f.isInt && ieee then (f.signBit, { invalid := true })
    else (0, { invalid := true })
  | .inf neg =>
    if f.hasInf then ((if neg then f.signBit else 0) + f.infCode, {}) else beyond neg
  | .zero neg => (if neg && !f.isInt then f.signBit else 0, {})
  | .fin neg m e =>
    if f.isInt then
      let (k, rem, div) := inUnits m e 0
      let n := if roundsUp mode draw neg k rem div then k + 1 else k
      let fl : NFlags := { inexact := decide (rem ≠ 0), drew := decide (mode = 4) && decide (rem ≠ 0) }
      if (if neg then f.signBit else f.maxCode) < n then
        let o := beyond neg
        (o.1, { o.2 with drew := fl.drew })
      else (if neg then (2 ^ f.width - n) % 2 ^ f.width else n, fl)
    else
      let q : Int := max (e + bitLen m - 1) (1 - f.bias) - f.fBits
      let (k, rem, div) := inUnits m e q
      let n := if roundsUp mode draw neg k rem div then k + 1 else k
      let code := f.encodeMag n q
      let fl : NFlags :=
        { inexact := decide (rem ≠ 0), drew := decide (mode = 4) && decide (rem ≠ 0)
          underflow := decide (rem ≠ 0) && decide (code < 2 ^ f.fBits) }
      if f.maxCode < code then
        let o := beyond neg
        (o.1, { o.2 with drew := fl.drew })
      else ((if neg then f.signBit else 0) + code, fl)

/-! ## Exact arithmetic -/

/-- Multiply by a power of two. -/
def Val.scale (v : Val) (k : Int) : Val :=
  match v with
  | .fin neg m e => .fin neg m (e + k)
  | v => v

/-- The negated value. -/
def Val.neg : Val → Val
  | .zero n => .zero !n
  | .fin n m e => .fin (!n) m e
  | .inf n => .inf !n
  | .nan => .nan

/-- The magnitude. -/
def Val.abs : Val → Val
  | .zero _ => .zero false
  | .fin _ m e => .fin false m e
  | .inf _ => .inf false
  | .nan => .nan

/-- The sign of a value; NaN has none. -/
def Val.isNeg : Val → Bool
  | .zero n => n
  | .fin n _ _ => n
  | .inf n => n
  | .nan => false

/-- Whether a value is NaN. -/
def Val.isNan : Val → Bool
  | .nan => true
  | _ => false

/-- Whether a value is an infinity. -/
def Val.isInf : Val → Bool
  | .inf _ => true
  | _ => false

/-- A finite value as an integer in units of 2^q, where q is at or below its exponent; 0 for the others. -/
def Val.units (q : Int) : Val → Int
  | .fin n m e =>
    let k : Int := (m * 2 ^ (e - q).toNat : Nat)
    if n then -k else k
  | _ => 0

/-- The exponent of a finite value, or `d`. -/
def Val.expOr (d : Int) : Val → Int
  | .fin _ _ e => e
  | _ => d

/-- An exact finite sum: an integer times 2^q. -/
structure Exact where
  n : Int := 0
  q : Int := 0
  deriving DecidableEq, Repr

/-- The sum of two exact numbers. -/
def Exact.add (a b : Exact) : Exact :=
  let q := min a.q b.q
  ⟨a.n * (2 ^ (a.q - q).toNat : Nat) + b.n * (2 ^ (b.q - q).toNat : Nat), q⟩

/-- The exact number of a finite value; 0 for zeros and the others. -/
def Exact.ofVal : Val → Exact
  | .fin n m e => ⟨if n then -(m : Int) else m, e⟩
  | _ => ⟨0, 0⟩

/-- The value of an exact number; zero takes the given sign. -/
def Exact.toVal (x : Exact) (zneg : Bool) : Val :=
  if x.n = 0 then .zero zneg else .fin (decide (x.n < 0)) x.n.natAbs x.q

/-- The exact product. -/
def Exact.mul (a b : Exact) : Exact := ⟨a.n * b.n, a.q + b.q⟩

/-- Comparison of exact numbers: a − b in common units. -/
def Exact.sub (a b : Exact) : Exact := a.add ⟨-b.n, b.q⟩

/-- R283: the exact product of two values, and the cause of a created NaN (1: 0 × ∞). -/
def Val.mul (a b : Val) : Val × Option Nat :=
  let n := xor a.isNeg b.isNeg
  match a, b with
  | .nan, _ => (.nan, none)
  | _, .nan => (.nan, none)
  | .zero _, .inf _ => (.nan, some 1)
  | .inf _, .zero _ => (.nan, some 1)
  | .inf _, _ => (.inf n, none)
  | _, .inf _ => (.inf n, none)
  | .zero _, _ => (.zero n, none)
  | _, .zero _ => (.zero n, none)
  | .fin _ m e, .fin _ m' e' => (.fin n (m * m') (e + e'), none)

/-- R283: the exact sum of two values under a rounding mode (which signs an exact zero), and the cause of a
created NaN (0: ∞ − ∞). -/
def Val.add (mode : Nat) (a b : Val) : Val × Option Nat :=
  match a, b with
  | .nan, _ => (.nan, none)
  | _, .nan => (.nan, none)
  | .inf n, .inf n' => if n = n' then (.inf n, none) else (.nan, some 0)
  | .inf n, _ => (.inf n, none)
  | _, .inf n => (.inf n, none)
  | .zero n, .zero n' => (.zero (if n = n' then n else decide (mode = 2)), none)
  | .zero _, v => (v, none)
  | v, .zero _ => (v, none)
  | v, w => (((Exact.ofVal v).add (Exact.ofVal w)).toVal (decide (mode = 2)), none)

/-- R283: a × b + c on exact values. -/
def Val.fma (mode : Nat) (a b c : Val) : Val × Option Nat :=
  if a.isNan || b.isNan || c.isNan then (.nan, none)
  else match Val.mul a b with
  | (.nan, cause) => (.nan, cause)
  | (p, _) => Val.add mode p c

/-- Whether a is less than b; NaN compares false. Zeros are equal. -/
def Val.lt (a b : Val) : Bool :=
  match a, b with
  | .nan, _ => false
  | _, .nan => false
  | .inf n, .inf n' => n && !n'
  | .inf n, _ => n
  | _, .inf n => !n
  | v, w => decide (((Exact.ofVal v).sub (Exact.ofVal w)).n < 0)

/-- Whether a equals b; NaN compares false. Zeros are equal. -/
def Val.eq (a b : Val) : Bool := !a.isNan && !b.isNan && !a.lt b && !b.lt a

/-- The order of minimumNumber and maximumNumber: as `lt`, with −0 below +0. -/
def Val.below (a b : Val) : Bool := a.lt b || (a.eq b && a.isNeg && !b.isNeg)

/-- R283: minimumNumber. -/
def Val.minNum (a b : Val) : Val :=
  if a.isNan then b else if b.isNan then a else if b.below a then b else a

/-- R283: maximumNumber. -/
def Val.maxNum (a b : Val) : Val :=
  if a.isNan then b else if b.isNan then a else if a.below b then b else a

/-- The comparison codes of QCMP and VCMP: 0 equal, 1 not equal, 2 less, 3 less or equal, 4 greater, 5 greater
or equal, 6 unordered. -/
def Val.cmp (code : Nat) (a b : Val) : Bool :=
  match code with
  | 0 => a.eq b
  | 1 => !a.eq b
  | 2 => a.lt b
  | 3 => a.lt b || a.eq b
  | 4 => b.lt a
  | 5 => b.lt a || a.eq b
  | _ => a.isNan || b.isNan

/-! ## The stochastic generator -/

/-- R285: mix. -/
def srMix (z : Word) : Word :=
  let k : Word := 0xD6E8_FEB8_6659_FD93
  let z1 := (z ^^^ (z >>> 32)) * k
  let z2 := (z1 ^^^ (z1 >>> 32)) * k
  z2 ^^^ (z2 >>> 32)

/-- R285: the 24-bit draw for a seed and two keys. -/
def srDraw (seed k1 k2 : Word) : Nat :=
  (srMix (seed ^^^ srMix (k1 + 0x9E37_79B9_7F4A_7C15 * (k2 + 1))) >>> 40).toNat

/-- R286: the key k1 of a domain and a position. -/
def srKey (domain position : Nat) : Word := Word.of (domain * 2 ^ 60 + position % 2 ^ 60)

end Sys2Proof.Machine
end

