-- ==== Sys2Proof/Machine/Flags.lean ====
section
/-!
DEFINITION. Flags, reports and halts of a core: the lane flags (R284), the NaN sentinel (R288 to R293), error
halts (R206, R211) and core halts (R207).
-/

namespace Sys2Proof.Machine

/-! ## Cores and groups -/

/-- The state of core `c` beyond its registers. -/
def State.core (s : State) (c : Nat) : CoreSt := Sparse.get (fun _ => {}) s.cores c

/-- Store the state of a core. -/
def State.setCore (s : State) (c : Nat) (k : CoreSt) : State :=
  { s with cores := Sparse.set (fun _ => {}) s.cores c k }

/-- The group in a slot. -/
def CoreSt.grp (k : CoreSt) (slot : Nat) : Group := Sparse.get (fun _ => {}) k.groups slot

/-- The group a reference names. -/
def State.grp (s : State) (g : GroupRef) : Group := (s.core g.core.val).grp g.slot.val

/-- Store a group. -/
def State.setGrp (s : State) (g : GroupRef) (x : Group) : State :=
  let k := s.core g.core.val
  s.setCore g.core.val { k with groups := Sparse.set (fun _ => {}) k.groups g.slot.val x }

/-- The compute die of a core. -/
def coreCd (c : Nat) : Nat := c / 128
/-- The site of a core's die. -/
def coreSite (c : Nat) : Nat := c / 128 + 1
/-- The package cluster of a core. -/
def coreCl (c : Nat) : Nat := c / 16
/-- The cluster number k of CLk within its die. -/
def coreK (c : Nat) : Nat := c / 16 % 8
/-- UNIT of R100: cluster times 16 plus core. -/
def coreUnit (c : Nat) : Nat := c % 128

/-- The active configuration of a cluster. -/
def State.conf (s : State) (cl : Nat) : ClConf := Sparse.get (fun _ => {}) s.clConf cl

/-- R584: whether a QUIESCE entry names a group's instruction. -/
def State.quiesceAt (s : State) (c : Nat) (x : Group) : Bool :=
  (s.conf (coreCl c)).sched.any (fun e => decide (e.kind = 1) && decide (e.kernel = x.kernel.toNat) && decide (e.pc * 8 = x.pc.toNat))

/-- R584, R586: whether the cluster of a core is parking, parked or swapping. -/
def State.parking (s : State) (c : Nat) : Bool :=
  let cs := s.fld (R.wvClEpoch (coreCl c)) F.wvClEpoch_cstate
  decide (1 ≤ cs) && decide (cs ≤ 3)

/-- R584: what a group that has been granted its wait does next: at a quiesce point of a vote it stays. -/
def State.afterWait (s : State) (c : Nat) (x : Group) : GroupWait :=
  if s.parking c && s.quiesceAt c x then .parked else .none

/-! ## Error halts -/

/-- R206: error codes. -/
inductive HaltCode where
  | illegal | divCollective | reconvOverflow | misaligned | regAccess | serialNest | poison | softHalt
  deriving DecidableEq, Repr

/-- R206: the number of an error code. -/
def HaltCode.num : HaltCode → Nat
  | .illegal => 1 | .divCollective => 2 | .reconvOverflow => 3 | .misaligned => 4
  | .regAccess => 5 | .serialNest => 6 | .poison => 7 | .softHalt => 8

/-- R211: capture the first error of a core; a later one sets MORE. -/
def State.captureErr (s : State) (g : GroupRef) (pc : BitVec 48) (code : Nat) : State :=
  let a := R.seqErr g.core.val
  if s.flag a F.seqErr_valid then s.setFld a F.seqErr_more 1
  else s.setReg a (F.seqErr_valid.set 1 (F.seqErr_group.set g.slot.val (F.seqErr_code.set code
    (F.seqErr_pc.set (pc.toNat / 8) (s.reg a)))))

/-- R206: an error halts its group at the instruction that caused it, is counted and captured, and raises
source 48 + k. -/
def State.haltGroup (s : State) (g : GroupRef) (code : HaltCode) : State :=
  let x := s.grp g
  let s1 := s.setGrp g { x with halt := some (BitVec.ofNat 8 code.num), wait := .none }
  let s2 := (s1.captureErr g x.pc code.num).count (R.cntErr g.core.val) F.cntErr_errors 1
  s2.raise (coreSite g.core.val) (48 + coreK g.core.val)

/-- R207: halt a core; a core that is halted keeps its first cause (log entry 3). -/
def State.haltCore (s : State) (c : Nat) (cause : BitVec 2) : State :=
  let k := s.core c
  if k.halted = 0 then s.setCore c { k with halted := cause } else s

/-! ## The NaN sentinel -/

/-- R293: the four words of a record. -/
def NanReport.words (r : NanReport) (c epoch tick : Nat) : List Word :=
  [ Word.of (1 + r.engine.toNat * 2 ^ 1 + b2n r.coord * 2 ^ 3 + coreSite c * 2 ^ 4 + coreK c * 2 ^ 8
      + (c % 16) * 2 ^ 11 + r.group.toNat * 2 ^ 15 + r.row.toNat * 2 ^ 23 + (r.col.toNat % 256) * 2 ^ 31
      + r.cls.toNat * 2 ^ 39 + r.opcode.toNat * 2 ^ 43 + r.cause.toNat * 2 ^ 51
      + (if r.engine = 2 then r.col.toNat / 256 else 0) * 2 ^ 54),
    Word.of (r.pc.toNat / 8),
    Word.of (epoch % 2 ^ 32 + (tick % 2 ^ 32) * 2 ^ 32),
    r.beats ]

/-- Store consecutive words of a register array of stride 8. -/
def State.setRegs (s : State) (a : Nat) (ws : List Word) : State :=
  ws.zipIdx.foldl (fun t e => t.setReg (a + 8 * e.2) e.1) s

/-- R289, R292: a report reaches the sentinel of core `c`. -/
def State.nanReport (s : State) (c : Nat) (r : NanReport) : State :=
  let s1 := s.count (R.nsCnt c) F.nsCnt_reports 1
  if (s.reg (R.nsRec c 0)).toNat % 2 = 1 then s1
  else
    let epoch := s.fld (R.wvClEpoch (coreCl c)) F.wvClEpoch_epoch
    let s2 := s1.setRegs (R.nsRec c 0) (r.words c epoch s.tick)
    match s.fld (R.nsCtrl c) F.nsCtrl_action with
    | 0 => s2
    | 1 => s2.raise (coreSite c) (8 + coreK c)
    | _ => (s2.raise (coreSite c) (8 + coreK c)).haltCore c 2

/-! ## The duplex sum -/

/-- R640: certified results of a group, given as (e, bits), of the instruction at `pc`. -/
def State.certify (s : State) (g : GroupRef) (pc : BitVec 48) (es : List (Nat × Nat)) : State :=
  let x := s.grp g
  let cert := (s.conf (coreCl g.core.val)).kernels.any (fun k => decide (k.id = x.kernel.toNat) && k.cert)
  if cert ∧ s.fld R.twnCtrl F.twnCtrl_mode = 2 then
    let term (e : Nat × Nat) : Word := srMix (srMix (Word.of (pc.toNat / 8 * 2 ^ 16 + e.1)) ^^^ Word.of e.2)
    s.setGrp g { x with dsum := es.foldl (fun w e => w + term e) x.dsum }
  else s

/-! ## Lane flags -/

/-- R283, R284: set the sticky flags of lane arithmetic; `cvt` says that an overflow is a CVT's. -/
def State.laneFlags (s : State) (c : Nat) (f : NFlags) (cvt : Bool) : State :=
  let a := R.laneFlags c
  let put (t : State) (b : Bool) (x : Fld) : State := if b then t.setFld a x 1 else t
  let s1 := put s f.invalid F.laneFlags_invalid
  let s2 := put s1 f.overflow (if cvt then F.laneFlags_cvtOvf else F.laneFlags_overflow)
  let s3 := put s2 f.underflow F.laneFlags_underflow
  put s3 f.inexact F.laneFlags_inexact

end Sys2Proof.Machine
end

