-- ==== Sys2Proof/Machine/Idle.lean ====
section
/-!
DEFINITION. How units stand in the idle states (R137, R143, R144) and their residency counts (R153).
-/

namespace Sys2Proof.Machine

/-- Whether a compute die is in I4. -/
def State.inI4 (s : State) (cd : Nat) : Bool := decide (s.fld (R.idleDie cd) F.idleDie_dieState = 4)

/-- R143, R144: a request that reaches a die in I4 waits for its wake. -/
def State.awake (s : State) (cd : Nat) : State := if s.inI4 cd then s.wait else s

/-- Whether a cluster is in I3. -/
def State.inI3 (s : State) (cl : Nat) : Bool := (s.fld (R.idleDie (cl / 8)) F.idleDie_clI3).testBit (cl % 8)

/-- The state 0 to 2 a core has entered by itself. -/
def State.slept (s : State) (c : Nat) : Nat := Sparse.get (fun _ => 0) s.sleep c

/-- R153: the state a core counts in. -/
def State.coreIdle (s : State) (c : Nat) : Nat :=
  if s.inI4 (c / 128) then 4 else if s.inI3 (c / 16) then 3 else s.slept c

/-- Keys of the units that wake: cores 0 to 1,023, clusters from 1,024, compute dies from 1,088. -/
def clUnit (cl : Nat) : Nat := 1024 + cl

/-- The key of a die. -/
def dieUnit (cd : Nat) : Nat := 1088 + cd

/-- Whether a core is in I0, so that its groups issue. -/
def State.coreAwake (s : State) (c : Nat) : Bool := decide (s.coreIdle c = 0) && !s.waking.contains c

/-- The ticks a die has stood since its residency counts were last brought up to date. -/
def State.idleSpan (s : State) (cd : Nat) : Nat := s.tick - Sparse.get (fun _ => 0) s.idleSince cd

/-- The core-ticks of a die in state `st` up to now (R153). -/
def State.residency (s : State) (cd st : Nat) : Nat :=
  let n := ((upTo 128).filter (fun i => decide (s.coreIdle (cd * 128 + i) = st))).length
  (s.fld (R.idleRes cd st) F.idleRes_ticks + (if s.cdUp cd then n * s.idleSpan cd else 0)) % 2 ^ 64

/-- Bring the residency counts of a die up to date, before one of its units changes state. -/
def State.settleIdle (s : State) (cd : Nat) : State :=
  let t := (upTo 5).foldl (fun (t : State) st => t.setFld (R.idleRes cd st) F.idleRes_ticks (s.residency cd st)) s
  { t with idleSince := Sparse.set (fun _ => 0) t.idleSince cd s.tick }

/-- A unit starts or ends a wake. -/
def State.setWaking (s : State) (u : Nat) (on : Bool) : State :=
  let rest := s.waking.filter (fun x => decide (x ≠ u))
  { s with waking := if on then rest ++ [u] else rest }

/-- A core enters a state by itself. -/
def State.setSlept (s : State) (c v : Nat) : State := { s with sleep := Sparse.set (fun _ => 0) s.sleep c v }

/-- CL_I3 of a cluster. -/
def State.setI3 (s : State) (cl : Nat) (on : Bool) : State :=
  let a := R.idleDie (cl / 8)
  let m := s.fld a F.idleDie_clI3
  s.setFld a F.idleDie_clI3 (if on = m.testBit (cl % 8) then m else if on then m + 2 ^ (cl % 8) else m - 2 ^ (cl % 8))

/-- Every unit of a die is in I0. -/
def State.idleClear (s : State) (cd : Nat) : State :=
  let s1 : State := { s with
    sleep := s.sleep.filter (fun e => decide (e.1 / 128 ≠ cd))
    waking := s.waking.filter (fun u => !((decide (u < 1024) && decide (u / 128 = cd)) || (decide (1024 ≤ u) && decide (u < 1088) && decide ((u - 1024) / 8 = cd)) || decide (u = 1088 + cd))) }
  (s1.setFld (R.idleDie cd) F.idleDie_dieState 0).setFld (R.idleDie cd) F.idleDie_clI3 0

end Sys2Proof.Machine
end

