-- ==== Sys2Proof/Machine/Operands.lean ====
section
/-!
DEFINITION. The operand forms of the accelerator cores' instructions (R156, R159 to R163, R168, R746): lane and
uniform registers, predicates, immediates, executing lanes, and what it takes to issue an instruction.
-/

namespace Sys2Proof.Machine

/-! ## Registers of a group -/

/-- Lane register `r` of group lane `i`. -/
def Group.lane (x : Group) (i r : Nat) : BitVec 32 := Sparse.get (fun _ => 0) x.lregs (i * 256 + r)

/-- Write a lane register. -/
def Group.setLane (x : Group) (i r : Nat) (v : Nat) : Group :=
  { x with lregs := Sparse.set (fun _ => 0) x.lregs (i * 256 + r) (BitVec.ofNat 32 v) }

/-- R156: a 32-bit register, or a register pair with its low half in the even register. -/
def Group.laneVal (x : Group) (i r : Nat) (wide : Bool) : Nat :=
  if wide then (x.lane i r).toNat + (x.lane i (r + 1)).toNat * 2 ^ 32 else (x.lane i r).toNat

/-- Write a 32-bit register or a register pair. -/
def Group.setLaneVal (x : Group) (i r : Nat) (wide : Bool) (v : Nat) : Group :=
  if wide then (x.setLane i r v).setLane i (r + 1) (v / 2 ^ 32) else x.setLane i r v

/-- Uniform register `n`. -/
def Group.uni (x : Group) (n : Nat) : Word := Sparse.get (fun _ => 0) x.uregs n

/-- Write a uniform register. -/
def Group.setUni (x : Group) (n : Nat) (v : Word) : Group :=
  { x with uregs := Sparse.set (fun _ => 0) x.uregs n v }

/-- R161: a predicate register as a mask of lanes; Q0 is true in every lane. -/
def Group.pred (x : Group) (q : Nat) : BitVec 64 :=
  if q = 0 then BitVec.allOnes 64 else Sparse.get (fun _ => 0) x.preds q

/-- R161: write the lanes of `m` of a predicate register; writes to Q0 are ignored. -/
def Group.setPred (x : Group) (q : Nat) (m v : BitVec 64) : Group :=
  if q = 0 then x
  else { x with preds := Sparse.set (fun _ => 0) x.preds q ((x.pred q &&& ~~~ m) ||| (v &&& m)) }

/-- R161: a lane register below r; a pair or quad starts at a multiple of its size (R156). -/
def Group.lOk (x : Group) (r : Nat) (size : Nat := 1) : Bool :=
  decide (r + size ≤ x.regs) && decide (r % size = 0)

/-- R161: a uniform register below u. -/
def Group.uOk (x : Group) (n : Nat) : Bool := decide (n < x.unif) && decide (n < 64)

/-- The registers of an operand: 2 for a 64-bit one. -/
def regSize (wide : Bool) : Nat := if wide then 2 else 1

/-! ## Fields -/

/-- MOD bit 7. -/
def Fields.pneg (f : Fields) : Bool := decide (f.mod.toNat / 128 % 2 = 1)
/-- MOD bit 6. -/
def Fields.imm (f : Fields) : Bool := decide (f.mod.toNat / 64 % 2 = 1)
/-- MOD[5:3]. -/
def Fields.typ (f : Fields) : Nat := f.mod.toNat / 8 % 8
/-- MOD[2:0]. -/
def Fields.low (f : Fields) : Nat := f.mod.toNat % 8
/-- The sign-extended 16-bit immediate. -/
def Fields.imm16 (f : Fields) : Int := f.c.toInt
/-- R159: with no immediate, SRCC[27:20] must be 0. -/
def Fields.cOk (f : Fields) : Bool := f.imm || decide (f.c.toNat < 256)
/-- R162: with an immediate in place of B, the SRCB field must be 0. -/
def Fields.bOk (f : Fields) : Bool := !f.imm || decide (f.b = 0)

/-- R162: the types of MOD[5:3]. -/
inductive Ty where
  | i32 | u32 | i64 | u64 | f32 | f64
  deriving DecidableEq, Repr

/-- The type of a code; 6 and 7 are reserved. -/
def Ty.ofCode : Nat → Option Ty
  | 0 => some .i32 | 1 => some .u32 | 2 => some .i64 | 3 => some .u64 | 4 => some .f32 | 5 => some .f64
  | _ => none

/-- Whether a type is 64 bits wide. -/
def Ty.wide : Ty → Bool
  | .i64 => true | .u64 => true | .f64 => true
  | _ => false

/-- Whether a type is a float type. -/
def Ty.isFloat : Ty → Bool
  | .f32 => true | .f64 => true
  | _ => false

/-- Whether a type is a signed integer type. -/
def Ty.signed : Ty → Bool
  | .i32 => true | .i64 => true
  | _ => false

/-- Width in bits. -/
def Ty.width (t : Ty) : Nat := if t.wide then 64 else 32

/-- The format of a float type. -/
def Ty.fmt (t : Ty) : Fmt := if t.wide then .f64 else .f32

/-- R162: the immediate as a value of a type: sign-extended, or converted exactly to F32 or F64. -/
def Ty.immOf (t : Ty) (i : Int) : Nat :=
  if t.isFloat then (t.fmt.round 0 true 0 true (Val.ofInt i)).1
  else (i % (2 ^ t.width : Nat)).toNat

/-- R161, R156: the lane-register operand of a type is not reserved. -/
def Group.tyOk (x : Group) (t : Ty) (r : Nat) : Bool := x.lOk r (regSize t.wide)

/-! ## Executing lanes -/

/-- The lane numbers below a width that a mask holds. -/
def laneList (w : Nat) (m : BitVec 64) : List Nat := (upTo w).filter (fun i => m.getLsbD i)

/-- R168: the lanes that execute: active, with Q[PRED] XOR PNEG at 1. -/
def Group.execMask (x : Group) (f : Fields) : BitVec 64 :=
  let q := x.pred f.pred.toNat
  x.active &&& (if f.pneg then ~~~ q else q)

/-- The executing lanes in order. -/
def Group.execLanes (x : Group) (f : Fields) : List Nat := laneList x.width (x.execMask f)

/-- R746: whether an instruction that acts once for the group acts. -/
def Group.acts (x : Group) (f : Fields) : Bool := decide (x.execMask f ≠ 0)

/-- The address after an instruction. -/
def Group.nextPc (x : Group) : BitVec 48 := x.pc + 8

/-- Move past the instruction. -/
def Group.advance (x : Group) : Group := { x with pc := x.nextPc }

/-! ## Issue -/

/-- The idle state of a core's unit and everything else that keeps it from issuing is in `ready`. A group issues
when it is resident, not halted, does not wait, its core and die run, and it is not at a quiesce point of a cluster
that parks (R165, R206, R207, R584). -/
def State.ready (s : State) (g : GroupRef) : Bool :=
  let x := s.grp g
  x.resident && decide (x.halt = none) && decide (x.wait = .none)
    && decide ((s.core g.core.val).halted = 0) && s.up (coreSite g.core.val)
    && s.coreAwake g.core.val && !(s.parking g.core.val && s.quiesceAt g.core.val x)

/-- R213, R309: beats pass between issues of a core: how many, and how many of them stalled, is timing, so both
counts rise by free values (log entry 4). -/
def State.beats (s : State) (c : Nat) : State :=
  let b := s.free
  let s1 := s.draw
  let st := s1.free
  ((s1.draw.count (R.nsBeats c) F.nsBeats_beats b).count (R.cntStall c) F.cntStall_stallBeats st)

/-- Issue an instruction of group `g`: nothing happens unless the group is ready, or when the instruction has to wait
for a memory request that waits. An instruction that neither
halts its group nor has to be issued again counts in CNT_ISSUE (R213, log entry 5). -/
def State.issue (s : State) (g : GroupRef) (body : Group → State → State) : State :=
  if s.ready g then
    let s1 := s.beats g.core.val
    let s2 := body (s1.grp g) s1
    let y := s2.grp g
    let s3 := s2.answer .ok
    if s2.hold then s.answer .held
    else if decide (y.halt ≠ none) || decide (y.wait = .fault) then s3
    else s3.count (R.cntIssue g.core.val) F.cntIssue_issued 1
  else s.answer .refused

/-- An ILLEGAL instruction is not executed (R163); another goes on. -/
def State.legal (s : State) (g : GroupRef) (ok : Bool) (go : State → State) : State :=
  if ok then go s else s.haltGroup g .illegal

/-- Write a 32-bit result to a uniform register; the spec does not say what the upper half takes, so it is a
free value (log entry 6). -/
def State.setUni32 (s : State) (g : GroupRef) (n v : Nat) : State :=
  (s.setGrp g ((s.grp g).setUni n (Word.of (v % 2 ^ 32 + (s.free % 2 ^ 32) * 2 ^ 32)))).draw

/-- Write a result of a type to a uniform register. -/
def State.setUniTy (s : State) (g : GroupRef) (t : Ty) (n v : Nat) : State :=
  if t.wide then s.setGrp g ((s.grp g).setUni n (Word.of v)) else s.setUni32 g n v

/-- Advance the group's PC. -/
def State.adv (s : State) (g : GroupRef) : State := s.setGrp g (s.grp g).advance

end Sys2Proof.Machine
end

