-- ==== Sys2Proof/Machine/LaneAlu.lean ====
section
/-!
DEFINITION. The scalar and group classes: integer and logic operations on lane and uniform registers (R164,
R745), float lane arithmetic (R283, R284), CVT (R278 to R282), predicates, lane exchange, polls and broadcasts.
-/

namespace Sys2Proof.Machine

/-! ## Integer operations -/

/-- Opcodes 0x00 to 0x0F of the scalar and group classes. -/
inductive IntOp where
  | mov | add | sub | mul | mulh | min | max | abs | and | or | xor | not | shl | shr | sar | popc
  deriving DecidableEq, Repr

/-- Whether an operation has one source. -/
def IntOp.unary : IntOp → Bool
  | .mov => true | .abs => true | .not => true | .popc => true
  | _ => false

/-- The number of ones of a number below 2^w. -/
def popCount (w x : Nat) : Nat := ((upTo w).filter (fun i => x.testBit i)).length

/-- R164, R745: the result of an operation on two values of a type; unary operations take the first. -/
def IntOp.eval (o : IntOp) (t : Ty) (x y : Nat) : Nat :=
  let w := t.width
  let sx : Int := if t.signed then signedOf w x else x
  let sy : Int := if t.signed then signedOf w y else y
  let sh := y % w
  let wrap (i : Int) : Nat := (i % (2 ^ w : Nat)).toNat
  match o with
  | .mov => x
  | .add => (x + y) % 2 ^ w
  | .sub => wrap (sx - sy)
  | .mul => (x * y) % 2 ^ w
  | .mulh => wrap ((sx * sy) / (2 ^ w : Nat))
  | .min => wrap (Min.min sx sy)
  | .max => wrap (Max.max sx sy)
  | .abs => wrap sx.natAbs
  | .and => x &&& y
  | .or => x ||| y
  | .xor => x ^^^ y
  | .not => 2 ^ w - 1 - x % 2 ^ w
  | .shl => (x <<< sh) % 2 ^ w
  | .shr => x >>> sh
  | .sar => wrap (signedOf w x / (2 ^ sh : Nat))
  | .popc => popCount w x

/-- R745: the types an integer operation takes in the group class: a float TYPE only for MOV. -/
def IntOp.tyOk (o : IntOp) (t : Ty) : Bool := !t.isFloat || decide (o = .mov)

/-- The group-class operation, over the executing lanes. -/
def laneInt (o : IntOp) (g : GroupRef) (f : Fields) (s : State) : State :=
  s.issue g fun x s =>
    match Ty.ofCode f.typ with
    | none => s.haltGroup g .illegal
    | some t =>
      let rA := o.unary && f.imm
      let ok := o.tyOk t && decide (f.low = 0) && f.cOk && x.tyOk t f.dst.toNat
        && (rA || x.tyOk t f.a.toNat) && (o.unary || (f.bOk && (f.imm || x.tyOk t f.b.toNat)))
      s.legal g ok fun s =>
        let i := t.immOf f.imm16
        let y := (x.execLanes f).foldl (fun (y : Group) l =>
          let a := if rA then i else x.laneVal l f.a.toNat t.wide
          let b := if f.imm then i else x.laneVal l f.b.toNat t.wide
          y.setLaneVal l f.dst.toNat t.wide (o.eval t a b)) x
        s.setGrp g y.advance

/-- The scalar-class operation, once for the group, on uniform registers (R164, R746). -/
def scalarInt (o : IntOp) (g : GroupRef) (f : Fields) (s : State) : State :=
  s.issue g fun x s =>
    match Ty.ofCode f.typ with
    | none => s.haltGroup g .illegal
    | some t =>
      let rA := o.unary && f.imm
      let ok := !t.isFloat && decide (f.low = 0) && f.cOk && x.uOk f.dst.toNat
        && (rA || x.uOk f.a.toNat) && (o.unary || (f.bOk && (f.imm || x.uOk f.b.toNat)))
      s.legal g ok fun s =>
        if x.acts f then
          let i := t.immOf f.imm16
          let a := if rA then i else (x.uni f.a.toNat).toNat % 2 ^ t.width
          let b := if f.imm then i else (x.uni f.b.toNat).toNat % 2 ^ t.width
          (s.setUniTy g t f.dst.toNat (o.eval t a b)).adv g
        else s.adv g

/-- An integer operation of either class. -/
def intOp (o : IntOp) (g : GroupRef) (scalar : Bool) (f : Fields) (s : State) : State :=
  if scalar then scalarInt o g f s else laneInt o g f s

/-! ## Float lane arithmetic -/

/-- Opcodes 0x10 to 0x15 of the group class. -/
inductive FpOp where
  | fadd | fsub | fmul | ffma | fmin | fmax
  deriving DecidableEq, Repr

/-- The opcode number. -/
def FpOp.num : FpOp → Nat
  | .fadd => 0x10 | .fsub => 0x11 | .fmul => 0x12 | .ffma => 0x13 | .fmin => 0x14 | .fmax => 0x15

/-- R283: the exact result of an operation, and the cause of a created NaN. -/
def FpOp.eval (o : FpOp) (mode : Nat) (a b c : Val) : Val × Option Nat :=
  match o with
  | .fadd => Val.add mode a b
  | .fsub => Val.add mode a b.neg
  | .fmul => Val.mul a b
  | .ffma => Val.fma mode a b c
  | .fmin => (Val.minNum a b, none)
  | .fmax => (Val.maxNum a b, none)

/-- One rounded result with its flags; a created NaN of cause 0 or 1 sets INVALID. -/
def fpResult (fmt : Fmt) (mode : Nat) (r : Val × Option Nat) : Nat × NFlags :=
  let (v, fl) := fmt.round mode true 0 false r.1
  (v, { fl with invalid := fl.invalid || r.2.isSome })

/-- What the lanes of one instruction leave: the group, the flags and the first created NaN with its lane. -/
structure LaneAcc where
  grp : Group
  flags : NFlags := {}
  first : Option (Nat × Nat) := none
  draws : Nat := 0

/-- Add one lane's outcome. -/
def LaneAcc.put (a : LaneAcc) (lane dst : Nat) (wide : Bool) (v : Nat) (fl : NFlags) (cause : Option Nat) : LaneAcc where
  grp := a.grp.setLaneVal lane dst wide v
  flags := a.flags.or fl
  first := if a.first.isSome then a.first else cause.map (fun c => (lane, c))
  draws := a.draws + b2n fl.drew

/-- R284, R288: write the lanes' outcome: registers, sticky flags, draws and at most one report. -/
def State.laneDone (s : State) (g : GroupRef) (opcode : Nat) (cvt : Bool) (pc : BitVec 48) (a : LaneAcc) : State :=
  let c := g.core.val
  let beats := s.reg (R.nsBeats c)
  let s1 := ((s.setGrp g a.grp.advance).laneFlags c a.flags cvt).count (R.srCntDraws c) F.srCntDraws_draws a.draws
  match a.first with
  | none => s1
  | some (lane, cause) =>
    s1.nanReport c {
      engine := 0, coord := false, group := BitVec.ofNat 8 g.slot.val, row := BitVec.ofNat 8 lane,
      col := 0, cls := 1, opcode := BitVec.ofNat 8 opcode, cause := BitVec.ofNat 3 cause, pc := pc,
      beats := beats }

/-- FADD to FMAX (R283). -/
def laneFp (o : FpOp) (g : GroupRef) (f : Fields) (s : State) : State :=
  s.issue g fun x s =>
    match Ty.ofCode f.typ with
    | none => s.haltGroup g .illegal
    | some t =>
      let tern := decide (o = .ffma)
      let cr := f.c.toNat % 256
      let ok := t.isFloat && decide (f.low < 4) && f.cOk && x.tyOk t f.dst.toNat && x.tyOk t f.a.toNat
        && (if tern then x.tyOk t f.b.toNat && (f.imm || x.tyOk t cr)
            else f.bOk && (f.imm || x.tyOk t f.b.toNat))
      s.legal g ok fun s =>
        let i := t.immOf f.imm16
        let val (l r : Nat) (im : Bool) : Val := t.fmt.decode (if im then i else x.laneVal l r t.wide)
        let acc := (x.execLanes f).foldl (fun (acc : LaneAcc) l =>
          let r := o.eval f.low (val l f.a.toNat false) (val l f.b.toNat (f.imm && !tern)) (val l cr f.imm)
          let (v, fl) := fpResult t.fmt f.low r
          acc.put l f.dst.toNat t.wide v fl r.2) { grp := x }
        s.laneDone g o.num false x.pc acc

/-! ## Conversion -/

/-- R278: the fields of a conversion word. -/
structure CvtWord where
  fin : Fmt
  fout : Fmt
  scaleReg : Bool
  dequant : Bool
  deriving DecidableEq, Repr

/-- R278, R279: read a conversion word; reserved codes and bits give none. -/
def CvtWord.of (c : BitVec 16) : Option CvtWord :=
  let n := c.toNat
  if 1024 ≤ n then none
  else match Fmt.ofCode (n % 16), Fmt.ofCode (n / 16 % 16) with
    | some i, some o => some ⟨i, o, decide (n / 256 % 2 = 1), decide (n / 512 % 2 = 1)⟩
    | _, _ => none

/-- R281: a value under the scale code e. -/
def scaleBy (v : Val) (e : Nat) (dequant : Bool) : Val :=
  if e = 255 then .nan else v.scale (if dequant then (e : Int) - 127 else 127 - (e : Int))

/-- R278 to R282: the conversion of one lane: its code and flags. -/
def cvtLane (f : Fields) (w : CvtWord) (seed : Word) (x : Group) (l : Nat) : Nat × NFlags :=
  let kb := (x.lane l f.b.toNat).toNat
  let v := w.fin.decode (x.laneVal l f.a.toNat (decide (w.fin.width = 64)))
  let badScale := w.scaleReg && decide (kb % 256 = 255)
  let sv := if w.scaleReg then scaleBy v (kb % 256) w.dequant else v
  let d := srDraw seed (srKey 3 (kb / 256)) 0
  let r := w.fout.round f.low (decide (f.typ = 1)) d w.fin.isInt sv
  (r.1, { r.2 with invalid := r.2.invalid || badScale })

/-- CVT (R278 to R282). -/
def laneCvt (g : GroupRef) (f : Fields) (s : State) : State :=
  s.issue g fun x s =>
    match CvtWord.of f.c with
    | none => s.haltGroup g .illegal
    | some w =>
      let wi := decide (w.fin.width = 64)
      let wo := decide (w.fout.width = 64)
      let useB := w.scaleReg || decide (f.low = 4)
      let ok := f.imm && decide (f.typ < 2) && decide (f.low ≤ 4)
        && x.lOk f.a.toNat (regSize wi) && x.lOk f.dst.toNat (regSize wo)
        && (if useB then x.lOk f.b.toNat else decide (f.b = 0))
      s.legal g ok fun s =>
        let seed := s.reg (R.srSeed g.core.val)
        let acc := (x.execLanes f).foldl (fun (acc : LaneAcc) l =>
          let (r, fl) := cvtLane f w seed x l
          acc.put l f.dst.toNat wo r fl (if fl.nan2 then some 2 else none)) { grp := x }
        let sums := if f.low < 4 then (x.execLanes f).map (fun l => (l, (cvtLane f w seed x l).1)) else []
        (s.laneDone g 0x18 true x.pc acc).certify g x.pc sums

/-! ## Predicates -/

/-- A mask of the lanes of a list. -/
def maskOf (ls : List Nat) : BitVec 64 := ls.foldl (fun m i => m ||| BitVec.twoPow 64 i) 0

/-- QCMP (R164): compare per lane into a predicate. -/
def laneQcmp (g : GroupRef) (f : Fields) (s : State) : State :=
  s.issue g fun x s =>
    match Ty.ofCode f.typ with
    | none => s.haltGroup g .illegal
    | some t =>
      let ok := decide (f.low < 7) && decide (f.dst.toNat < 16) && f.cOk && f.bOk && x.tyOk t f.a.toNat
        && (f.imm || x.tyOk t f.b.toNat)
      s.legal g ok fun s =>
        let i := t.immOf f.imm16
        let val (v : Nat) : Val :=
          if t.isFloat then t.fmt.decode v else Val.ofInt (if t.signed then signedOf t.width v else v)
        let hits := (x.execLanes f).filter (fun l =>
          Val.cmp f.low (val (x.laneVal l f.a.toNat t.wide))
            (val (if f.imm then i else x.laneVal l f.b.toNat t.wide)))
        s.setGrp g (x.setPred f.dst.toNat (x.execMask f) (maskOf hits)).advance

/-- PICK (R164): select per lane by predicate Q[SRCC]; SRCC names a predicate, so an immediate and a number
above 15 are reserved (log entry 7). -/
def lanePick (g : GroupRef) (f : Fields) (s : State) : State :=
  s.issue g fun x s =>
    match Ty.ofCode f.typ with
    | none => s.haltGroup g .illegal
    | some t =>
      let ok := decide (f.low = 0) && !f.imm && decide (f.c.toNat < 16) && x.tyOk t f.dst.toNat
        && x.tyOk t f.a.toNat && x.tyOk t f.b.toNat
      s.legal g ok fun s =>
        let q := x.pred f.c.toNat
        let y := (x.execLanes f).foldl (fun (y : Group) l =>
          y.setLaneVal l f.dst.toNat t.wide
            (x.laneVal l (if q.getLsbD l then f.a.toNat else f.b.toNat) t.wide)) x
        s.setGrp g y.advance

/-- QLOG (R164): logic on predicates, in the executing lanes. -/
def laneQlog (g : GroupRef) (f : Fields) (s : State) : State :=
  s.issue g fun x s =>
    let ok := decide (f.typ < 6) && decide (f.low < 4) && !f.imm && f.cOk && decide (f.dst.toNat < 16)
      && decide (f.a.toNat < 16) && decide (f.b.toNat < 16)
    s.legal g ok fun s =>
      let a := x.pred f.a.toNat
      let b := x.pred f.b.toNat
      let r := match f.low with
        | 0 => a &&& b
        | 1 => a ||| b
        | 2 => a ^^^ b
        | _ => a &&& ~~~ b
      s.setGrp g (x.setPred f.dst.toNat (x.execMask f) r).advance

/-- LXCH (R164): every lane's value is read before any lane writes. -/
def laneLxch (g : GroupRef) (f : Fields) (s : State) : State :=
  s.issue g fun x s =>
    match Ty.ofCode f.typ with
    | none => s.haltGroup g .illegal
    | some t =>
      let ok := decide (f.low = 0) && f.cOk && f.bOk && x.tyOk t f.dst.toNat && x.tyOk t f.a.toNat
        && (f.imm || x.lOk f.b.toNat)
      s.legal g ok fun s =>
        let y := (x.execLanes f).foldl (fun (y : Group) l =>
          let k := if f.imm then (f.imm16 % (x.width : Int)).toNat else (x.lane l f.b.toNat).toNat % x.width
          y.setLaneVal l f.dst.toNat t.wide (x.laneVal k f.a.toNat t.wide)) x
        s.setGrp g y.advance

/-- QPOLL (R164, R746): summarize Q[SRCA] over the executing lanes; it always writes U[DST]. -/
def laneQpoll (g : GroupRef) (f : Fields) (s : State) : State :=
  s.issue g fun x s =>
    let ok := decide (f.typ < 6) && decide (f.low < 3) && !f.imm && f.cOk && decide (f.a.toNat < 16)
      && x.uOk f.dst.toNat
    s.legal g ok fun s =>
      let e := x.execMask f
      let q := x.pred f.a.toNat &&& e
      let v : Word := match f.low with
        | 0 => if q ≠ 0 then 1 else 0
        | 1 => if q = e then 1 else 0
        | _ => q
      s.setGrp g (x.setUni f.dst.toNat v).advance

/-- LANEID (R164). -/
def laneLaneid (g : GroupRef) (f : Fields) (s : State) : State :=
  s.issue g fun x s =>
    match Ty.ofCode f.typ with
    | none => s.haltGroup g .illegal
    | some t =>
      let ok := decide (f.low = 0) && !f.imm && f.cOk && x.tyOk t f.dst.toNat
      s.legal g ok fun s =>
        s.setGrp g ((x.execLanes f).foldl (fun (y : Group) l => y.setLaneVal l f.dst.toNat t.wide l) x).advance

/-- U2L (R164): broadcast U[SRCA], or the immediate in its place, to the executing lanes. -/
def laneU2l (g : GroupRef) (f : Fields) (s : State) : State :=
  s.issue g fun x s =>
    match Ty.ofCode f.typ with
    | none => s.haltGroup g .illegal
    | some t =>
      let ok := decide (f.low = 0) && f.cOk && x.tyOk t f.dst.toNat && (f.imm || x.uOk f.a.toNat)
      s.legal g ok fun s =>
        let v := if f.imm then t.immOf f.imm16 else (x.uni f.a.toNat).toNat % 2 ^ t.width
        s.setGrp g ((x.execLanes f).foldl (fun (y : Group) l => y.setLaneVal l f.dst.toNat t.wide v) x).advance

/-- L2U (R164, R746): copy lane imm of L[SRCA] to U[DST], when any lane executes. The immediate must be given and
name a lane of the group (log entry 7). -/
def laneL2u (g : GroupRef) (f : Fields) (s : State) : State :=
  s.issue g fun x s =>
    match Ty.ofCode f.typ with
    | none => s.haltGroup g .illegal
    | some t =>
      let ok := decide (f.low = 0) && f.imm && decide (f.c.toNat < x.width) && x.tyOk t f.a.toNat
        && x.uOk f.dst.toNat
      s.legal g ok fun s =>
        if x.acts f then (s.setUniTy g t f.dst.toNat (x.laneVal f.c.toNat f.a.toNat t.wide)).adv g
        else s.adv g

/-- RDTB (R114, R164): the timebase value. -/
def scalarRdtb (g : GroupRef) (f : Fields) (s : State) : State :=
  s.issue g fun x s =>
    let ok := decide (f.typ < 6) && decide (f.low = 0) && !f.imm && f.cOk && x.uOk f.dst.toNat
    s.legal g ok fun s =>
      if x.acts f then s.setGrp g (x.setUni f.dst.toNat (Word.of s.tick)).advance else s.adv g

/-- RDID (R164): the group's slot, block and width; their packing is not given (`Config.rdid`). -/
def scalarRdid (g : GroupRef) (f : Fields) (s : State) : State :=
  s.issue g fun x s =>
    let ok := decide (f.typ < 6) && decide (f.low = 0) && !f.imm && f.cOk && x.uOk f.dst.toNat
    s.legal g ok fun s =>
      if x.acts f then
        s.setGrp g (x.setUni f.dst.toNat (Config.rdid g.slot.val x.index x.blockNo x.width)).advance
      else s.adv g

/-! ## Meanings -/

/-- MOV (R164, R745). -/
def execMov (g : GroupRef) (scalar : Bool) (f : Fields) (s : State) : Out := s.run fun s => intOp .mov g scalar f s
/-- ADD (R164, R745). -/
def execAdd (g : GroupRef) (scalar : Bool) (f : Fields) (s : State) : Out := s.run fun s => intOp .add g scalar f s
/-- SUB (R164, R745). -/
def execSub (g : GroupRef) (scalar : Bool) (f : Fields) (s : State) : Out := s.run fun s => intOp .sub g scalar f s
/-- MUL (R164, R745). -/
def execMul (g : GroupRef) (scalar : Bool) (f : Fields) (s : State) : Out := s.run fun s => intOp .mul g scalar f s
/-- MULH (R164, R745). -/
def execMulh (g : GroupRef) (scalar : Bool) (f : Fields) (s : State) : Out := s.run fun s => intOp .mulh g scalar f s
/-- MIN (R164, R745). -/
def execMin (g : GroupRef) (scalar : Bool) (f : Fields) (s : State) : Out := s.run fun s => intOp .min g scalar f s
/-- MAX (R164, R745). -/
def execMax (g : GroupRef) (scalar : Bool) (f : Fields) (s : State) : Out := s.run fun s => intOp .max g scalar f s
/-- ABS (R164, R745). -/
def execAbs (g : GroupRef) (scalar : Bool) (f : Fields) (s : State) : Out := s.run fun s => intOp .abs g scalar f s
/-- AND (R164, R745). -/
def execAnd (g : GroupRef) (scalar : Bool) (f : Fields) (s : State) : Out := s.run fun s => intOp .and g scalar f s
/-- OR (R164, R745). -/
def execOr (g : GroupRef) (scalar : Bool) (f : Fields) (s : State) : Out := s.run fun s => intOp .or g scalar f s
/-- XOR (R164, R745). -/
def execXor (g : GroupRef) (scalar : Bool) (f : Fields) (s : State) : Out := s.run fun s => intOp .xor g scalar f s
/-- NOT (R164, R745). -/
def execNot (g : GroupRef) (scalar : Bool) (f : Fields) (s : State) : Out := s.run fun s => intOp .not g scalar f s
/-- SHL (R164, R745). -/
def execShl (g : GroupRef) (scalar : Bool) (f : Fields) (s : State) : Out := s.run fun s => intOp .shl g scalar f s
/-- SHR (R164, R745). -/
def execShr (g : GroupRef) (scalar : Bool) (f : Fields) (s : State) : Out := s.run fun s => intOp .shr g scalar f s
/-- SAR (R164, R745). -/
def execSar (g : GroupRef) (scalar : Bool) (f : Fields) (s : State) : Out := s.run fun s => intOp .sar g scalar f s
/-- POPC (R164, R745). -/
def execPopc (g : GroupRef) (scalar : Bool) (f : Fields) (s : State) : Out := s.run fun s => intOp .popc g scalar f s
/-- FADD (R283). -/
def execFadd (g : GroupRef) (f : Fields) (s : State) : Out := s.run fun s => laneFp .fadd g f s
/-- FSUB (R283). -/
def execFsub (g : GroupRef) (f : Fields) (s : State) : Out := s.run fun s => laneFp .fsub g f s
/-- FMUL (R283). -/
def execFmul (g : GroupRef) (f : Fields) (s : State) : Out := s.run fun s => laneFp .fmul g f s
/-- FFMA (R283). -/
def execFfma (g : GroupRef) (f : Fields) (s : State) : Out := s.run fun s => laneFp .ffma g f s
/-- FMIN (R283). -/
def execFmin (g : GroupRef) (f : Fields) (s : State) : Out := s.run fun s => laneFp .fmin g f s
/-- FMAX (R283). -/
def execFmax (g : GroupRef) (f : Fields) (s : State) : Out := s.run fun s => laneFp .fmax g f s
/-- CVT (R278). -/
def execCvt (g : GroupRef) (f : Fields) (s : State) : Out := s.run fun s => laneCvt g f s
/-- QCMP (R164). -/
def execQcmp (g : GroupRef) (f : Fields) (s : State) : Out := s.run fun s => laneQcmp g f s
/-- PICK (R164). -/
def execPick (g : GroupRef) (f : Fields) (s : State) : Out := s.run fun s => lanePick g f s
/-- QLOG (R164). -/
def execQlog (g : GroupRef) (f : Fields) (s : State) : Out := s.run fun s => laneQlog g f s
/-- LXCH (R164). -/
def execLxch (g : GroupRef) (f : Fields) (s : State) : Out := s.run fun s => laneLxch g f s
/-- QPOLL (R746). -/
def execQpoll (g : GroupRef) (f : Fields) (s : State) : Out := s.run fun s => laneQpoll g f s
/-- LANEID (R164). -/
def execLaneid (g : GroupRef) (f : Fields) (s : State) : Out := s.run fun s => laneLaneid g f s
/-- U2L (R164). -/
def execU2l (g : GroupRef) (f : Fields) (s : State) : Out := s.run fun s => laneU2l g f s
/-- L2U (R746). -/
def execL2u (g : GroupRef) (f : Fields) (s : State) : Out := s.run fun s => laneL2u g f s
/-- RDTB (R114). -/
def execRdtb (g : GroupRef) (f : Fields) (s : State) : Out := s.run fun s => scalarRdtb g f s
/-- RDID (R164). -/
def execRdid (g : GroupRef) (f : Fields) (s : State) : Out := s.run fun s => scalarRdid g f s

end Sys2Proof.Machine
end

