-- ==== Sys2Proof/Machine/CoreMem.lean ====
section
/-!
DEFINITION. The operand cache and the accumulator memory of a core as bytes (R218, R222), their error state
(R257), the collective rule (R174, R175), and long-sum records (R248 to R252).
-/

namespace Sys2Proof.Machine

/-! ## Bytes -/

/-- `n` bytes at offset `a` of a sparse byte array as a little-endian number. -/
def bytesLE (m : Sparse Byte) (a : Nat) : Nat → Nat
  | 0 => 0
  | n + 1 => (Sparse.get (fun _ => 0) m a).toNat + 256 * bytesLE m (a + 1) n

/-- Write a number as `n` little-endian bytes at offset `a`. -/
def putLE (m : Sparse Byte) (a : Nat) : Nat → Nat → Sparse Byte
  | 0, _ => m
  | n + 1, v => putLE (Sparse.set (fun _ => 0) m a (BitVec.ofNat 8 v)) (a + 1) n (v / 256)

/-- The size of the operand cache (R218). -/
def opcSize : Nat := 0x6_0000
/-- The size of the accumulator memory (R218). -/
def accSize : Nat := 0x4_0000

/-- A range of bytes: its start and length. -/
abbrev Rng := Nat × Nat

/-- Whether any bad 64-bit word of a list lies in one of the ranges. -/
def badIn (bad : List Nat) (rs : List Rng) : Option Nat :=
  bad.find? (fun w => rs.any (fun r => decide (w * 8 < r.1 + r.2) && decide (r.1 < w * 8 + 8)))

/-- Words that a write of whole words repairs: those wholly inside a range leave the list. -/
def repaired (bad : List Nat) (r : Rng) : List Nat :=
  bad.filter (fun w => !(decide (r.1 ≤ w * 8) && decide (w * 8 + 8 ≤ r.1 + r.2)))

/-- Write a range of the operand cache; the range is kept for the route links of R567. -/
def CoreSt.putOpc (k : CoreSt) (a n v : Nat) : CoreSt :=
  { k with opc := putLE k.opc a n v, opcBad := repaired k.opcBad (a, n), wrote := (a, n) :: k.wrote }

/-- Write a range of the accumulator memory. -/
def CoreSt.putAcc (k : CoreSt) (a n v : Nat) : CoreSt :=
  { k with acc := putLE k.acc a n v, accBad := repaired k.accBad (a, n) }

/-- R257: run an engine instruction that reads the given ranges; an uncorrectable error in a word of one of
them writes a record, halts the group with POISON, and nothing is written. -/
def State.eccGuard (s : State) (g : GroupRef) (opc acc : List Rng) (go : State → State) : State :=
  let k := s.core g.core.val
  let rec_ (which off : Nat) : Detection :=
    { det 1 5 (coreSite g.core.val) (coreUnit g.core.val) 2 with arg0 := Word.of which, arg1 := Word.of off }
  match badIn k.opcBad opc, badIn k.accBad acc with
  | some w, _ => (s.rasWrite (rec_ 0 (w * 8))).haltGroup g .poison
  | none, some w => (s.rasWrite (rec_ 1 (w * 8))).haltGroup g .poison
  | none, none => go s

/-- R567: one valid link copies the written bytes of its source window on to the consumer. -/
def State.deliverLink (s : State) (c : Nat) (wrote : List Rng) (w : Word) : State :=
  let src := F.route_srcOff.get w * 256
  let dst := F.route_dstOff.get w * 256
  let len := (F.route_lenM1.get w + 1) * 256
  let d := coreCl c * 16 + F.route_dstCore.get w
  let from_ := s.core c
  let k := wrote.foldl (fun (k : CoreSt) r =>
    let lo := max r.1 src
    let hi := min (r.1 + r.2) (src + len)
    if lo < hi then k.putOpc (dst + (lo - src)) (hi - lo) (bytesLE from_.opc lo (hi - lo)) else k) (s.core d)
  s.setCore d { k with wrote := [] }

/-- R567: the links of a cluster deliver what a core's engines have written into its source windows. -/
def State.deliver (s : State) (c : Nat) : State :=
  let wrote := (s.core c).wrote
  if wrote.isEmpty then s
  else
    let s1 := s.setCore c { s.core c with wrote := [] }
    (upTo 128).foldl (fun (t : State) j =>
      let w := t.reg (R.route (coreCl c) j)
      if F.route_valid.get w = 1 ∧ F.route_srcCore.get w = c % 16 then t.deliverLink c wrote w else t) s1

/-! ## Collective instructions -/

/-- R174, R175: a collective instruction executes when the active mask is the full mask and the predicate is the
same in every active lane; it is skipped when that value is 0. -/
def State.collective (s : State) (g : GroupRef) (f : Fields) (go : State → State) : State :=
  let x := s.grp g
  let e := x.execMask f
  if x.active ≠ x.full ∨ (e ≠ 0 ∧ e ≠ x.active) then s.haltGroup g .divCollective
  else if e = 0 then s.adv g
  else go s

/-! ## Long-sum records -/

/-- A long-sum record (R248). VALUE is the two's complement number as an integer in units of 2^−2148. -/
structure LongSum where
  nan : Bool := false
  pinf : Bool := false
  ninf : Bool := false
  nonzero : Bool := false
  negzero : Bool := true
  terms : Nat := 0
  value : Int := 0
  deriving DecidableEq, Repr

/-- The bytes of a record. -/
def recSize : Nat := 576

/-- Bits of VALUE. -/
def valBits : Nat := 4544

/-- R248: the image of a record as a number of 576 bytes. -/
def LongSum.image (r : LongSum) : Nat :=
  b2n r.nan + 2 * b2n r.pinf + 4 * b2n r.ninf + 8 * b2n r.nonzero + 16 * b2n r.negzero + 256
    + r.terms * 2 ^ 32 + (r.value % (2 ^ valBits : Nat)).toNat * 2 ^ 64

/-- Read a record image. -/
def LongSum.ofImage (n : Nat) : LongSum where
  nan := n.testBit 0
  pinf := n.testBit 1
  ninf := n.testBit 2
  nonzero := n.testBit 3
  negzero := n.testBit 4
  terms := bits n 32 32
  value := signedOf valBits (n / 2 ^ 64)

/-- R251: whether an image is not a record of VERSION 1 with reserved bits 0. -/
def badImage (n : Nat) : Bool :=
  decide (bits n 8 8 ≠ 1) || decide (bits n 5 3 ≠ 0) || decide (bits n 16 16 ≠ 0)

/-- VALUE cut to its range, and whether it left it. -/
def wrapValue (v : Int) : Int × Bool :=
  let w := signedOf valBits ((v % (2 ^ valBits : Nat)).toNat)
  (w, decide (w ≠ v))

/-- R249: a product enters a record; `terms` is counted apart. -/
def LongSum.enter (r : LongSum) (p : Val) : LongSum :=
  match p with
  | .nan => { r with nan := true, negzero := false }
  | .inf false => { r with pinf := true, negzero := false }
  | .inf true => { r with ninf := true, negzero := false }
  | .zero true => r
  | .zero false => { r with negzero := false }
  | .fin n m e =>
    let u : Int := (m * 2 ^ (e + 2148).toNat : Nat)
    { r with value := (wrapValue (r.value + if n then -u else u)).1, nonzero := true, negzero := false }

/-- Saturating TERMS. -/
def satTerms (n : Nat) : Nat := min n (2 ^ 32 - 1)

/-- R250: merge record `b` into `a`; a sum outside the range of VALUE sets NAN (R251). The flag says so. -/
def LongSum.merge (a b : LongSum) : LongSum × Bool :=
  let (v, out) := wrapValue (a.value + b.value)
  ({ nan := a.nan || b.nan || out, pinf := a.pinf || b.pinf, ninf := a.ninf || b.ninf
     nonzero := a.nonzero || b.nonzero, negzero := a.negzero && b.negzero
     terms := satTerms (a.terms + b.terms), value := v }, out)

/-- R250, R251: merge the record of an image into `a`; the flag says BAD_RECORD. -/
def LongSum.mergeImage (a : LongSum) (img : Nat) : LongSum × Bool :=
  if badImage img then ({ a with nan := true }, true) else a.merge (LongSum.ofImage img)

/-- R252: the value a record rounds to, under a rounding mode. -/
def LongSum.toVal (r : LongSum) (mode : Nat) : Val :=
  if r.nan || (r.pinf && r.ninf) then .nan
  else if r.pinf then .inf false
  else if r.ninf then .inf true
  else if r.value ≠ 0 then .fin (decide (r.value < 0)) r.value.natAbs (-2148)
  else if r.terms = 0 then .zero false
  else if r.nonzero then .zero (decide (mode = 2))
  else .zero r.negzero

/-- R252: round a record once to a format. -/
def LongSum.round (r : LongSum) (fmt : Fmt) (mode : Nat) : Nat × NFlags := fmt.round mode true 0 false (r.toVal mode)

end Sys2Proof.Machine
end

