-- ==== Sys2Proof/Machine/Matrix.lean ====
section
/-!
DEFINITION. The matrix engine (chapter 5): operand and accumulator tiles, MMA and MMAZ in both classes,
reading out and loading accumulators, and the long-tile instructions. An instruction runs whole in its step:
the engine's queue is empty between commands (log entry 8).
-/

namespace Sys2Proof.Machine

/-! ## Formats and shapes -/

/-- A format of a matrix format word (R226): its element format and whether it is an MX format. -/
structure MxFmt where
  fmt : Fmt
  mx : Bool
  deriving DecidableEq, Repr

/-- R226: the format of a code; INT64 and 0xC to 0xF are reserved. -/
def MxFmt.ofCode : Nat → Option MxFmt
  | 0 => some ⟨.f64, false⟩
  | 1 => some ⟨.f32, false⟩
  | 2 => some ⟨.f16, false⟩
  | 3 => some ⟨.bf16, false⟩
  | 4 => some ⟨.e4m3, false⟩
  | 5 => some ⟨.e5m2, false⟩
  | 6 => some ⟨.e4m3, true⟩
  | 7 => some ⟨.e5m2, true⟩
  | 8 => some ⟨.e2m1, true⟩
  | 9 => some ⟨.i8, false⟩
  | 10 => some ⟨.i32, false⟩
  | _ => none

/-- The rank of a format's rate in R229: the lower rate has the higher rank. -/
def MxFmt.rank (f : MxFmt) : Nat :=
  match f.fmt with
  | .e2m1 => 0
  | .e4m3 => 1 | .e5m2 => 1 | .i8 => 1
  | .f16 => 2 | .bf16 => 2
  | .f32 => 3
  | _ => 4

/-- A shape with its chunk length and beats (R229). -/
structure Shape where
  m : Nat
  n : Nat
  k : Nat
  c : Nat
  beats : Nat
  deriving DecidableEq, Repr

/-- R229: the shape of a governing rank. -/
def shapeOf (rank : Nat) (cert : Bool) : Shape :=
  match rank, cert with
  | 0, _ => ⟨64, 64, 128, 32, 128⟩
  | 1, _ => ⟨64, 64, 64, 32, 128⟩
  | 2, _ => ⟨64, 64, 32, 32, 128⟩
  | 3, false => ⟨32, 32, 32, 1, 128⟩
  | 3, true => ⟨16, 16, 64, 1, 256⟩
  | _, false => ⟨32, 32, 16, 1, 128⟩
  | _, true => ⟨16, 16, 32, 1, 256⟩

/-- Accumulator types (R221). -/
inductive AccTy where
  | i32 | f32 | f64 | long
  deriving DecidableEq, Repr

/-- R224: the code of an accumulator type in TYPE. -/
def AccTy.code : AccTy → Nat
  | .i32 => 0 | .f32 => 4 | .f64 => 5 | .long => 0

/-- Rows and columns of an accumulator tile. -/
def AccTy.dim : AccTy → Nat
  | .i32 => 64 | .f32 => 64 | .f64 => 32 | .long => 16

/-- Bytes of an element. -/
def AccTy.size : AccTy → Nat
  | .i32 => 4 | .f32 => 4 | .f64 => 8 | .long => 576

/-- The storage format of an element. -/
def AccTy.fmt : AccTy → Fmt
  | .i32 => .i32 | .f64 => .f64 | _ => .f32

/-- Bytes of a tile. -/
def AccTy.bytes (t : AccTy) : Nat := t.dim * t.dim * t.size

/-- R221: whether an accumulator tile is placed as its type asks. -/
def AccTy.placed (t : AccTy) (a : Nat) : Bool :=
  match t with
  | .f64 => decide (a % 0x2000 = 0) && decide (a + t.bytes ≤ accSize)
  | .long => decide (a % 0x4000 = 0) && decide (a ≤ 0x1_C000)
  | _ => decide (a % 0x4000 = 0) && decide (a + t.bytes ≤ accSize)

/-- R230: the accumulator type of a pair. -/
def accTypeOf (a b : MxFmt) (cert : Bool) : AccTy :=
  if cert then .long
  else if a.fmt = .i8 ∧ b.fmt = .i8 then .i32
  else if a.fmt = .f32 ∨ a.fmt = .f64 ∨ b.fmt = .f32 ∨ b.fmt = .f64 then .f64
  else .f32

/-! ## Tiles -/

/-- Bytes of the elements of an operand tile. -/
def MxFmt.elemBytes (f : MxFmt) (rows cols : Nat) : Nat := rows * cols * f.fmt.width / 8

/-- R219: bytes of an operand tile with its block scales. -/
def MxFmt.tileBytes (f : MxFmt) (rows cols : Nat) : Nat :=
  f.elemBytes rows cols + (if f.mx then rows * (cols / 32) else 0)

/-- R219: an operand tile starts at a multiple of 256 B and lies inside the operand cache. -/
def tilePlaced (a n : Nat) : Bool := decide (a % 256 = 0) && decide (a + n ≤ opcSize)

/-- The code of element `i` of a tile of elements of width `w` at byte `a`. -/
def elemCode (m : Sparse Byte) (a w i : Nat) : Nat :=
  if w = 4 then bytesLE m (a + i / 2) 1 / (if i % 2 = 0 then 1 else 16) % 16
  else bytesLE m (a + i * (w / 8)) (w / 8)

/-- Write the code of element `i` of a tile. -/
def CoreSt.putElem (k : CoreSt) (a w i v : Nat) : CoreSt :=
  if w = 4 then
    let old := bytesLE k.opc (a + i / 2) 1
    k.putOpc (a + i / 2) 1 (if i % 2 = 0 then old / 16 * 16 + v % 16 else old % 16 + v % 16 * 16)
  else k.putOpc (a + i * (w / 8)) (w / 8) v

/-- An operand: an element value and its scale code (R235). -/
def operandAt (m : Sparse Byte) (f : MxFmt) (a rows cols scale r k : Nat) : Val × Nat :=
  (f.fmt.decode (elemCode m a f.fmt.width (r * cols + k)),
    if f.mx then bytesLE m (a + f.elemBytes rows cols + r * (cols / 32) + k / 32) 1 else scale)

/-! ## Chunk sums -/

/-- What has entered a chunk: the exact sum of the finite products, and which special values and signs. -/
structure ChunkAcc where
  sum : Exact := {}
  nan : Bool := false
  inf0 : Bool := false
  pinf : Bool := false
  ninf : Bool := false
  allNeg : Bool := true
  allPos : Bool := true
  nanScale : Bool := false

/-- R232, R233, R235: one product enters a chunk. -/
def ChunkAcc.enter (h : ChunkAcc) (a b : Val × Nat) : ChunkAcc :=
  let ns := decide (a.2 = 255) || decide (b.2 = 255)
  if ns || a.1.isNan || b.1.isNan then { h with nan := true, nanScale := h.nanScale || ns }
  else match Val.mul a.1 b.1 with
  | (.nan, _) => { h with inf0 := true }
  | (.inf n, _) => { h with pinf := h.pinf || !n, ninf := h.ninf || n }
  | (p, _) =>
    { h with
      sum := h.sum.add (Exact.ofVal (p.scale ((a.2 : Int) - 127 + ((b.2 : Int) - 127))))
      allNeg := h.allNeg && p.isNeg
      allPos := h.allPos && !p.isNeg }

/-- R233: the chunk sum under a rounding mode, and the cause of a NaN made in the chunk. -/
def ChunkAcc.result (h : ChunkAcc) (mode : Nat) : Val × Option Nat :=
  if h.nan then (.nan, none)
  else if h.inf0 then (.nan, some 1)
  else if h.pinf && h.ninf then (.nan, some 0)
  else if h.pinf then (.inf false, none)
  else if h.ninf then (.inf true, none)
  else (h.sum.toVal (if h.allNeg then true else if h.allPos then false else decide (mode = 2)), none)

/-! ## The outcome of an instruction -/

/-- What an instruction leaves beside its result bytes: sticky flags, draws and the first created NaN. -/
structure MxOut where
  core : CoreSt
  accOvf : Bool := false
  nanScale : Bool := false
  srUsed : Bool := false
  badRecord : Bool := false
  cvtOvf : Bool := false
  draws : Nat := 0
  first : Option (Nat × Nat × Nat) := none

/-- Keep the first created NaN: rows and then columns rise as elements are visited. -/
def MxOut.report (o : MxOut) (i j : Nat) (cause : Option Nat) : MxOut :=
  if o.first.isSome then o else { o with first := cause.map (fun c => (i, j, c)) }

/-- All pairs below m and n in row order. -/
def pairs (m n : Nat) : List (Nat × Nat) := (upTo m).flatMap (fun i => (upTo n).map (fun j => (i, j)))

/-- R227, R237, R262, R263: an instruction completes: its bytes, flags, draws, counts and report; then the group
moves on. -/
def State.mxDone (s : State) (g : GroupRef) (opcode beats macs : Nat) (o : MxOut) : State :=
  let c := g.core.val
  let pc := (s.grp g).pc
  let nb := s.reg (R.nsBeats c)
  let put (t : State) (b : Bool) (x : Fld) : State := if b then t.setFld (R.mxFlags c) x 1 else t
  let s0 := s.setCore c o.core
  let s1 := put (put (put (put (put s0 o.accOvf F.mxFlags_accOvf) o.nanScale F.mxFlags_nanScale)
    o.srUsed F.mxFlags_srUsed) o.badRecord F.mxFlags_badRecord) o.cvtOvf F.mxFlags_cvtOvf
  let s2 := ((s1.count (R.mxCntInstr c) F.mxCntInstr_instr 1).count (R.mxCntBusy c) F.mxCntBusy_busyBeats beats).count
    (R.mxCntMac c) F.mxCntMac_macs macs
  let s3 := s2.count (R.srCntDraws c) F.srCntDraws_draws o.draws
  let s4 := match o.first with
    | none => s3
    | some (i, j, cause) =>
      (s3.setFld (R.mxFlags c) F.mxFlags_nanCreated 1).nanReport c {
        engine := 1, coord := true, group := BitVec.ofNat 8 g.slot.val, row := BitVec.ofNat 8 i,
        col := BitVec.ofNat 16 j, cls := 2, opcode := BitVec.ofNat 8 opcode, cause := BitVec.ofNat 3 cause,
        pc := pc, beats := nb }
  (s4.deliver c).adv g

/-- R223: the chain length of the granule of an accumulator offset. -/
def State.chain (s : State) (c off : Nat) : Nat :=
  let h := off / 0x2000
  s.fld (R.mxChain c (h / 2)) (if h % 2 = 0 then F.mxChain_lenLo else F.mxChain_lenHi)

/-- Set the chain length of a granule. -/
def State.setChain (s : State) (c off v : Nat) : State :=
  let h := off / 0x2000
  s.setFld (R.mxChain c (h / 2)) (if h % 2 = 0 then F.mxChain_lenLo else F.mxChain_lenHi) v

/-! ## Operands of an instruction -/

/-- R225: the format word: the immediate with scales 127, or U[SRCC]. -/
def fmtWord (x : Group) (f : Fields) : Nat :=
  if f.imm then f.c.toNat + 127 * 2 ^ 16 + 127 * 2 ^ 24 else (x.uni (f.c.toNat % 256)).toNat

/-- The register named for the format word is not reserved. -/
def fmtWordOk (x : Group) (f : Fields) : Bool := f.imm || (decide (f.c.toNat < 256) && x.uOk f.c.toNat)

/-- R227: an opcode without a format word requires IMM, SRCC and MOD[2:0] at 0. -/
def noFmtWord (f : Fields) : Bool := !f.imm && decide (f.c = 0) && decide (f.low = 0)

/-- The value of a uniform register as an offset. -/
def Group.off (x : Group) (r : BitVec 8) : Nat := (x.uni r.toNat).toNat

/-! ## MMA -/

/-- The operands of an MMA once they are known to be legal. -/
structure MmaOps where
  fa : MxFmt
  fb : MxFmt
  sa : Nat
  sb : Nat
  shape : Shape
  ty : AccTy
  d : Nat
  a : Nat
  b : Nat
  mode : Nat
  zero : Bool

/-- R228 to R231, R247: the operands of an MMA or MMAZ, or none when the instruction is ILLEGAL. -/
def mmaOps (x : Group) (f : Fields) (zero : Bool) : Option MmaOps :=
  let w := fmtWord x f
  match MxFmt.ofCode (bits w 0 4), MxFmt.ofCode (bits w 4 4) with
  | some fa, some fb =>
    let cert := decide (bits w 8 1 = 1)
    let sa := bits w 16 8
    let sb := bits w 24 8
    let sh := shapeOf (max fa.rank fb.rank) cert
    let ty := accTypeOf fa fb cert
    let o : MmaOps := ⟨fa, fb, sa, sb, sh, ty, x.off f.dst, x.off f.a, x.off f.b, f.low, zero⟩
    let isFp (m : MxFmt) : Bool := decide (m.fmt = .f32) || decide (m.fmt = .f64)
    let ok := decide (bits w 11 5 = 0) && decide (fa.fmt ≠ .i32) && decide (fb.fmt ≠ .i32)
      && decide (f.typ = ty.code) && decide (f.low ≤ 4) && (decide (f.low < 4) || decide (ty = .f32))
      && (!fa.mx || decide (sa = 127)) && (!fb.mx || decide (sb = 127))
      && (decide (ty ≠ .i32) || (decide (sa = 127) && decide (sb = 127)))
      && (!cert || (isFp fa && isFp fb && decide (f.low = 0) && decide (sa = 127) && decide (sb = 127)))
      && ty.placed o.d && tilePlaced o.a (fa.tileBytes sh.m sh.k) && tilePlaced o.b (fb.tileBytes sh.n sh.k)
    if ok then some o else none
  | _, _ => none

/-- R232 to R236, R238, R240: one fast-class output element: the new code, and what it leaves. -/
def mmaElem (s : State) (c : Nat) (o : MmaOps) (len : Nat) (m : Sparse Byte) (out : MxOut) (i j : Nat) : MxOut :=
  let off := o.d + (i * o.shape.n + j) * o.ty.size
  let old := bytesLE out.core.acc off o.ty.size
  let ks (q : Nat) : List Nat := (upTo o.shape.c).map (fun t => q * o.shape.c + t)
  let chunk (q : Nat) : ChunkAcc := (ks q).foldl (fun h k =>
    h.enter (operandAt m o.fa o.a o.shape.m o.shape.k o.sa i k) (operandAt m o.fb o.b o.shape.n o.shape.k o.sb j k)) {}
  let qs := upTo (o.shape.k / o.shape.c)
  if o.ty = .i32 then
    let start : Int := if o.zero then 0 else signedOf 32 old
    let r := qs.foldl (fun (p : Int × Bool) q =>
      let h := chunk q
      let v := p.1 + h.sum.n * (2 ^ h.sum.q.toNat : Nat)
      let w := max (-(2 ^ 31 : Int)) (min v (2 ^ 31 - 1))
      (w, p.2 || decide (w ≠ v))) (start, false)
    { out with core := out.core.putAcc off 4 (r.1 % (2 ^ 32 : Nat)).toNat, accOvf := out.accOvf || r.2 }
  else
    let fmt := o.ty.fmt
    let start : Val := if o.zero then .zero true else fmt.decode old
    let thresh := s.fld (R.mxCtrl c) F.mxCtrl_srThresh
    let force := s.flag (R.mxCtrl c) F.mxCtrl_srForceRne
    let seed := s.reg (R.srSeed c)
    let step (p : (Val × Nat) × MxOut × Option Nat × Bool) (q : Nat) : (Val × Nat) × MxOut × Option Nat × Bool :=
      let h := chunk q
      let key := len + (q + 1) * o.shape.c
      let sr := decide (o.mode = 4) && decide (thresh < key) && !force
      let mode := if o.mode = 4 then (if sr then 4 else 0) else o.mode
      let (cs, cause1) := h.result mode
      let (v, cause2) := Val.add mode p.1.1 cs
      let (code, fl) := fmt.round mode true (srDraw seed (srKey 1 off) (Word.of key)) false v
      let r := fmt.decode code
      let ovf := r.isInf && !p.1.1.isInf && !cs.isInf && !p.1.1.isNan && !cs.isNan
      ((r, code),
        { p.2.1 with
          accOvf := p.2.1.accOvf || ovf, nanScale := p.2.1.nanScale || h.nanScale
          srUsed := p.2.1.srUsed || fl.drew, draws := p.2.1.draws + b2n fl.drew },
        (if p.2.2.1.isSome then p.2.2.1 else if cause1.isSome then cause1 else cause2),
        p.2.2.2 || h.nan)
    let r := qs.foldl step ((start, old), out, none, start.isNan)
    let out1 := { r.2.1 with core := r.2.1.core.putAcc off o.ty.size r.1.2 }
    if r.2.2.2 then out1 else out1.report i j r.2.2.1

/-- R249: one certified output element. -/
def mmaCertElem (o : MmaOps) (m : Sparse Byte) (out : MxOut) (i j : Nat) : MxOut :=
  let off := o.d + (i * 16 + j) * recSize
  let old : LongSum := if o.zero then {} else LongSum.ofImage (bytesLE out.core.acc off recSize)
  let r := (upTo o.shape.k).foldl (fun (p : LongSum × Bool × Bool) k =>
    let a := (operandAt m o.fa o.a o.shape.m o.shape.k 127 i k).1
    let b := (operandAt m o.fb o.b o.shape.n o.shape.k 127 j k).1
    let q := Val.mul a b
    (p.1.enter q.1, p.2.1 || q.2.isSome, p.2.2 || a.isNan || b.isNan)) (old, false, old.nan)
  let done : LongSum := { r.1 with terms := satTerms (r.1.terms + o.shape.k) }
  let out1 := { out with core := out.core.putAcc off recSize done.image }
  if r.2.1 && !r.2.2 then out1.report i j (some 1) else out1

/-- MMA and MMAZ (R228 to R240, R247, R249). -/
def mma (zero : Bool) (g : GroupRef) (f : Fields) (s : State) : State :=
  s.issue g fun x s =>
    let c := g.core.val
    let regsOk := x.uOk f.dst.toNat && x.uOk f.a.toNat && x.uOk f.b.toNat && fmtWordOk x f && decide (f.low ≤ 4)
      && (decide (f.typ = 0) || decide (f.typ = 4) || decide (f.typ = 5))
    s.legal g regsOk fun s => s.collective g f fun s =>
      match mmaOps x f zero with
      | none => s.haltGroup g .illegal
      | some o =>
        s.eccGuard g [(o.a, o.fa.tileBytes o.shape.m o.shape.k), (o.b, o.fb.tileBytes o.shape.n o.shape.k)]
          (if zero then [] else [(o.d, o.ty.bytes)]) fun s =>
          let k := s.core c
          let len := if zero then 0 else s.chain c o.d
          let out := (pairs o.shape.m o.shape.n).foldl (fun (out : MxOut) p =>
            if o.ty = .long then mmaCertElem o k.opc out p.1 p.2 else mmaElem s c o len k.opc out p.1 p.2)
            { core := k }
          let s1 := if o.ty = .long then s else s.setChain c o.d (min (len + o.shape.k) (2 ^ 32 - 1))
          s1.mxDone g (if zero then 1 else 0) o.shape.beats (o.shape.m * o.shape.n * o.shape.k) out

/-! ## Accumulator instructions -/

/-- The accumulator type of TYPE for the instructions that take one. -/
def AccTy.ofCode : Nat → Option AccTy
  | 0 => some .i32 | 4 => some .f32 | 5 => some .f64
  | _ => none

/-- Beats of an instruction that passes over one accumulator tile (R227). -/
def AccTy.passBeats (t : AccTy) : Nat := if t = .f64 then 32 else 64

/-- ACCZ (R246, R239). -/
def accz (g : GroupRef) (f : Fields) (s : State) : State :=
  s.issue g fun x s =>
    match AccTy.ofCode f.typ with
    | none => s.haltGroup g .illegal
    | some t =>
      let ok := noFmtWord f && decide (f.a = 0) && decide (f.b = 0) && x.uOk f.dst.toNat
      s.legal g ok fun s => s.collective g f fun s =>
        let d := x.off f.dst
        s.legal g (t.placed d) fun s =>
          let k := s.core g.core.val
          (s.setChain g.core.val d 0).mxDone g 0x08 t.passBeats 0 { core := k.putAcc d t.bytes 0 }

/-- R245: the formats ACCLD admits into an accumulator type. -/
def accldOk (t : AccTy) (m : MxFmt) : Bool :=
  !m.mx && (match t with
    | .f32 => decide (m.fmt = .f32) || decide (m.fmt = .f16) || decide (m.fmt = .bf16) || decide (m.fmt = .e4m3)
        || decide (m.fmt = .e5m2)
    | .f64 => decide (m.fmt = .f64) || decide (m.fmt = .f32)
    | .i32 => decide (m.fmt = .i32) || decide (m.fmt = .i8)
    | .long => false)

/-- ACCLD (R245, R239). -/
def accld (g : GroupRef) (f : Fields) (s : State) : State :=
  s.issue g fun x s =>
    match AccTy.ofCode f.typ with
    | none => s.haltGroup g .illegal
    | some t =>
      let ok := decide (f.low = 0) && fmtWordOk x f && x.uOk f.dst.toNat && x.uOk f.a.toNat && x.uOk f.b.toNat
      s.legal g ok fun s => s.collective g f fun s =>
        let w := fmtWord x f
        match MxFmt.ofCode (bits w 0 4) with
        | none => s.haltGroup g .illegal
        | some m =>
          let d := x.off f.dst
          let a := x.off f.a
          let n := m.tileBytes t.dim t.dim
          let ok := decide (bits w 11 5 = 0) && accldOk t m && t.placed d && tilePlaced a n
          s.legal g ok fun s => s.eccGuard g [(a, n)] [] fun s =>
            let k := s.core g.core.val
            let k' := (upTo (t.dim * t.dim)).foldl (fun (y : CoreSt) i =>
              y.putAcc (d + i * t.size) t.size
                (t.fmt.round 0 true 0 m.fmt.isInt (m.fmt.decode (elemCode k.opc a m.fmt.width i))).1) k
            (s.setChain g.core.val d (x.off f.b % 2 ^ 32)).mxDone g 0x09 t.passBeats 0 { core := k' }

/-- The value of element `i` of an accumulator tile. -/
def accVal (k : CoreSt) (t : AccTy) (a i : Nat) : Val := t.fmt.decode (bytesLE k.acc (a + i * t.size) t.size)

/-- The greatest magnitude over a tile, NaN when any element is NaN. -/
def accMax (k : CoreSt) (t : AccTy) (a : Nat) : Val :=
  (upTo (t.dim * t.dim)).foldl (fun m i =>
    let v := (accVal k t a i).abs
    if m.isNan || v.isNan then .nan else if m.lt v then v else m) (.zero false)

/-- R242: AMAX as ACCST gives it. -/
def amaxCode (t : AccTy) (m : Val) : Nat :=
  if t = .i32 then ((Exact.ofVal m).n * (2 ^ (Exact.ofVal m).q.toNat : Nat)).toNat
  else (Fmt.f32.round 3 true 0 false m).1

/-- ACCAMAX (R244). -/
def accamax (g : GroupRef) (f : Fields) (s : State) : State :=
  s.issue g fun x s =>
    match AccTy.ofCode f.typ with
    | none => s.haltGroup g .illegal
    | some t =>
      let ok := noFmtWord f && decide (f.b = 0) && x.uOk f.dst.toNat && x.uOk f.a.toNat
      s.legal g ok fun s => s.collective g f fun s =>
        let a := x.off f.a
        s.legal g (t.placed a) fun s => s.eccGuard g [] [(a, t.bytes)] fun s =>
          let k := s.core g.core.val
          let m := accMax k t a
          let r := if t = .i32 then amaxCode t m else (Fmt.f64.round 0 true 0 false m).1
          let s1 := s.setGrp g ((s.grp g).setUni f.dst.toNat (Word.of r))
          s1.mxDone g 0x0B t.passBeats 0 { core := s1.core g.core.val }

/-! ### ACCST -/

/-- The exponent of the leading bit of a finite value. -/
def floorLog2 : Val → Int
  | .fin _ m e => e + bitLen m - 1
  | _ => 0

/-- R243: emax of an MX element format. -/
def Fmt.emax : Fmt → Int
  | .e4m3 => 8 | .e5m2 => 15 | _ => 2

/-- R243: the scale code of a block from its elements. -/
def blockScale (f : Fmt) (vs : List Val) : Nat :=
  if vs.any Val.isNan then 255
  else if vs.any Val.isInf then 254
  else
    let m := vs.foldl (fun m v => if m.lt v.abs then v.abs else m) (.zero false)
    match m with
    | .fin .. => (max 0 (min (floorLog2 m - f.emax + 127) 254)).toNat
    | _ => 127

/-- What a conversion into a tile leaves: overflows counted, flags, draws and the first created NaN. -/
structure StAcc where
  out : MxOut
  ovf : Nat := 0

/-- R241, R243, R276, R277: convert one element into the output tile at index `idx`; `mxScale` is the block's
scale code for an MX format. -/
def accstElem (seed : Word) (m : MxFmt) (mode : Nat) (ieee : Bool) (key b scale : Nat) (fromInt : Bool)
    (mxScale : Option Nat) (v : Val) (i j idx : Nat) (p : StAcc) : StAcc :=
  let byte := b + idx * m.fmt.width / 8
  let draw := srDraw seed (srKey 2 byte) (Word.of key)
  match mxScale with
  | some 255 => { p with out := { p.out with core := p.out.core.putElem b m.fmt.width idx 0 } }
  | some e =>
    let (code, fl) := m.fmt.round mode false draw fromInt (v.scale (127 - (e : Int)))
    let inf := v.isInf
    { out := { p.out with
        core := p.out.core.putElem b m.fmt.width idx code, draws := p.out.draws + b2n fl.drew }
      ovf := p.ovf + b2n inf }
  | none =>
    let sv := scaleBy v scale false
    let (code, fl) := m.fmt.round mode ieee draw fromInt sv
    { out := ({ p.out with
        core := p.out.core.putElem b m.fmt.width idx code, draws := p.out.draws + b2n fl.drew }).report i j
          (if fl.nan2 then some 2 else none)
      ovf := p.ovf + b2n fl.overflow }

/-- R241: the formats ACCST admits from an accumulator type. -/
def accstOk (t : AccTy) (m : MxFmt) : Bool :=
  if t = .i32 then decide (m.fmt = .i8) || decide (m.fmt = .i32)
  else !m.fmt.isInt

/-- R241, R243: convert a whole tile. Elements are visited in accumulator row order, so that the first report is
the one of lowest i and then j. -/
def accstTile (s : State) (c : Nat) (t : AccTy) (m : MxFmt) (mode : Nat) (ieee trans : Bool) (scale key a b : Nat) : StAcc :=
  let k := s.core c
  let d := t.dim
  let seed := s.reg (R.srSeed c)
  -- the accumulator element behind output element (r, q)
  let src (r q : Nat) : Val := accVal k t a (if trans then q * d + r else r * d + q)
  let sc (r blk : Nat) : Nat := blockScale m.fmt ((upTo 32).map (fun q => src r (blk * 32 + q)))
  let p0 : StAcc :=
    if m.mx then
      (pairs d (d / 32)).foldl (fun (p : StAcc) rb =>
        let e := sc rb.1 rb.2
        { p with out := { p.out with
            core := p.out.core.putOpc (b + m.elemBytes d d + rb.1 * (d / 32) + rb.2) 1 e
            nanScale := p.out.nanScale || decide (e = 255) } }) { out := { core := k } }
    else { out := { core := k } }
  (pairs d d).foldl (fun (p : StAcc) ij =>
    let r := if trans then ij.2 else ij.1
    let q := if trans then ij.1 else ij.2
    accstElem seed m mode ieee key b scale t.fmt.isInt (if m.mx then some (sc r (q / 32)) else none)
      (accVal k t a (ij.1 * d + ij.2)) ij.1 ij.2 (r * d + q) p) p0

/-- ACCST (R241 to R243). -/
def accst (g : GroupRef) (f : Fields) (s : State) : State :=
  s.issue g fun x s =>
    match AccTy.ofCode f.typ with
    | none => s.haltGroup g .illegal
    | some t =>
      let ok := decide (f.low ≤ 4) && fmtWordOk x f && x.uOk f.dst.toNat && x.uOk f.a.toNat && x.uOk f.b.toNat
      s.legal g ok fun s => s.collective g f fun s =>
        let w := fmtWord x f
        match MxFmt.ofCode (bits w 0 4) with
        | none => s.haltGroup g .illegal
        | some m =>
          let a := x.off f.a
          let b := x.off f.b
          let n := m.tileBytes t.dim t.dim
          let scale := bits w 16 8
          let ok := decide (bits w 11 5 = 0) && accstOk t m && (!m.mx || decide (scale = 127)) && t.placed a
            && tilePlaced b n
          s.legal g ok fun s => s.eccGuard g [] [(a, t.bytes)] fun s =>
            let c := g.core.val
            let mx := accMax (s.core c) t a
            let r := accstTile s c t m f.low (decide (bits w 9 1 = 1)) (decide (bits w 10 1 = 1)) scale
              (bits w 32 32) a b
            let st := amaxCode t mx + r.ovf * 2 ^ 32 + b2n mx.isNan * 2 ^ 45
            let k := r.out.core
            let gs := Sparse.upd (fun _ => {}) k.groups g.slot.val fun y => y.setUni f.dst.toNat (Word.of st)
            let k' : CoreSt := { k with groups := gs }
            s.mxDone g 0x0A t.passBeats 0 { r.out with core := k', cvtOvf := decide (0 < r.ovf) }

/-! ## Long tiles -/

/-- Bytes of a long tile. -/
def longBytes : Nat := 147_456

/-- LSZ (R250). -/
def lsz (g : GroupRef) (f : Fields) (s : State) : State :=
  s.issue g fun x s =>
    let ok := decide (f.typ = 0) && noFmtWord f && decide (f.a = 0) && decide (f.b = 0) && x.uOk f.dst.toNat
    s.legal g ok fun s => s.collective g f fun s =>
      let d := x.off f.dst
      s.legal g (AccTy.long.placed d) fun s =>
        let k := s.core g.core.val
        let k' := (upTo 256).foldl (fun (y : CoreSt) i => y.putAcc (d + i * recSize) recSize ({} : LongSum).image) k
        s.mxDone g 0x10 576 0 { core := k' }

/-- LSST (R250). -/
def lsst (g : GroupRef) (f : Fields) (s : State) : State :=
  s.issue g fun x s =>
    let ok := decide (f.typ = 0) && noFmtWord f && decide (f.b = 0) && x.uOk f.dst.toNat && x.uOk f.a.toNat
    s.legal g ok fun s => s.collective g f fun s =>
      let d := x.off f.dst
      let a := x.off f.a
      s.legal g (AccTy.long.placed d && tilePlaced a longBytes) fun s =>
        s.eccGuard g [] [(d, longBytes)] fun s =>
          let k := s.core g.core.val
          let k' := (upTo 256).foldl (fun (y : CoreSt) i =>
            y.putOpc (a + i * recSize) recSize (bytesLE k.acc (d + i * recSize) recSize)) k
          s.mxDone g 0x11 576 0 { core := k' }

/-- LSADD (R250, R251). The records it reads need only lie inside the operand cache (log entry 9). -/
def lsadd (g : GroupRef) (f : Fields) (s : State) : State :=
  s.issue g fun x s =>
    let ok := decide (f.typ = 0) && noFmtWord f && decide (f.b = 0) && x.uOk f.dst.toNat && x.uOk f.a.toNat
    s.legal g ok fun s => s.collective g f fun s =>
      let d := x.off f.dst
      let a := x.off f.a
      s.legal g (AccTy.long.placed d && decide (a + longBytes ≤ opcSize)) fun s =>
        s.eccGuard g [(a, longBytes)] [(d, longBytes)] fun s =>
          let k := s.core g.core.val
          let o := (upTo 256).foldl (fun (o : MxOut) i =>
            let (r, bad) := (LongSum.ofImage (bytesLE k.acc (d + i * recSize) recSize)).mergeImage
              (bytesLE k.opc (a + i * recSize) recSize)
            { o with core := o.core.putAcc (d + i * recSize) recSize r.image, badRecord := o.badRecord || bad })
            { core := k }
          s.mxDone g 0x12 576 0 o

/-- LSRND (R252, R237). -/
def lsrnd (g : GroupRef) (f : Fields) (s : State) : State :=
  s.issue g fun x s =>
    let ok := decide (f.typ = 0) && decide (f.low < 4) && fmtWordOk x f && decide (f.b = 0) && x.uOk f.dst.toNat
      && x.uOk f.a.toNat
    s.legal g ok fun s => s.collective g f fun s =>
      let w := fmtWord x f
      match MxFmt.ofCode (bits w 0 4) with
      | none => s.haltGroup g .illegal
      | some m =>
        let d := x.off f.dst
        let a := x.off f.a
        let ok := decide (bits w 11 5 = 0) && (decide (m.fmt = .f32) || decide (m.fmt = .f64))
          && AccTy.long.placed d && tilePlaced a (m.tileBytes 16 16)
        s.legal g ok fun s => s.eccGuard g [] [(d, longBytes)] fun s =>
          let k := s.core g.core.val
          let trans := decide (bits w 10 1 = 1)
          let o := (pairs 16 16).foldl (fun (o : MxOut) ij =>
            let r := LongSum.ofImage (bytesLE k.acc (d + (ij.1 * 16 + ij.2) * recSize) recSize)
            let idx := if trans then ij.2 * 16 + ij.1 else ij.1 * 16 + ij.2
            ({ o with core := o.core.putElem a m.fmt.width idx (r.round m.fmt f.low).1 }).report ij.1 ij.2
              (if r.pinf && r.ninf && !r.nan then some 3 else none)) { core := k }
          (s.mxDone g 0x13 256 0 o).certify g x.pc ((pairs 16 16).map (fun ij =>
            (ij.1 * 16 + ij.2, ((LongSum.ofImage (bytesLE k.acc (d + (ij.1 * 16 + ij.2) * recSize) recSize)).round m.fmt f.low).1)))

/-! ## Meanings -/

/-- MMA (R232). -/
def execMma (g : GroupRef) (f : Fields) (s : State) : Out := s.run fun s => mma false g f s
/-- MMAZ (R232). -/
def execMmaz (g : GroupRef) (f : Fields) (s : State) : Out := s.run fun s => mma true g f s
/-- ACCZ (R246). -/
def execAccz (g : GroupRef) (f : Fields) (s : State) : Out := s.run fun s => accz g f s
/-- ACCLD (R245). -/
def execAccld (g : GroupRef) (f : Fields) (s : State) : Out := s.run fun s => accld g f s
/-- ACCST (R241). -/
def execAccst (g : GroupRef) (f : Fields) (s : State) : Out := s.run fun s => accst g f s
/-- ACCAMAX (R244). -/
def execAccamax (g : GroupRef) (f : Fields) (s : State) : Out := s.run fun s => accamax g f s
/-- LSZ (R250). -/
def execLsz (g : GroupRef) (f : Fields) (s : State) : Out := s.run fun s => lsz g f s
/-- LSST (R250). -/
def execLsst (g : GroupRef) (f : Fields) (s : State) : Out := s.run fun s => lsst g f s
/-- LSADD (R250). -/
def execLsadd (g : GroupRef) (f : Fields) (s : State) : Out := s.run fun s => lsadd g f s
/-- LSRND (R252). -/
def execLsrnd (g : GroupRef) (f : Fields) (s : State) : Out := s.run fun s => lsrnd g f s

end Sys2Proof.Machine
end

