-- ==== Sys2Proof/Machine/Vector.lean ====
section
/-!
DEFINITION. The vector engine (chapter 7): descriptors, elementwise operations, conversion, reductions, scans
and mask summaries. An instruction runs whole in its step (log entry 8).
-/

namespace Sys2Proof.Machine

/-! ## Descriptors -/

/-- The format of a vector operand (R313). -/
inductive VFmt where
  | num (f : Fmt)
  | mx (f : Fmt)
  | mask
  deriving DecidableEq, Repr

/-- R313: a format code of a descriptor; 0x8 is MXFP4. -/
def VFmt.ofCode (n : Nat) : Option VFmt :=
  match n with
  | 6 => some (.mx .e4m3)
  | 7 => some (.mx .e5m2)
  | 8 => some (.mx .e2m1)
  | 15 => some .mask
  | n => (Fmt.ofCode n).map .num

/-- Whether an operand holds floats. -/
def VFmt.isFloat : VFmt → Bool
  | .num f => !f.isInt
  | .mx _ => true
  | .mask => false

/-- Whether an operand holds integers. -/
def VFmt.isInt : VFmt → Bool
  | .num f => f.isInt
  | _ => false

/-- Whether an operand has block scales. -/
def VFmt.isMx : VFmt → Bool
  | .mx _ => true
  | _ => false

/-- Bits of an element. -/
def VFmt.width : VFmt → Nat
  | .num f => f.width
  | .mx f => f.width
  | .mask => 1

/-- A descriptor (R313). -/
structure VDesc where
  raw : Nat
  off : Nat
  fmt : VFmt
  len : Nat
  rows : Nat
  pitch : Nat
  deriving DecidableEq, Repr

/-- Bytes of the elements of a row. -/
def VDesc.elemBytes (d : VDesc) : Nat := (d.len * d.fmt.width + 7) / 8

/-- Bytes of a row with its block scales (R314). -/
def VDesc.rowBytes (d : VDesc) : Nat := d.elemBytes + (if d.fmt.isMx then d.len / 32 else 0)

/-- The span of a descriptor (R314). -/
def VDesc.span (d : VDesc) : Rng := (d.off, d.rows * d.pitch)

/-- The bytes an instruction touches, row by row. -/
def VDesc.bytes (d : VDesc) : List Rng := (upTo d.rows).map (fun r => (d.off + r * d.pitch, d.rowBytes))

/-- The element count. -/
def VDesc.n (d : VDesc) : Nat := d.rows * d.len

/-- R313, R314: a descriptor, or none where a field is reserved or it breaks a rule. -/
def VDesc.of (w : Word) : Option VDesc :=
  let x := w.toNat
  match VFmt.ofCode (bits x 20 4) with
  | none => none
  | some fmt =>
    let d0 : VDesc := ⟨x, bits x 0 20, fmt, bits x 24 16 + 1, bits x 40 8 + 1, bits x 48 16 * 64⟩
    let d : VDesc := if d0.pitch = 0 then { d0 with pitch := (d0.rowBytes + 63) / 64 * 64 } else d0
    let ok := decide (d.off % 64 = 0) && decide (d.off < opcSize) && (!fmt.isMx || decide (d.len % 32 = 0))
      && decide (d.rowBytes ≤ d.pitch) && decide (d.off + d.rows * d.pitch ≤ opcSize)
    if ok then some d else none

/-- The descriptor in a uniform register. -/
def Group.desc (x : Group) (r : Nat) : Option VDesc := VDesc.of (x.uni r)

/-- Whether two ranges share a byte. -/
def Rng.meets (a b : Rng) : Bool := decide (a.1 < b.1 + b.2) && decide (b.1 < a.1 + a.2)

/-- R315: the destination is, for each source, the same descriptor or apart from it (log entry 11). -/
def VDesc.apart (d : VDesc) (srcs : List VDesc) : Bool :=
  srcs.all (fun q => decide (q.raw = d.raw) || !Rng.meets d.span q.span)

/-! ## Elements -/

/-- The byte where the row of element `e` starts. -/
def VDesc.rowBase (d : VDesc) (e : Nat) : Nat := d.off + e / d.len * d.pitch

/-- The code of element `e`. -/
def VDesc.code (d : VDesc) (m : Sparse Byte) (e : Nat) : Nat :=
  let k := e % d.len
  match d.fmt with
  | .mask => bytesLE m (d.rowBase e + k / 8) 1 / 2 ^ (k % 8) % 2
  | f => elemCode m (d.rowBase e) f.width k

/-- The byte of the block scale of element `e`. -/
def VDesc.scaleAt (d : VDesc) (e : Nat) : Nat := d.rowBase e + d.elemBytes + e % d.len / 32

/-- R317, R235: the exact value of element `e`; a block scale of 0xFF gives NaN. -/
def VDesc.val (d : VDesc) (m : Sparse Byte) (e : Nat) : Val :=
  match d.fmt with
  | .num f => f.decode (d.code m e)
  | .mx f => scaleBy (f.decode (d.code m e)) (bytesLE m (d.scaleAt e) 1) true
  | .mask => Val.ofInt (d.code m e)

/-- Write the code of element `e`. -/
def VDesc.put (d : VDesc) (k : CoreSt) (e v : Nat) : CoreSt :=
  let i := e % d.len
  match d.fmt with
  | .mask =>
    let a := d.rowBase e + i / 8
    let old := bytesLE k.opc a 1
    let p := 2 ^ (i % 8)
    k.putOpc a 1 (old - old / p % 2 * p + v % 2 * p)
  | f => k.putElem (d.rowBase e) f.width i v

/-- R334: the position of element `e` for the generator: its offset in 4-bit units. -/
def VDesc.nibble (d : VDesc) (e : Nat) : Nat := d.rowBase e * 2 + e % d.len * d.fmt.width / 4

/-- The mask of an instruction: no mask admits every element (R318). -/
def maskBit (mask : Option VDesc) (m : Sparse Byte) (e : Nat) : Bool :=
  match mask with
  | none => true
  | some d => decide (d.code m e = 1)

/-- The unmasked elements in rising order. -/
def elems (n : Nat) (mask : Option VDesc) (m : Sparse Byte) : List Nat := (upTo n).filter (maskBit mask m)

/-! ## Compute types -/

/-- R317: the compute type of an instruction's operands; integer and float operands do not mix, and a mask is
neither. -/
def computeType (fs : List VFmt) : Option Fmt :=
  if fs.all VFmt.isFloat then some (if fs.any (fun f => decide (f = .num .f64)) then .f64 else .f32)
  else if fs.all VFmt.isInt then some (if fs.any (fun f => decide (f = .num .i64)) then .i64 else .i32)
  else none

/-- A finite integer value as an integer. -/
def Val.toInt (v : Val) : Int := let x := Exact.ofVal v; x.n * (2 ^ x.q.toNat : Nat)

/-- An integer as bits of a width. -/
def wrapBits (w : Nat) (i : Int) : Nat := (i % (2 ^ w : Nat)).toNat

/-- R317: a result in the compute type: rounded, or wrapped for an integer type. -/
def inType (ct : Fmt) (mode : Nat) (v : Val) : Val × NFlags :=
  if ct.isInt then (Val.ofInt (signedOf ct.width (wrapBits ct.width v.toInt)), {})
  else let r := ct.round mode true 0 false v; (ct.decode r.1, r.2)

/-- R319: E, the elementwise beats of `n` elements. -/
def elemBeats (ct : Fmt) (n : Nat) : Nat := if ct.width = 64 then (n + 63) / 64 else (n + 127) / 128

/-- R319: beats when every operand is a mask. -/
def maskBeats (n : Nat) : Nat := (n + 4095) / 4096

/-! ## Outcomes -/

/-- What a vector instruction leaves beside its registers. -/
structure VAcc where
  core : CoreSt
  flags : NFlags := {}
  cvtOvf : Bool := false
  first : Option (Nat × Nat) := none
  draws : Nat := 0
  flush : Bool := false
  domain : Bool := false
  emptySlot : Bool := false
  zeroVar : Bool := false
  nonfinite : Bool := false
  smaxEmpty : Bool := false
  intSat : Bool := false
  badRecord : Bool := false
  anyNan : Bool := false

/-- Keep the created NaN of lowest element index (R333). -/
def VAcc.report (o : VAcc) (e : Nat) (cause : Option Nat) : VAcc :=
  match cause, o.first with
  | some c, none => { o with first := some (e, c) }
  | some c, some (e', c') => { o with first := some (if e < e' then (e, c) else (e', c')) }
  | none, _ => o

/-- Add flags raised before the final conversion. -/
def VAcc.raised (o : VAcc) (fl : NFlags) : VAcc := { o with flags := o.flags.or fl }

/-- Convert a value to the destination's format and write it (R317, R273 to R277): the flags, a created NaN of
cause 2 and a stochastic draw follow. -/
def VAcc.store (o : VAcc) (d : VDesc) (f : Fmt) (mode : Nat) (ieee : Bool) (draw : Nat) (fromInt : Bool) (e : Nat) (v : Val) :
    VAcc :=
  let (c, fl) := f.round mode ieee draw fromInt v
  ({ o with
    core := d.put o.core e c
    flags := o.flags.or { fl with overflow := false }
    cvtOvf := o.cvtOvf || fl.overflow
    draws := o.draws + b2n fl.drew }).report e (if fl.nan2 then some 2 else none)

/-- R321 to R333: an instruction completes: bytes, flags, counts, draws and at most one report; `len` is the row
length that gives the report its row and position. Then the group moves on. -/
def State.veDone (s : State) (g : GroupRef) (opcode beats sf len : Nat) (o : VAcc) : State :=
  let c := g.core.val
  let pc := (s.grp g).pc
  let nb := s.reg (R.nsBeats c)
  let put (t : State) (b : Bool) (x : Fld) : State := if b then t.setFld (R.veFlags c) x 1 else t
  let s0 := s.setCore c { o.core with groups := (s.core c).groups }
  let s1 := put (put (put (put (put s0 o.flags.invalid F.veFlags_invalid) o.flags.overflow F.veFlags_overflow)
    o.flags.underflow F.veFlags_underflow) o.flags.inexact F.veFlags_inexact) o.cvtOvf F.veFlags_cvtOvf
  let s2 := put (put (put (put s1 o.flush F.veFlags_sfFlush) o.domain F.veFlags_sfDomain) o.emptySlot
    F.veFlags_sfEmptySlot) o.zeroVar F.veFlags_normZeroVar
  let s3 := put (put (put (put (put s2 o.nonfinite F.veFlags_normNonfinite) o.smaxEmpty F.veFlags_smaxEmpty) o.intSat
    F.veFlags_intSat) o.badRecord F.veFlags_badRecord) (decide (0 < o.draws)) F.veFlags_srUsed
  let s4 := ((s3.count (R.veCntInstr c) F.veCntInstr_instr 1).count (R.veCntBusy c) F.veCntBusy_busyBeats beats).count
    (R.veCntSf c) F.veCntSf_sfResults sf
  let s5 := s4.count (R.srCntDraws c) F.srCntDraws_draws o.draws
  let s6 := match o.first with
    | none => s5
    | some (e, cause) =>
      (s5.setFld (R.veFlags c) F.veFlags_nanCreated 1).nanReport c {
        engine := 2, coord := true, group := BitVec.ofNat 8 g.slot.val, row := BitVec.ofNat 8 (e / len),
        col := BitVec.ofNat 16 (e % len), cls := 3, opcode := BitVec.ofNat 8 opcode,
        cause := BitVec.ofNat 3 cause, pc := pc, beats := nb }
  (s6.deliver c).adv g

/-! ## Operand fields -/

/-- MOD[5]. -/
def Fields.masked (f : Fields) : Bool := decide (f.mod.toNat / 32 % 2 = 1)
/-- MOD[4]. -/
def Fields.ieee (f : Fields) : Bool := decide (f.mod.toNat / 16 % 2 = 1)
/-- MOD[3]. -/
def Fields.m3 (f : Fields) : Bool := decide (f.mod.toNat / 8 % 2 = 1)

/-- Which fields an opcode uses: the register fields, MOD[3], and the greatest MOD[2:0]. -/
structure VUse where
  d : Bool := true
  a : Bool := true
  b : Bool := false
  c : Bool := false
  mask : Bool := false
  m3 : Bool := false
  low : Nat := 3

/-- R316, R320: the fields of a vector instruction are not reserved: PRED and MOD[7:6] are 0, registers named
exist, unused source fields are 0, and MASKED is 0 where the opcode takes no mask. -/
def vFieldsOk (x : Group) (f : Fields) (u : VUse) : Bool :=
  let useC := u.c || (u.mask && f.masked)
  decide (f.pred = 0) && decide (f.mod.toNat < 64) && decide (f.low ≤ u.low) && (u.m3 || !f.m3)
    && (u.mask || !f.masked) && decide (f.c.toNat < 256)
    && (!u.d || x.uOk f.dst.toNat)
    && (if u.a then x.uOk f.a.toNat else decide (f.a = 0))
    && (if u.b then x.uOk f.b.toNat else decide (f.b = 0))
    && (if useC then x.uOk f.c.toNat else decide (f.c = 0))

/-- R318: the mask of an instruction: none when MASKED is 0, or the descriptor, which must be a MASK of the shape
of the first source. The outer `none` is ILLEGAL. -/
def vMask (x : Group) (f : Fields) (a : VDesc) : Option (Option VDesc) :=
  if f.masked then
    match x.desc f.c.toNat with
    | none => none
    | some m => if m.fmt = .mask ∧ m.rows = a.rows ∧ m.len = a.len then some (some m) else none
  else some none

/-- The ranges an instruction reads. -/
def readsOf (ds : List VDesc) (mask : Option VDesc) : List Rng :=
  (ds.flatMap VDesc.bytes) ++ (match mask with | some m => m.bytes | none => [])

/-- The mask as a list of sources. -/
def maskSrc (mask : Option VDesc) : List VDesc := match mask with | some m => [m] | none => []

/-! ## Elementwise arithmetic -/

/-- Opcodes 0x01 to 0x06 and 0x09 to 0x0B. -/
inductive VOp where
  | fp (o : FpOp)
  | and | or | xor
  deriving DecidableEq, Repr

/-- The opcode number (R319). -/
def VOp.num : VOp → Nat
  | .fp .fadd => 0x01 | .fp .fsub => 0x02 | .fp .fmul => 0x03 | .fp .ffma => 0x04
  | .fp .fmin => 0x05 | .fp .fmax => 0x06
  | .and => 0x09 | .or => 0x0A | .xor => 0x0B

/-- Bitwise logic on codes. -/
def VOp.logic (o : VOp) (x y : Nat) : Nat :=
  match o with
  | .and => x &&& y
  | .or => x ||| y
  | _ => x ^^^ y

/-- Whether an operation is logic. -/
def VOp.isLogic : VOp → Bool
  | .fp _ => false
  | _ => true

/-- The exact result of an operation, with the cause of a created NaN. VFMA takes its third operand from D. -/
def VOp.eval (o : VOp) (w mode : Nat) (a b d : Val) : Val × Option Nat :=
  match o with
  | .fp p => p.eval mode a b d
  | o => (Val.ofInt (signedOf w (o.logic (wrapBits w a.toInt) (wrapBits w b.toInt))), none)

/-- R319: the scalar of BSCALAR in the compute type. -/
def scalarOf (ct : Fmt) (w : Word) : Val := ct.decode (w.toNat % 2 ^ ct.width)

/-- VADD to VMAX and VAND to VXOR (R317, R319, R329). -/
def vElem (o : VOp) (g : GroupRef) (f : Fields) (s : State) : State :=
  s.issue g fun x s =>
    let fma := decide (o = .fp .ffma)
    let bs := f.m3
    s.legal g (vFieldsOk x f { b := true, mask := true, m3 := true }) fun s =>
      match x.desc f.dst.toNat, x.desc f.a.toNat, (if bs then x.desc f.a.toNat else x.desc f.b.toNat) with
      | some d, some a, some b =>
        match vMask x f a with
        | none => s.haltGroup g .illegal
        | some mask =>
          let srcs := (if bs then [a] else [a, b]) ++ maskSrc mask
          let fits := decide (d.n = a.n) && (bs || decide (b.n = a.n)) && d.apart srcs && !d.fmt.isMx
          let fs := if bs then [d.fmt, a.fmt] else [d.fmt, a.fmt, b.fmt]
          let reads := readsOf (srcs ++ (if fma then [d] else [])) none
          let sc := x.uni f.b.toNat
          if o.isLogic && fs.all (fun q => decide (q = .mask)) then
            s.legal g fits fun s => s.eccGuard g reads [] fun s =>
              let k := s.core g.core.val
              let out := (elems a.n mask k.opc).foldl (fun (y : CoreSt) e =>
                d.put y e (o.logic (a.code k.opc e) (if bs then sc.toNat % 2 else b.code k.opc e))) k
              s.veDone g o.num (maskBeats a.n) 0 a.len { core := out }
          else
            match computeType fs, d.fmt with
            | some ct, .num df =>
              s.legal g (fits && (!o.isLogic || ct.isInt)) fun s => s.eccGuard g reads [] fun s =>
                let k := s.core g.core.val
                let out := (elems a.n mask k.opc).foldl (fun (y : VAcc) e =>
                  let r := o.eval ct.width f.low (a.val k.opc e) (if bs then scalarOf ct sc else b.val k.opc e)
                    (d.val k.opc e)
                  let (v, fl) := inType ct f.low r.1
                  ((y.raised { fl with invalid := r.2.isSome }).report e r.2).store d df f.low f.ieee 0 ct.isInt e v)
                  { core := k }
                s.veDone g o.num (elemBeats ct a.n) 0 a.len out
            | _, _ => s.haltGroup g .illegal
      | _, _, _ => s.haltGroup g .illegal

/-- VCMP (R329). -/
def vCmp (g : GroupRef) (f : Fields) (s : State) : State :=
  s.issue g fun x s =>
    let bs := f.m3
    s.legal g (vFieldsOk x f { b := true, mask := true, m3 := true, low := 6 }) fun s =>
      match x.desc f.dst.toNat, x.desc f.a.toNat, (if bs then x.desc f.a.toNat else x.desc f.b.toNat) with
      | some d, some a, some b =>
        match vMask x f a, computeType (if bs then [a.fmt] else [a.fmt, b.fmt]) with
        | some mask, some ct =>
          let srcs := (if bs then [a] else [a, b]) ++ maskSrc mask
          let fits := decide (d.n = a.n) && (bs || decide (b.n = a.n)) && d.apart srcs && decide (d.fmt = .mask)
          s.legal g fits fun s => s.eccGuard g (readsOf srcs none) [] fun s =>
            let k := s.core g.core.val
            let sc := scalarOf ct (x.uni f.b.toNat)
            let out := (elems a.n mask k.opc).foldl (fun (y : CoreSt) e =>
              d.put y e (b2n (Val.cmp f.low (a.val k.opc e) (if bs then sc else b.val k.opc e)))) k
            s.veDone g 0x07 (elemBeats ct a.n) 0 a.len { core := out }
        | _, _ => s.haltGroup g .illegal
      | _, _, _ => s.haltGroup g .illegal

/-- VSEL (R319): the selector at U[SRCC] is no element mask, so MASKED is 0 (log entry 12). -/
def vSel (g : GroupRef) (f : Fields) (s : State) : State :=
  s.issue g fun x s =>
    s.legal g (vFieldsOk x f { b := true, c := true }) fun s =>
      match x.desc f.dst.toNat, x.desc f.a.toNat, x.desc f.b.toNat, x.desc f.c.toNat with
      | some d, some a, some b, some q =>
        let fits := decide (d.n = a.n) && decide (b.n = a.n) && decide (q.n = a.n) && decide (q.fmt = .mask)
          && d.apart [a, b, q] && !d.fmt.isMx
        let fs := [d.fmt, a.fmt, b.fmt]
        let reads := readsOf [a, b, q] none
        if fs.all (fun z => decide (z = .mask)) then
          s.legal g fits fun s => s.eccGuard g reads [] fun s =>
            let k := s.core g.core.val
            let out := (upTo a.n).foldl (fun (y : CoreSt) e =>
              d.put y e (if q.code k.opc e = 1 then a.code k.opc e else b.code k.opc e)) k
            s.veDone g 0x08 (maskBeats a.n) 0 a.len { core := out }
        else
          match computeType fs, d.fmt with
          | some ct, .num df =>
            s.legal g fits fun s => s.eccGuard g reads [] fun s =>
              let k := s.core g.core.val
              let out := (upTo a.n).foldl (fun (y : VAcc) e =>
                let v := if q.code k.opc e = 1 then a.val k.opc e else b.val k.opc e
                let (v, fl) := inType ct f.low v
                (y.raised fl).store d df f.low f.ieee 0 ct.isInt e v) { core := k }
              s.veDone g 0x08 (elemBeats ct a.n) 0 a.len out
          | _, _ => s.haltGroup g .illegal
      | _, _, _, _ => s.haltGroup g .illegal

/-! ## Conversion -/

/-- R334: the rounding mode an instruction really uses. -/
def State.veMode (s : State) (c : Nat) (low : Nat) : Nat :=
  if low = 4 ∧ s.flag (R.veCtrl c) F.veCtrl_srForceRne then 0 else low

/-- R334: the draw of an element. -/
def State.veDraw (s : State) (c : Nat) (d : VDesc) (key : Word) (e : Nat) : Nat :=
  srDraw (s.reg (R.srSeed c)) (srKey 4 (d.nibble e)) (key >>> 8)

/-- R330, R243, R276: the scales and then the elements of an MX destination. A block without an unmasked element
keeps its scale (log entry 13). -/
def vcvtMx (s : State) (c : Nat) (f : Fields) (d a : VDesc) (m : Fmt) (mask : Option VDesc) (key : Word) : VAcc :=
  let k := s.core c
  let mode := s.veMode c f.low
  let fromInt := a.fmt.isInt
  (upTo (d.n / 32)).foldl (fun (o : VAcc) blk =>
    let es := ((upTo 32).map (fun i => blk * 32 + i)).filter (maskBit mask k.opc)
    if es.isEmpty then o
    else
      let sc := blockScale m (es.map (a.val k.opc))
      let o1 : VAcc := { o with core := o.core.putOpc (d.scaleAt (blk * 32)) 1 sc }
      es.foldl (fun (o : VAcc) e =>
        let v := a.val k.opc e
        if sc = 255 then { o with core := d.put o.core e 0 }
        else
          let (code, fl) := m.round mode false (s.veDraw c d key e) fromInt (v.scale (127 - (sc : Int)))
          { o with
            core := d.put o.core e (if v.isInf && m.hasInf then (if v.isNeg then m.signBit else 0) + m.infCode else code)
            flags := o.flags.or { inexact := fl.inexact, underflow := fl.underflow }
            cvtOvf := o.cvtOvf || v.isInf
            draws := o.draws + b2n fl.drew }) o1) { core := k }

/-- VCVT (R330): every element is converted as CVT converts it. -/
def vCvt (g : GroupRef) (f : Fields) (s : State) : State :=
  s.issue g fun x s =>
    let sr := decide (f.low = 4)
    s.legal g (vFieldsOk x f { b := sr, mask := true, low := 4 }) fun s =>
      match x.desc f.dst.toNat, x.desc f.a.toNat with
      | some d, some a =>
        match vMask x f a with
        | none => s.haltGroup g .illegal
        | some mask =>
          let srcs := a :: maskSrc mask
          let fits := decide (d.n = a.n) && d.apart srcs && decide (a.fmt ≠ .mask) && decide (d.fmt ≠ .mask)
          let ct := (computeType [a.fmt, d.fmt]).getD
            (if a.fmt.width = 64 ∨ d.fmt.width = 64 then .f64 else .f32)
          s.legal g fits fun s => s.eccGuard g (readsOf srcs none) [] fun s =>
            let c := g.core.val
            let k := s.core c
            let key := x.uni f.b.toNat
            let out := match d.fmt with
              | .mx m => vcvtMx s c f d a m mask key
              | .num df => (elems a.n mask k.opc).foldl (fun (y : VAcc) e =>
                  y.store d df (s.veMode c f.low) f.ieee (s.veDraw c d key e) a.fmt.isInt e (a.val k.opc e))
                  { core := k }
              | .mask => { core := k }
            s.veDone g 0x00 (elemBeats ct a.n) 0 a.len out
      | _, _ => s.haltGroup g .illegal

/-! ## Reductions -/

/-- A partial sum: absent, or a value; with the flags raised, and the first created NaN of an element, or of the
tree. -/
structure Part where
  val : Option Val := none
  flags : NFlags := {}
  first : Option (Nat × Nat) := none
  tree : Bool := false

/-- Keep the lower element. -/
def firstOf (a b : Option (Nat × Nat)) : Option (Nat × Nat) :=
  match a, b with
  | some p, some q => some (if q.1 < p.1 then q else p)
  | some p, none => some p
  | none, q => q

/-- R335 step 2: combine two partials. -/
def Part.join (ct : Fmt) (mode : Nat) (a b : Part) : Part :=
  let fl := a.flags.or b.flags
  let fi := firstOf a.first b.first
  match a.val, b.val with
  | some x, some y =>
    let r := Val.add mode x y
    let (v, f2) := inType ct mode r.1
    ⟨some v, fl.or { f2 with invalid := r.2.isSome }, fi, a.tree || b.tree || r.2.isSome⟩
  | some x, none => ⟨some x, fl, fi, a.tree || b.tree⟩
  | none, y => ⟨y, fl, fi, a.tree || b.tree⟩

/-- R335 step 1: a lane takes one more term of element `e`, given as its first form and its later form. -/
def Part.take (ct : Fmt) (mode : Nat) (p : Part) (e : Nat) (start : Val × Option Nat) (next : Val → Val × Option Nat) : Part :=
  let r := match p.val with | none => start | some v => next v
  let (v, fl) := inType ct mode r.1
  ⟨some v, p.flags.or { fl with invalid := r.2.isSome }, firstOf p.first (r.2.map (fun c => (e, c))), p.tree⟩

/-- One level of the tree: adjacent pairs. -/
def pairUp {α : Type} (j : α → α → α) : List α → List α
  | a :: b :: t => j a b :: pairUp j t
  | t => t

/-- The six levels over 64 partials. -/
def tree64 {α : Type} (j : α → α → α) (l : List α) : List α :=
  pairUp j (pairUp j (pairUp j (pairUp j (pairUp j (pairUp j l)))))

/-- R335: the fixed-order sum of terms by element. -/
def floatSum (ct : Fmt) (mode : Nat) (es : List Nat) (start : Nat → Val × Option Nat)
    (next : Nat → Val → Val × Option Nat) : Part :=
  let lane (l : Nat) : Part :=
    (es.filter (fun e => decide (e % 64 = l))).foldl (fun p e => p.take ct mode e (start e) (next e)) {}
  match tree64 (Part.join ct mode) ((upTo 64).map lane) with
  | p :: _ => p
  | [] => {}

/-- Saturate an exact integer to a two's complement width; the flag says that it saturated (R336, R339). -/
def saturate (w : Nat) (i : Int) : Int × Bool :=
  let r := max (-(2 ^ (w - 1) : Nat) : Int) (min i ((2 ^ (w - 1) : Nat) - 1))
  (r, decide (r ≠ i))

/-- R337: a value of the compute type in a uniform register. -/
def resultWord (ct : Fmt) (v : Val) : Word :=
  if ct.isInt then Word.of (wrapBits 64 v.toInt) else Word.of (ct.round 0 true 0 false v).1

/-- VRSUM and VRDOT (R335 to R337). A created NaN of the tree belongs to no element: the record names a free one
(log entry 14). -/
def vSum (dot : Bool) (g : GroupRef) (f : Fields) (s : State) : State :=
  s.issue g fun x s =>
    s.legal g (vFieldsOk x f { b := dot, mask := true }) fun s =>
      match x.desc f.a.toNat, (if dot then x.desc f.b.toNat else x.desc f.a.toNat) with
      | some a, some b =>
        match vMask x f a, computeType [a.fmt, b.fmt] with
        | some mask, some ct =>
          s.legal g (decide (b.n = a.n)) fun s => s.eccGuard g (readsOf (if dot then [a, b] else [a]) mask) [] fun s =>
            let k := s.core g.core.val
            let es := elems a.n mask k.opc
            let va (e : Nat) := a.val k.opc e
            let vb (e : Nat) := b.val k.opc e
            let opcode := if dot then 0x21 else 0x20
            let beats := elemBeats ct a.n + 6
            let fin (s : State) (r : Word) (o : VAcc) : State :=
              (s.setGrp g ((s.grp g).setUni f.dst.toNat r)).veDone g opcode beats 0 a.len o
            if ct.isInt then
              let t : Int := es.foldl (fun t e => t + (va e).toInt * (if dot then (vb e).toInt else 1)) 0
              let (r, sat) := saturate 64 t
              fin s (Word.of (wrapBits 64 r)) { core := k, intSat := sat }
            else if es.any (fun e => (va e).isNan || (dot && (vb e).isNan)) then
              fin s (Word.of ct.nanCode) { core := k }
            else
              let p := floatSum ct f.low es (fun e => if dot then Val.mul (va e) (vb e) else (va e, none))
                (fun e t => if dot then Val.fma f.low (va e) (vb e) t else Val.add f.low t (va e))
              let v := p.val.getD (.zero false)
              if p.first.isNone && p.tree then
                fin s.draw (resultWord ct v) { core := k, flags := p.flags, first := some (s.free % a.n, 0) }
              else fin s (resultWord ct v) { core := k, flags := p.flags, first := p.first }
        | _, _ => s.haltGroup g .illegal
      | _, _ => s.haltGroup g .illegal

/-- The extreme of the unmasked elements that are not NaN, with the lowest element that holds it. -/
def extreme (max : Bool) (es : List Nat) (va : Nat → Val) : Option (Val × Nat) :=
  es.foldl (fun best e =>
    let v := va e
    if v.isNan then best
    else match best with
      | none => some (v, e)
      | some b => if (if max then b.1.below v else v.below b.1) then some (v, e) else some b) none

/-- The result over no element (R336). -/
def emptyExtreme (ct : Fmt) (max : Bool) : Val :=
  if ct.isInt then Val.ofInt (if max then -(2 ^ (ct.width - 1) : Nat) else (2 ^ (ct.width - 1) : Nat) - 1) else .inf max

/-- VRMAX, VRMIN, VRARGMAX and VRARGMIN (R336). -/
def vExtreme (max arg : Bool) (opcode : Nat) (g : GroupRef) (f : Fields) (s : State) : State :=
  s.issue g fun x s =>
    s.legal g (vFieldsOk x f { mask := true }) fun s =>
      match x.desc f.a.toNat with
      | none => s.haltGroup g .illegal
      | some a =>
        match vMask x f a, computeType [a.fmt] with
        | some mask, some ct =>
          s.eccGuard g (readsOf [a] mask) [] fun s =>
            let k := s.core g.core.val
            let es := elems a.n mask k.opc
            let r : Word := match extreme max es (a.val k.opc) with
              | some (v, e) => if arg then Word.of e else resultWord ct v
              | none =>
                if arg then Word.of (2 ^ 64 - 1)
                else if es.isEmpty then resultWord ct (emptyExtreme ct max) else Word.of ct.nanCode
            (s.setGrp g ((s.grp g).setUni f.dst.toNat r)).veDone g opcode (elemBeats ct a.n + 6) 0 a.len { core := k }
        | _, _ => s.haltGroup g .illegal

/-- VRAND, VROR and VRXOR (R336): over integers, or over a mask, whose one-bit result leaves the upper bits of
U[DST] open (log entry 15). -/
def vLogicRed (o : VOp) (opcode : Nat) (g : GroupRef) (f : Fields) (s : State) : State :=
  s.issue g fun x s =>
    s.legal g (vFieldsOk x f { mask := true }) fun s =>
      match x.desc f.a.toNat with
      | none => s.haltGroup g .illegal
      | some a =>
        match vMask x f a with
        | none => s.haltGroup g .illegal
        | some mask =>
          let isMask := decide (a.fmt = .mask)
          s.legal g (isMask || a.fmt.isInt) fun s => s.eccGuard g (readsOf [a] mask) [] fun s =>
            let k := s.core g.core.val
            let es := elems a.n mask k.opc
            let unit := if o = .and then 2 ^ 64 - 1 else 0
            let word (e : Nat) := wrapBits 64 (a.val k.opc e).toInt
            let r := es.foldl (fun r e => o.logic r (word e)) unit
            let beats := (if isMask then maskBeats a.n else elemBeats (if a.fmt.width = 64 then .i64 else .i32) a.n) + 6
            if isMask && !es.isEmpty then
              let v := r % 2 + 2 * (s.free % 2 ^ 63)
              (s.draw.setGrp g ((s.grp g).setUni f.dst.toNat (Word.of v))).veDone g opcode beats 0 a.len { core := k }
            else (s.setGrp g ((s.grp g).setUni f.dst.toNat (Word.of r))).veDone g opcode beats 0 a.len { core := k }

/-! ## Mask summaries -/

/-- VANY, VALL, VCOUNT and VFIRST (R338). -/
def vSummary (opcode : Nat) (result : List Nat → Nat → Nat) (g : GroupRef) (f : Fields) (s : State) : State :=
  s.issue g fun x s =>
    s.legal g (vFieldsOk x f {}) fun s =>
      match x.desc f.a.toNat with
      | none => s.haltGroup g .illegal
      | some a =>
        s.legal g (decide (a.fmt = .mask)) fun s => s.eccGuard g a.bytes [] fun s =>
          let k := s.core g.core.val
          let r := result ((upTo a.n).filter (fun e => decide (a.code k.opc e = 1))) a.n
          (s.setGrp g ((s.grp g).setUni f.dst.toNat (Word.of r))).veDone g opcode (maskBeats a.n + 6) 0 a.len { core := k }

/-! ## Scans -/

/-- An element in a strip: its value, its segment flag, and what was raised for it. -/
structure ScanEl where
  val : Val
  seg : Bool
  flags : NFlags := {}
  cause : Option Nat := none

/-- The sum of an element and an earlier value: rounded for floats, exact for integers. -/
def ScanEl.plus (ct : Fmt) (mode : Nat) (x : ScanEl) (v : Val) : ScanEl :=
  let r := Val.add mode v x.val
  if ct.isInt then { x with val := r.1 }
  else
    let (w, fl) := inType ct mode r.1
    { x with val := w, flags := x.flags.or { fl with invalid := r.2.isSome }, cause := x.cause.orElse (fun _ => r.2) }

/-- R339, R340: one level over a strip. -/
def scanLevel (ct : Fmt) (mode : Nat) (h : Nat) (xs : List ScanEl) : List ScanEl :=
  xs.zipIdx.map (fun p =>
    let (x, i) := p
    if i < h ∨ x.seg then x
    else match xs[i - h]? with
      | none => x
      | some y => { x.plus ct mode y.val with seg := y.seg })

/-- The six levels and the carry of a strip. -/
def scanStrip (ct : Fmt) (mode : Nat) (c : Option Val) (xs : List ScanEl) : List ScanEl :=
  let ys := [1, 2, 4, 8, 16, 32].foldl (fun ys h => scanLevel ct mode h ys) xs
  match c with
  | none => ys
  | some v => ys.map (fun x => if x.seg then x else x.plus ct mode v)

/-- R339: the strips of a list of elements, in order; `fuel` bounds the strips. -/
def scanAll (ct : Fmt) (mode : Nat) : Nat → Option Val → List ScanEl → List ScanEl
  | 0, _, _ => []
  | n + 1, c, xs =>
    if xs.isEmpty then []
    else
      let ys := scanStrip ct mode c (xs.take 64)
      let c' := match ys.getLast? with | some y => some y.val | none => c
      ys ++ scanAll ct mode n c' (xs.drop 64)

/-- VSCAN, VSCANX, VSSCAN and VSSCANX (R339 to R341). Integer carries are exact within the instruction; the one
written to U[SRCB] saturates to the compute type (log entry 16). -/
def vScan (seg excl : Bool) (opcode : Nat) (g : GroupRef) (f : Fields) (s : State) : State :=
  s.issue g fun x s =>
    s.legal g (vFieldsOk x f { b := true, c := seg, m3 := true }) fun s =>
      match x.desc f.dst.toNat, x.desc f.a.toNat, (if seg then x.desc f.c.toNat else x.desc f.a.toNat) with
      | some d, some a, some q =>
        match computeType [d.fmt, a.fmt], d.fmt with
        | some ct, .num df =>
          let fits := decide (d.n = a.n) && d.apart (if seg then [a, q] else [a])
            && (!seg || (decide (q.n = a.n) && decide (q.fmt = .mask)))
          s.legal g fits fun s => s.eccGuard g (readsOf (if seg then [a, q] else [a]) none) [] fun s =>
            let k := s.core g.core.val
            let start (e : Nat) := seg && decide (q.code k.opc e = 1)
            let carry := scalarOf ct (x.uni f.b.toNat)
            let ys := scanAll ct f.low ((a.n + 63) / 64) (if f.m3 then some carry else none)
              ((upTo a.n).map (fun e => ⟨a.val k.opc e, start e, {}, none⟩))
            let prev := (if f.m3 then carry else .zero false) :: ys.map ScanEl.val
            let outs := if excl then
                prev.zipIdx.map (fun p => if start p.2 then Val.zero false else p.1)
              else ys.map ScanEl.val
            let o1 := (ys.zipIdx).foldl (fun (o : VAcc) p => (o.raised p.1.flags).report p.2 p.1.cause) { core := k }
            let o2 := ((outs.take a.n).zipIdx).foldl (fun (o : VAcc) p =>
              if ct.isInt then
                let (r, sat) := saturate df.width p.1.toInt
                { o with core := d.put o.core p.2 (wrapBits df.width r), intSat := o.intSat || sat }
              else o.store d df f.low f.ieee 0 false p.2 p.1) o1
            let last := (ys.getLast?.map ScanEl.val).getD (.zero false)
            let (cw, sat) : Word × Bool :=
              if ct.isInt then
                let (r, b) := saturate ct.width last.toInt
                (Word.of (wrapBits 64 r), b)
              else (resultWord ct last, false)
            let s1 := s.setGrp g ((s.grp g).setUni f.b.toNat cw)
            s1.veDone g opcode ((a.n + 63) / 64 + 8) 0 a.len { o2 with intSat := o2.intSat || sat }
        | _, _ => s.haltGroup g .illegal
      | _, _, _ => s.haltGroup g .illegal

/-! ## Certified sums -/

/-- R319: a record operand lies at a multiple of 64 inside the operand cache. -/
def recordOk (a : Nat) : Bool := decide (a % 64 = 0) && decide (a + recSize ≤ opcSize)

/-- The record at an offset of the operand cache. -/
def CoreSt.record (k : CoreSt) (a : Nat) : LongSum := LongSum.ofImage (bytesLE k.opc a recSize)

/-- VLSZ (R342). -/
def vLsz (g : GroupRef) (f : Fields) (s : State) : State :=
  s.issue g fun x s =>
    let r := x.off f.dst
    s.legal g (vFieldsOk x f { a := false } && recordOk r) fun s =>
      s.veDone g 0x50 9 0 1 { core := (s.core g.core.val).putOpc r recSize ({} : LongSum).image }

/-- VSUMC and VDOTC (R342, R249). -/
def vSumc (dot : Bool) (g : GroupRef) (f : Fields) (s : State) : State :=
  s.issue g fun x s =>
    s.legal g (vFieldsOk x f { b := dot, mask := true }) fun s =>
      let r := x.off f.dst
      match x.desc f.a.toNat, (if dot then x.desc f.b.toNat else x.desc f.a.toNat) with
      | some a, some b =>
        match vMask x f a with
        | none => s.haltGroup g .illegal
        | some mask =>
          let fp (q : VDesc) := decide (q.fmt = .num .f32) || decide (q.fmt = .num .f64)
          let srcs := (if dot then [a, b] else [a]) ++ maskSrc mask
          let fits := recordOk r && decide (b.n = a.n) && fp a && fp b
            && srcs.all (fun q => !Rng.meets (r, recSize) q.span)
          s.legal g fits fun s => s.eccGuard g ((r, recSize) :: readsOf srcs none) [] fun s =>
            let k := s.core g.core.val
            let es := elems a.n mask k.opc
            let old := k.record r
            let done := es.foldl (fun (p : LongSum × VAcc) e =>
              let va := a.val k.opc e
              let vb := b.val k.opc e
              let q := if dot then Val.mul va vb else (va, none)
              (p.1.enter q.1,
                { (p.2.report e q.2) with anyNan := p.2.anyNan || va.isNan || (dot && vb.isNan) }))
              (old, { core := k, anyNan := old.nan })
            let rec_ : LongSum := { done.1 with terms := satTerms (done.1.terms + es.length) }
            let per := if dot then 16 else 32
            let per := if a.fmt = .num .f64 ∨ b.fmt = .num .f64 then per / 2 else per
            s.veDone g (if dot then 0x52 else 0x51) ((a.n + per - 1) / per) 0 a.len
              { core := k.putOpc r recSize rec_.image, first := if done.2.anyNan then none else done.2.first }
      | _, _ => s.haltGroup g .illegal

/-- VLSADD (R342, R250, R251). -/
def vLsadd (g : GroupRef) (f : Fields) (s : State) : State :=
  s.issue g fun x s =>
    let r := x.off f.dst
    let a := x.off f.a
    let fits := recordOk r && recordOk a && (decide (a = r) || !Rng.meets (r, recSize) (a, recSize))
    s.legal g (vFieldsOk x f {} && fits) fun s => s.eccGuard g [(r, recSize), (a, recSize)] [] fun s =>
      let k := s.core g.core.val
      let (m, bad) := (k.record r).mergeImage (bytesLE k.opc a recSize)
      s.veDone g 0x53 18 0 1 { core := k.putOpc r recSize m.image, badRecord := bad }

/-- VLSRND (R343). -/
def vLsrnd (g : GroupRef) (f : Fields) (s : State) : State :=
  s.issue g fun x s =>
    let a := x.off f.a
    s.legal g (vFieldsOk x f { m3 := true } && recordOk a) fun s => s.eccGuard g [(a, recSize)] [] fun s =>
      let k := s.core g.core.val
      let r := k.record a
      let (code, fl) := r.round (if f.m3 then .f64 else .f32) f.low
      let made := r.pinf && r.ninf && !r.nan
      let t := (s.setGrp g ((s.grp g).setUni f.dst.toNat (Word.of code))).veDone g 0x54 40 0 1
        { core := k, flags := fl, first := if made then some (0, 3) else none }
      if f.low < 4 then t.certify g x.pc [(0, code)] else t

/-! ## Meanings -/

/-- VCVT (R330). -/
def execVcvt (g : GroupRef) (f : Fields) (s : State) : Out := s.run fun s => vCvt g f s
/-- VADD (R329). -/
def execVadd (g : GroupRef) (f : Fields) (s : State) : Out := s.run fun s => vElem (.fp .fadd) g f s
/-- VSUB (R329). -/
def execVsub (g : GroupRef) (f : Fields) (s : State) : Out := s.run fun s => vElem (.fp .fsub) g f s
/-- VMUL (R329). -/
def execVmul (g : GroupRef) (f : Fields) (s : State) : Out := s.run fun s => vElem (.fp .fmul) g f s
/-- VFMA (R329). -/
def execVfma (g : GroupRef) (f : Fields) (s : State) : Out := s.run fun s => vElem (.fp .ffma) g f s
/-- VMIN (R329). -/
def execVmin (g : GroupRef) (f : Fields) (s : State) : Out := s.run fun s => vElem (.fp .fmin) g f s
/-- VMAX (R329). -/
def execVmax (g : GroupRef) (f : Fields) (s : State) : Out := s.run fun s => vElem (.fp .fmax) g f s
/-- VCMP (R329). -/
def execVcmp (g : GroupRef) (f : Fields) (s : State) : Out := s.run fun s => vCmp g f s
/-- VSEL (R319). -/
def execVsel (g : GroupRef) (f : Fields) (s : State) : Out := s.run fun s => vSel g f s
/-- VAND (R319). -/
def execVand (g : GroupRef) (f : Fields) (s : State) : Out := s.run fun s => vElem .and g f s
/-- VOR (R319). -/
def execVor (g : GroupRef) (f : Fields) (s : State) : Out := s.run fun s => vElem .or g f s
/-- VXOR (R319). -/
def execVxor (g : GroupRef) (f : Fields) (s : State) : Out := s.run fun s => vElem .xor g f s
/-- VRSUM (R335). -/
def execVrsum (g : GroupRef) (f : Fields) (s : State) : Out := s.run fun s => vSum false g f s
/-- VRDOT (R335). -/
def execVrdot (g : GroupRef) (f : Fields) (s : State) : Out := s.run fun s => vSum true g f s
/-- VRMAX (R336). -/
def execVrmax (g : GroupRef) (f : Fields) (s : State) : Out := s.run fun s => vExtreme true false 0x22 g f s
/-- VRMIN (R336). -/
def execVrmin (g : GroupRef) (f : Fields) (s : State) : Out := s.run fun s => vExtreme false false 0x23 g f s
/-- VRARGMAX (R336). -/
def execVrargmax (g : GroupRef) (f : Fields) (s : State) : Out := s.run fun s => vExtreme true true 0x24 g f s
/-- VRARGMIN (R336). -/
def execVrargmin (g : GroupRef) (f : Fields) (s : State) : Out := s.run fun s => vExtreme false true 0x25 g f s
/-- VRAND (R336). -/
def execVrand (g : GroupRef) (f : Fields) (s : State) : Out := s.run fun s => vLogicRed .and 0x26 g f s
/-- VROR (R336). -/
def execVror (g : GroupRef) (f : Fields) (s : State) : Out := s.run fun s => vLogicRed .or 0x27 g f s
/-- VRXOR (R336). -/
def execVrxor (g : GroupRef) (f : Fields) (s : State) : Out := s.run fun s => vLogicRed .xor 0x28 g f s
/-- VANY (R338). -/
def execVany (g : GroupRef) (f : Fields) (s : State) : Out :=
  s.run fun s => vSummary 0x30 (fun l _ => b2n (!l.isEmpty)) g f s
/-- VALL (R338). -/
def execVall (g : GroupRef) (f : Fields) (s : State) : Out :=
  s.run fun s => vSummary 0x31 (fun l n => b2n (decide (l.length = n))) g f s
/-- VCOUNT (R338). -/
def execVcount (g : GroupRef) (f : Fields) (s : State) : Out := s.run fun s => vSummary 0x32 (fun l _ => l.length) g f s
/-- VFIRST (R338). -/
def execVfirst (g : GroupRef) (f : Fields) (s : State) : Out :=
  s.run fun s => vSummary 0x33 (fun l _ => l.head?.getD (2 ^ 64 - 1)) g f s
/-- VSCAN (R339). -/
def execVscan (g : GroupRef) (f : Fields) (s : State) : Out := s.run fun s => vScan false false 0x38 g f s
/-- VSCANX (R340). -/
def execVscanx (g : GroupRef) (f : Fields) (s : State) : Out := s.run fun s => vScan false true 0x39 g f s
/-- VSSCAN (R340). -/
def execVsscan (g : GroupRef) (f : Fields) (s : State) : Out := s.run fun s => vScan true false 0x3A g f s
/-- VSSCANX (R340). -/
def execVsscanx (g : GroupRef) (f : Fields) (s : State) : Out := s.run fun s => vScan true true 0x3B g f s
/-- VLSZ (R342). -/
def execVlsz (g : GroupRef) (f : Fields) (s : State) : Out := s.run fun s => vLsz g f s
/-- VSUMC (R342). -/
def execVsumc (g : GroupRef) (f : Fields) (s : State) : Out := s.run fun s => vSumc false g f s
/-- VDOTC (R342). -/
def execVdotc (g : GroupRef) (f : Fields) (s : State) : Out := s.run fun s => vSumc true g f s
/-- VLSADD (R342). -/
def execVlsadd (g : GroupRef) (f : Fields) (s : State) : Out := s.run fun s => vLsadd g f s
/-- VLSRND (R343). -/
def execVlsrnd (g : GroupRef) (f : Fields) (s : State) : Out := s.run fun s => vLsrnd g f s

end Sys2Proof.Machine
end

