-- ==== Sys2Proof/Machine/VectorSf.lean ====
section
/-!
DEFINITION. The vector engine's special functions, table banks, normalization and soft maximum (R345 to R360).
-/

namespace Sys2Proof.Machine

/-! ## Exact rationals -/

/-- A rational number num / den with den above 0. -/
structure Rational where
  num : Int
  den : Nat

/-- A finite value as a rational; 0 for the others. -/
def Val.rat (v : Val) : Rational :=
  let x := Exact.ofVal v
  if 0 ≤ x.q then ⟨x.n * (2 ^ x.q.toNat : Nat), 1⟩ else ⟨x.n, 2 ^ (-x.q).toNat⟩

/-- The sum. -/
def Rational.add (a b : Rational) : Rational := ⟨a.num * b.den + b.num * a.den, a.den * b.den⟩
/-- The difference. -/
def Rational.sub (a b : Rational) : Rational := ⟨a.num * b.den - b.num * a.den, a.den * b.den⟩
/-- The product. -/
def Rational.mul (a b : Rational) : Rational := ⟨a.num * b.num, a.den * b.den⟩
/-- The quotient; the divisor is not 0. -/
def Rational.div (a b : Rational) : Rational :=
  let n := a.num * b.den * b.num.sign
  ⟨n, a.den * b.num.natAbs⟩
/-- The greatest integer not above. -/
def Rational.floor (a : Rational) : Int := a.num / (a.den : Int)
/-- Whether a is less than b. -/
def Rational.lt (a b : Rational) : Bool := decide (a.num * b.den < b.num * a.den)

/-- A rational as a value with 200 significant bits and a last bit that says whether anything is left over: every
rounding of it to a storage format is the rounding of the rational itself. A zero takes the given sign. -/
def Rational.toVal (a : Rational) (zneg : Bool) : Val :=
  let n := a.num.natAbs
  if n = 0 then .zero zneg
  else
    let sh : Int := (bitLen a.den : Int) - bitLen n + 200
    let (k, r) := if 0 ≤ sh then (n * 2 ^ sh.toNat / a.den, n * 2 ^ sh.toNat % a.den)
      else (n / (a.den * 2 ^ (-sh).toNat), n % (a.den * 2 ^ (-sh).toNat))
    .fin (decide (a.num < 0)) (2 * k + b2n (decide (r ≠ 0))) (-sh - 1)

/-- The integer square root, by bits from the top. -/
def isqrt (n : Nat) : Nat :=
  (upTo (bitLen n / 2 + 1)).reverse.foldl (fun r i => if (r + 2 ^ i) * (r + 2 ^ i) ≤ n then r + 2 ^ i else r) 0

/-- The square root of a value that is not negative, with a sticky last bit as in `Rational.toVal`. -/
def Val.sqrt (v : Val) : Val :=
  match v with
  | .fin false m e =>
    let (m1, e1) := if e % 2 = 0 then (m, e) else (2 * m, e - 1)
    let n := m1 * 2 ^ 400
    let r := isqrt n
    .fin false (2 * r + b2n (decide (r * r ≠ n))) (e1 / 2 - 201)
  | v => v

/-! ## Table slots -/

/-- Words of a slot image (R346). -/
def slotWords : Nat := 520

/-- Word `w` of slot `f` of a bank. -/
def CoreSt.tblWord (k : CoreSt) (bank : Bool) (f w : Nat) : Word :=
  Sparse.get (fun _ => 0) k.tbl ((b2n bank * 16 + f) * slotWords + w)

/-- Write a word of a bank. -/
def CoreSt.setTblWord (k : CoreSt) (bank : Bool) (f w : Nat) (v : Word) : CoreSt :=
  { k with tbl := Sparse.set (fun _ => 0) k.tbl ((b2n bank * 16 + f) * slotWords + w) v }

/-- The FP32 value in the low or high half of a word. -/
def halfVal (w : Word) (hi : Bool) : Val := Fmt.f32.decode (if hi then w.toNat / 2 ^ 32 else w.toNat % 2 ^ 32)

/-- The argument reductions of R347. -/
inductive Reduce where
  | none | exp | log | pow | period
  deriving DecidableEq, Repr

/-- A slot's header (R346). -/
structure SlotHead where
  quad : Bool
  reduce : Reduce
  sign : Nat
  below : Nat
  above : Nat
  lo : Val
  hi : Val
  k1 : Val
  k1lo : Val
  belowV : Val
  aboveV : Val
  pinf : Val
  ninf : Val
  zero : Val

/-- The power of two a positive rational is, if it is one. -/
def Rational.log2? (a : Rational) : Option Int :=
  let v := a.toVal false
  match v with
  | .fin false m e => if m = 2 ^ (bitLen m - 1) then some (e + bitLen m - 1) else Option.none
  | _ => Option.none

/-- R346: the header of a slot, when the slot is valid. A reserved ORDER, REDUCE or mode, and an identity mode
under a reduction, make it not valid as well (log entry 18). -/
def CoreSt.slotHead (k : CoreSt) (bank : Bool) (f : Nat) : Option SlotHead :=
  let w (i : Nat) := k.tblWord bank f i
  let h := (w 0).toNat
  let order := bits h 9 2
  let red : Option Reduce := match bits h 11 3 with
    | 0 => some .none | 1 => some .exp | 2 => some .log | 3 => some .pow | 4 => some .period | _ => Option.none
  let below := bits h 16 2
  let above := bits h 18 2
  let lo := halfVal (w 1) false
  let hi := halfVal (w 1) true
  let plain (v : Val) := !v.isNan && !v.isInf
  let segsOk := (upTo 256).all (fun i => decide ((w (9 + 2 * i)).toNat / 2 ^ 32 = 0))
  let spanOk := plain lo && plain hi &&
    (match (hi.rat.sub lo.rat).log2? with
     | some e => let p := e - 8
       let x := Exact.ofVal lo
       decide (p ≤ x.q) || decide (x.n % (2 ^ (p - x.q).toNat : Nat) = 0)
     | Option.none => false)
  match red with
  | Option.none => Option.none
  | some r =>
    let ok := decide (bits h 0 8 = 1) && decide (bits h 8 1 = 1) && (decide (order = 1) || decide (order = 2))
      && decide (below ≠ 3) && decide (above ≠ 3) && (decide (r = .none) || (decide (below ≠ 1) && decide (above ≠ 1)))
      && decide (h / 2 ^ 20 = 0) && decide ((w 5).toNat / 2 ^ 32 = 0) && decide (w 7 = 0) && segsOk && spanOk
    if ok then some {
        quad := decide (order = 2), reduce := r, sign := bits h 14 2, below := below, above := above, lo := lo, hi := hi,
        k1 := halfVal (w 2) false, k1lo := halfVal (w 2) true, belowV := halfVal (w 3) false,
        aboveV := halfVal (w 3) true, pinf := halfVal (w 4) false, ninf := halfVal (w 4) true,
        zero := halfVal (w 5) false }
    else Option.none

/-- SLOT_VALID of the active bank (R346, R363). -/
def CoreSt.slotValid (k : CoreSt) : Nat :=
  (upTo 16).foldl (fun v f => v + (if (k.slotHead k.tblBank f).isSome then 2 ^ f else 0)) 0

/-! ## VSF -/

/-- What an evaluation gives: the value before the flush, the flags and a created NaN. -/
structure SfOut where
  val : Val
  flags : NFlags := {}
  cause : Option Nat := none
  domain : Bool := false

/-- R347: K = K1 + K1_LO carried to 48 bits. -/
def SlotHead.k (h : SlotHead) : Val :=
  match (Val.add 0 h.k1 h.k1lo).1 with
  | .fin n m e =>
    let q : Int := max e (e + bitLen m - 48)
    let (k, r, d) := inUnits m e q
    Val.mk n (if roundsUp 0 0 n k r d then k + 1 else k) q
  | v => v

/-- fma(c, d, b) for an exact rational d, rounded to nearest-even in FP32. -/
def fmaRat (c : Val) (d : Rational) (b : Val) : Val × NFlags × Option Nat :=
  let special := c.isNan || c.isInf || b.isNan || b.isInf
  let r : Val × Option Nat :=
    if special then Val.fma 0 c (d.toVal false) b
    else
      let p := c.rat.mul d
      if p.num = 0 ∧ b.rat.num = 0 then
        Val.add 0 (Val.mul c (d.toVal false)).1 b
      else ((p.add b.rat).toVal false, none)
  let (v, fl) := inType .f32 0 r.1
  (v, fl, r.2)

/-- R345 step 6: evaluate segment `seg` at distance d. -/
def CoreSt.segment (k : CoreSt) (bank : Bool) (f : Nat) (quad : Bool) (seg : Nat) (d : Rational) : SfOut :=
  let w0 := k.tblWord bank f (8 + 2 * seg)
  let w1 := k.tblWord bank f (9 + 2 * seg)
  let c0 := halfVal w0 false
  let c1 := halfVal w0 true
  if quad then
    let (y1, f1, n1) := fmaRat (halfVal w1 false) d c1
    let (y2, f2, n2) := fmaRat y1 d c0
    { val := y2, flags := f1.or f2, cause := n1.orElse (fun _ => n2) }
  else
    let (y, fl, n) := fmaRat c1 d c0
    { val := y, flags := fl, cause := n }

/-- R347: the exponent of a finite magnitude, and its significand in [1, 2). -/
def expSig (v : Val) : Int × Val :=
  match v with
  | .fin _ m e => let x := e + bitLen m - 1; (x, .fin false m (e - x))
  | v => (0, v)

/-- An argument after reduction: the reduced t, and how the result is rebuilt. -/
structure Reduced where
  t : Rational
  rebuild : Val → SfOut

/-- R347: reduce a finite x that is not 0. The outer `none` is the domain error of PERIOD. The inner one says that
the constant K is none that R347 gives a result for (log entry 19). -/
def SlotHead.reduceArg (h : SlotHead) (x : Val) : Option (Option Reduced) :=
  let plain (v : Val) : SfOut := { val := v }
  match h.reduce with
  | .none => some (some ⟨x.rat, plain⟩)
  | .exp =>
    let kk := h.k
    if kk.isNan || kk.isInf then some none
    else
      let p := x.rat.mul kk.rat
      let n := p.floor
      some (some ⟨p.sub ⟨n, 1⟩, fun y =>
        let v := y.scale n
        let big := !v.isInf && !v.isNan && (Fmt.f32.decode Fmt.f32.maxCode).lt v.abs
        if big then { val := .inf false, flags := { overflow := true, inexact := true } } else { val := v }⟩)
  | .log =>
    let (e, m) := expSig x
    some (some ⟨m.rat, fun y =>
      let (v, fl, n) := fmaRat h.k1 ⟨e, 1⟩ y
      { val := v, flags := fl, cause := n }⟩)
  | .pow =>
    let (e, m) := expSig x
    let half (s : Int) : Reduced :=
      if e % 2 = 0 then ⟨m.rat, fun y => plain (y.scale (s * (e / 2)))⟩
      else ⟨m.rat.add ⟨1, 1⟩, fun y => plain (y.scale (s * ((e - 1) / 2)))⟩
    if h.k1.eq (.fin true 1 0) then some (some ⟨m.rat, fun y => plain (y.scale (-e))⟩)
    else if h.k1.eq (.fin false 1 (-1)) then some (some (half 1))
    else if h.k1.eq (.fin true 1 (-1)) then some (some (half (-1)))
    else some none
  | .period =>
    if !(x.abs.lt (.fin false 1 20)) then none
    else
      let kk := h.k
      if kk.isNan || kk.isInf || decide (kk.rat.num = 0) then some none
      else
        let p := x.rat.div kk.rat
        let n := (p.add ⟨1, 2⟩).floor
        some (some ⟨p.sub ⟨n, 1⟩, plain⟩)

/-- R345 steps 2 to 7 for one value; `free` is the value of a result the spec does not give. -/
def CoreSt.sfEval (k : CoreSt) (bank : Bool) (f : Nat) (h : SlotHead) (free : Nat) (x : Val) : SfOut :=
  match x with
  | .nan => { val := .nan }
  | .inf n => { val := if n then h.ninf else h.pinf }
  | .zero n => { val := if n && decide (h.sign = 2) then h.zero.neg else h.zero }
  | .fin n _ _ =>
    if n && decide (h.sign = 1) then { val := .nan, cause := some 4, domain := true }
    else
      let z := if h.sign = 2 ∨ h.sign = 3 then x.abs else x
      let signed (o : SfOut) : SfOut := if n && decide (h.sign = 2) then { o with val := o.val.neg } else o
      match h.reduceArg z with
      | none => { val := .nan, cause := some 4, domain := true }
      | some none => { val := Fmt.f32.decode free }
      | some (some r) =>
        let finish (y : SfOut) : SfOut :=
          let q := r.rebuild y.val
          signed { q with flags := y.flags.or q.flags, cause := y.cause.orElse (fun _ => q.cause) }
        let w := (h.hi.rat.sub h.lo.rat).mul ⟨1, 256⟩
        let eval (t : Rational) : SfOut :=
          let s := ((t.sub h.lo.rat).div w).floor
          k.segment bank f h.quad s.toNat (t.sub (h.lo.rat.add (w.mul ⟨s, 1⟩)))
        if r.t.lt h.lo.rat then
          match h.below with
          | 0 => finish { val := h.belowV }
          | 1 => finish { val := z }
          | _ => finish (eval h.lo.rat)
        else if r.t.lt h.hi.rat then finish (eval r.t)
        else
          match h.above with
          | 0 => finish { val := h.aboveV }
          | 1 => finish { val := z }
          | _ => finish (k.segment bank f h.quad 255 w)

/-- The smallest normal of a format. -/
def Fmt.minNormal (f : Fmt) : Val := .fin false 1 (1 - (f.bias : Int))

/-- R348: whether a result is flushed. -/
def flushes (f : Fmt) (v : Val) : Bool :=
  match v with
  | .fin .. => v.abs.lt f.minNormal
  | _ => false

/-- R352 step 3: a VTLOAD's copy ends: the named slots are written, the others copied from the active bank, and the
banks switch. -/
def CoreSt.tblCopyEnd (k : CoreSt) : CoreSt :=
  match k.tblLoad with
  | none => k
  | some l =>
    let target := !k.tblBank
    let k1 := (upTo 16).foldl (fun (y : CoreSt) f =>
      if l.mask.getLsbD f then y
      else (upTo slotWords).foldl (fun (y : CoreSt) w => y.setTblWord target f w (k.tblWord k.tblBank f w)) y) k
    let k2 := l.words.foldl (fun (y : CoreSt) p => y.setTblWord target (p.1 / slotWords) (p.1 % slotWords) p.2) k1
    { k2 with tblBank := target, tblLoad := none }

/-- R352: an instruction that has to wait for the switch starts after it: by then the copy has ended. -/
def State.tblSettle (s : State) (c : Nat) : State := s.setCore c (s.core c).tblCopyEnd

/-- VSF (R345 to R349). -/
def vSf (g : GroupRef) (f : Fields) (s : State) : State :=
  s.issue g fun x s =>
    s.legal g (vFieldsOk x f { b := true, mask := true, low := 4 }) fun s =>
      match x.desc f.dst.toNat, x.desc f.a.toNat with
      | some d, some a =>
        match vMask x f a, d.fmt with
        | some mask, .num df =>
          let srcs := a :: maskSrc mask
          let fits := decide (d.n = a.n) && d.apart srcs && a.fmt.isFloat && decide (a.fmt ≠ .num .f64)
            && !df.isInt && decide (df ≠ .f64)
          s.legal g fits fun s => s.eccGuard g (readsOf srcs none) [] fun s =>
            let c := g.core.val
            let s := s.tblSettle c
            let k := s.core c
            let key := x.uni f.b.toNat
            let slot := key.toNat % 16
            let es := elems a.n mask k.opc
            let mode := s.veMode c f.low
            match k.slotHead k.tblBank slot with
            | none =>
              let out := es.foldl (fun (o : VAcc) e =>
                (o.store d df mode f.ieee 0 false e .nan).report e (some 4)) { core := k, emptySlot := !es.isEmpty }
              s.veDone g 0x0C ((a.n + 15) / 16) es.length a.len out
            | some h =>
              let out := es.foldl (fun (o : VAcc) e =>
                let y := k.sfEval k.tblBank slot h (Config.free (s.drawn + e)) (a.val k.opc e)
                let fl := flushes df y.val
                let o1 := { (o.raised { y.flags with inexact := y.flags.inexact || fl, underflow := false }) with
                  flush := o.flush || fl, domain := o.domain || y.domain }
                (o1.report e y.cause).store d df mode f.ieee (s.veDraw c d key e) false e
                  (if fl then .zero false else y.val)) { core := k }
              (s.drawN a.n).veDone g 0x0C ((a.n + 15) / 16) es.length a.len out
        | _, _ => s.haltGroup g .illegal
      | _, _ => s.haltGroup g .illegal

/-! ## Table banks -/

/-- VTLOAD (R352): the image is taken as the instruction finds it, under the order of R322. -/
def vTload (g : GroupRef) (f : Fields) (s : State) : State :=
  s.issue g fun x s =>
    let a := x.off f.a
    let mask := (x.uni f.b.toNat).toNat % 2 ^ 16
    let slots := (upTo 16).filter (fun i => mask.testBit i)
    let fits := decide (a % 64 = 0) && slots.all (fun i => decide (a + (i + 1) * 4160 ≤ opcSize))
    s.legal g (vFieldsOk x f { d := false, b := true } && fits) fun s =>
      s.eccGuard g (slots.map (fun i => (a + i * 4160, 4160))) [] fun s =>
        let c := g.core.val
        let s := s.tblSettle c
        let k := s.core c
        let words := slots.flatMap (fun i => (upTo slotWords).map (fun w =>
          (i * slotWords + w, Word.of (bytesLE k.opc (a + i * 4160 + w * 8) 8))))
        s.veDone g 0x60 1 0 1 { core := { k with tblLoad := some ⟨BitVec.ofNat 16 mask, words⟩ } }

/-- VTLOAD_COPY_END (R352). -/
def vtloadCopyEnd (c : CoreIx) (s : State) : State :=
  if (s.core c.val).tblLoad.isSome then (s.tblSettle c.val).answer .ok else s.answer .refused

/-- R353: a write of a table register while TBL_LOADING is 1 is ignored and counted. -/
def State.tblWritable (s : State) (c : Nat) (go : State → State) : State :=
  if (s.core c).tblLoad.isSome then s.count (R.veCntTblRej c) F.veCntTblRej_rejected 1 else go s

/-- R353: SWITCH. -/
def State.tblSwitch (s : State) (c : Nat) : State :=
  s.tblWritable c fun s => let k := s.core c; s.setCore c { k with tblBank := !k.tblBank }

/-- R353, R365: a write of TBL_DATA writes the addressed word of the inactive bank and may advance the address. -/
def State.tblDataWrite (s : State) (c : Nat) (v : Word) : State :=
  s.tblWritable c fun s =>
    let k := s.core c
    let w := s.fld (R.tblAddr c) F.tblAddr_word
    let f := s.fld (R.tblAddr c) F.tblAddr_slot
    let s1 := s.setCore c (k.setTblWord (!k.tblBank) f w v)
    if s1.flag (R.tblAddr c) F.tblAddr_autoInc then
      if w = 519 then (s1.setFld (R.tblAddr c) F.tblAddr_word 0).setFld (R.tblAddr c) F.tblAddr_slot (f + 1)
      else s1.setFld (R.tblAddr c) F.tblAddr_word (w + 1)
    else s1

/-- R365: what a read of TBL_DATA returns; `inactive` picks the bank. -/
def State.tblDataRead (s : State) (c : Nat) (inactive : Bool) : Word :=
  let k := s.core c
  k.tblWord (xor k.tblBank inactive) (s.fld (R.tblAddr c) F.tblAddr_slot) (s.fld (R.tblAddr c) F.tblAddr_word)

/-! ## Normalization -/

/-- A value with the compute type's significand and an unbounded exponent (R355), and whether anything has been
rounded on the way to it. -/
structure Wide where
  val : Val
  inexact : Bool := false

/-- The significand bits of a compute type. -/
def sigBits (ct : Fmt) : Nat := ct.fBits + 1

/-- Round an exact value to nearest-even at the compute type's significand, with no bound on the exponent. -/
def toWide (ct : Fmt) (v : Val) (inexact : Bool) : Wide :=
  match v with
  | .fin n m e =>
    let q : Int := e + bitLen m - sigBits ct
    let (k, r, d) := inUnits m e q
    ⟨.fin n (if roundsUp 0 0 n k r d then k + 1 else k) q, inexact || decide (r ≠ 0)⟩
  | v => ⟨v, inexact⟩

/-- The rounded sum. -/
def Wide.add (ct : Fmt) (a b : Wide) : Wide := toWide ct (Val.add 0 a.val b.val).1 (a.inexact || b.inexact)
/-- The rounded difference. -/
def Wide.sub (ct : Fmt) (a b : Wide) : Wide := toWide ct (Val.add 0 a.val b.val.neg).1 (a.inexact || b.inexact)
/-- The rounded product. -/
def Wide.mul (ct : Fmt) (a b : Wide) : Wide := toWide ct (Val.mul a.val b.val).1 (a.inexact || b.inexact)
/-- The rounded quotient of a finite value by a count. -/
def Wide.divN (ct : Fmt) (a : Wide) (n : Nat) : Wide :=
  toWide ct ((a.val.rat.div ⟨n, 1⟩).toVal a.val.isNeg) a.inexact

/-- 1/sqrt of a value that is not negative: the square root and the division each rounded (R356). -/
def Wide.rsqrt (ct : Fmt) (a : Wide) : Wide :=
  let r := toWide ct a.val.sqrt a.inexact
  match r.val with
  | .fin .. => toWide ct ((Rational.div ⟨1, 1⟩ r.val.rat).toVal false) r.inexact
  | .zero _ => ⟨.inf false, r.inexact⟩
  | .inf _ => ⟨.zero false, r.inexact⟩
  | .nan => r

/-- A compensated partial sum (R355). -/
structure Comp where
  sum : Wide
  err : Wide

/-- Add to a compensated sum another sum and its error term: the exact error of the addition enters the error
term. -/
def Comp.join (ct : Fmt) (a b : Option Comp) : Option Comp :=
  match a, b with
  | some a, some b =>
    let s := a.sum.add ct b.sum
    let exact := (Val.add 0 a.sum.val b.sum.val).1
    let e : Wide := ⟨(Val.add 0 exact s.val.neg).1, false⟩
    some ⟨⟨s.val, a.sum.inexact || b.sum.inexact⟩, (a.err.add ct b.err).add ct e⟩
  | some a, none => some a
  | none, b => b

/-- R355: the sum of finite terms in the order of R335 with compensation, rounded once at the end. -/
def compSum (ct : Fmt) (xs : List Wide) : Wide :=
  let lane (l : Nat) : Option Comp :=
    ((xs.zipIdx).filter (fun p => decide (p.2 % 64 = l))).foldl
      (fun c p => Comp.join ct c (some ⟨p.1, ⟨.zero false, false⟩⟩)) none
  match tree64 (Comp.join ct) ((upTo 64).map lane) with
  | some c :: _ => c.sum.add ct c.err
  | _ => ⟨.zero false, false⟩

/-- The moments of a row (R355, R356): x(0), m′ and var, the mean square with no shift under `rms`. -/
structure Moments where
  s : Val
  m : Wide
  var : Wide

/-- R355, R356: the moments of a row of finite values. -/
def moments (ct : Fmt) (rms : Bool) (xs : List Val) : Moments :=
  let n := xs.length
  let s : Val := if rms then .zero false else xs.headD (.zero false)
  let ds := xs.map (fun x => toWide ct (Val.add 0 x s.neg).1 false)
  let s2 := compSum ct (ds.map (fun d => d.mul ct d))
  let q := s2.divN ct n
  let (m, var) : Wide × Wide :=
    if rms then (⟨.zero false, false⟩, q)
    else
      let m := (compSum ct ds).divN ct n
      (m, q.sub ct (m.mul ct m))
  let var := if var.val.isNeg then (⟨.zero false, var.inexact⟩ : Wide) else var
  ⟨s, m, var⟩

/-- The values of a row. -/
def VDesc.row (d : VDesc) (m : Sparse Byte) (r : Nat) : List Val := (upTo d.len).map (fun k => d.val m (r * d.len + k))

/-- R357: a row with a NaN or an infinity. -/
def rowBad (xs : List Val) : Bool := xs.any (fun v => v.isNan || v.isInf)

/-- R357: the outputs of such a row; an infinity without a NaN makes a created NaN of cause 4. -/
def VAcc.badRow (o : VAcc) (d : VDesc) (f : Fmt) (mode : Nat) (ieee : Bool) (r e0 : Nat) (xs : List Val) : VAcc :=
  let o1 := (upTo d.len).foldl (fun (o : VAcc) k => o.store d f mode ieee 0 false (r * d.len + k) .nan)
    { o with nonfinite := true }
  o1.report e0 (if xs.any Val.isNan then none else some 4)

/-- Write a wide value: rounded to the compute type, then converted. -/
def VAcc.storeWide (o : VAcc) (ct : Fmt) (d : VDesc) (f : Fmt) (mode : Nat) (ieee : Bool) (e : Nat) (w : Wide) : VAcc :=
  let (v, fl) := inType ct 0 w.val
  (o.raised { fl with inexact := fl.inexact || w.inexact }).store d f mode ieee 0 false e v

/-- A plain float format of a normalization operand (R357). -/
def VFmt.float? : VFmt → Option Fmt
  | .num f => if f.isInt then none else some f
  | _ => none

/-- R355: the compute type of a normalization. -/
def normType (f : Fmt) : Fmt := if f = .f64 then .f64 else .f32

/-- VMOMENTS (R355 to R357). -/
def vMoments (g : GroupRef) (f : Fields) (s : State) : State :=
  s.issue g fun x s =>
    s.legal g (vFieldsOk x f {}) fun s =>
      match x.desc f.dst.toNat, x.desc f.a.toNat with
      | some d, some a =>
        match d.fmt.float?, a.fmt.float? with
        | some df, some af =>
          s.legal g (decide (d.len = 2) && decide (d.rows = a.rows) && d.apart [a]) fun s =>
            s.eccGuard g (readsOf [a] none) [] fun s =>
              let k := s.core g.core.val
              let ct := normType af
              let out := (upTo a.rows).foldl (fun (o : VAcc) r =>
                let xs := a.row k.opc r
                if rowBad xs then o.badRow d df f.low f.ieee r (r * a.len) xs
                else
                  let q := moments ct false xs
                  (o.storeWide ct d df f.low f.ieee (r * 2) ((⟨q.s, false⟩ : Wide).add ct q.m)).storeWide ct d df f.low
                    f.ieee (r * 2 + 1) q.var) { core := k }
              s.veDone g 0x40 (a.rows * ((a.len + 63) / 64 + 40)) 0 a.len out
        | _, _ => s.haltGroup g .illegal
      | _, _ => s.haltGroup g .illegal

/-- One output of a normalization (R356): the factor times r, then the affine step, with the cause of a NaN the
affine step creates. -/
def normOut (ct : Fmt) (r factor : Wide) (gamma beta : Option Val) : Wide × Option Nat :=
  let y : Wide := match factor.val with
    | .zero _ => ⟨.zero false, factor.inexact⟩
    | _ => factor.mul ct r
  match gamma, beta with
  | some gm, some bt => let q := Val.fma 0 y.val gm bt; (toWide ct q.1 y.inexact, q.2)
  | some gm, none => let q := Val.mul y.val gm; (toWide ct q.1 y.inexact, q.2)
  | _, _ => (y, none)

/-- VLNORM and VRMSNORM (R355 to R357). -/
def vNorm (rms : Bool) (g : GroupRef) (f : Fields) (s : State) : State :=
  s.issue g fun x s =>
    let affine := f.m3
    s.legal g (vFieldsOk x f { b := true, c := affine, m3 := true }) fun s =>
      match x.desc f.dst.toNat, x.desc f.a.toNat, (if affine then x.desc f.c.toNat else x.desc f.a.toNat) with
      | some d, some a, some w =>
        match d.fmt.float?, a.fmt.float?, w.fmt.float? with
        | some df, some af, some _ =>
          let fits := decide (d.rows = a.rows) && decide (d.len = a.len) && d.apart (if affine then [a, w] else [a])
            && (!affine || (decide (w.len = a.len) && decide (w.rows = if rms then 1 else 2)))
          s.legal g fits fun s => s.eccGuard g (readsOf (if affine then [a, w] else [a]) none) [] fun s =>
            let k := s.core g.core.val
            let ct := normType af
            let e0 := scalarOf ct (x.uni f.b.toNat)
            let badEps := e0.isNan || (e0.isNeg && !e0.eq (.zero false))
            let eps : Val := if badEps then .zero false else e0.abs
            let out := (upTo a.rows).foldl (fun (o : VAcc) row =>
              let xs := a.row k.opc row
              if rowBad xs then o.badRow d df f.low f.ieee row (row * a.len) xs
              else
                let q := moments ct rms xs
                let ve := q.var.add ct ⟨eps, false⟩
                let r := ve.rsqrt ct
                let o1 : VAcc := { o with zeroVar := o.zeroVar || decide (ve.val = .zero false) }
                (xs.zipIdx).foldl (fun (o : VAcc) p =>
                  let fac : Wide :=
                    if rms then ⟨p.1, false⟩ else (toWide ct (Val.add 0 p.1 q.s.neg).1 false).sub ct q.m
                  let gm := if affine then some (w.val k.opc p.2) else none
                  let bt := if affine && !rms then some (w.val k.opc (a.len + p.2)) else none
                  let y := normOut ct r fac gm bt
                  ((o.raised { invalid := y.2.isSome }).report (row * a.len + p.2) y.2).storeWide ct d df f.low f.ieee
                    (row * a.len + p.2) y.1) o1) { core := k, flags := { invalid := badEps } }
            s.veDone g (if rms then 0x42 else 0x41) (a.rows * (2 * ((a.len + 63) / 64) + 40)) 0 a.len out
        | _, _, _ => s.haltGroup g .illegal
      | _, _, _ => s.haltGroup g .illegal

/-! ## Soft maximum -/

/-- Fixed-point bits of the exponential. -/
def expBits : Nat := 400

/-- exp(−a) for a rational a below 128, in units of 2^−400: a Taylor sum at a/256 and eight squarings. -/
def expNeg (a : Rational) : Nat :=
  let one : Nat := 2 ^ expBits
  let r : Int := -(a.num * one / (a.den * 256 : Nat))
  let taylor := (upTo 80).foldl (fun (p : Int × Int) i => (p.1 + p.2, p.2 * r / (one * (i + 1) : Nat))) ((0 : Int), (one : Int))
  (upTo 8).foldl (fun (v : Nat) _ => v * v / one) taylor.1.toNat

/-- R358 step 2: exp(x − m) as an FP32 code, with whether it was flushed: exactly 1 at 0, one of the codes within
2 ulp elsewhere, and +0 below the smallest normal (log entry 17). `cx` and `cm` are the FP32 codes of x and m. -/
def softExp (x m : Val) (cx cm : Nat) : Nat × Bool :=
  let d := m.rat.sub x.rat
  match x with
  | .inf _ => (0, false)
  | _ =>
    if d.num = 0 then (0x3F80_0000, false)
    else if Rational.lt ⟨120, 1⟩ d then (0, true)
    else
      let lo := (Fmt.f32.round 1 true 0 false (.fin false (expNeg d + 1) (-(expBits : Int)))).1
      let code := min (lo - 1 + Config.expPick cx cm % 4) 0x3F80_0000
      if code < 0x80_0000 then (0, true) else (code, false)

/-- What the rows of a soft maximum have counted (R360). -/
structure SmaxStat where
  empty : Nat := 0
  nan : Nat := 0
  inf : Nat := 0
  first : Nat := 0

/-- R360: the status word. -/
def SmaxStat.word (t : SmaxStat) : Word :=
  Word.of (t.empty % 2 ^ 16 + t.nan % 2 ^ 16 * 2 ^ 16 + t.inf % 2 ^ 16 * 2 ^ 32 + t.first * 2 ^ 48
    + b2n (decide (t.empty ≠ 0)) * 2 ^ 56)

/-- The formats of R358. -/
def smaxFmt : VFmt → Option Fmt
  | .num .f32 => some .f32 | .num .f16 => some .f16 | .num .bf16 => some .bf16
  | .num .e4m3 => some .e4m3 | .num .e5m2 => some .e5m2
  | _ => none

/-- R358, R359: one row. -/
def smaxRow (k : CoreSt) (f : Fields) (d a : VDesc) (df : Fmt) (mask : Option VDesc) (row : Nat) (p : VAcc × SmaxStat) :
    VAcc × SmaxStat :=
  let es := (upTo a.len).map (fun i => row * a.len + i)
  let live := es.filter (maskBit mask k.opc)
  let va := a.val k.opc
  let fill (o : VAcc) (v : Nat → Val) : VAcc := es.foldl (fun o e => o.store d df f.low f.ieee 0 false e (v e)) o
  let hot := live.filter (fun e => decide (va e = .inf false))
  if live.any (fun e => (va e).isNan) then
    (fill p.1 (fun _ => .nan), { p.2 with nan := p.2.nan + 1 })
  else if !hot.isEmpty then
    let (c, fl) := Fmt.f32.round 0 true 0 false ((Rational.div ⟨1, 1⟩ ⟨hot.length, 1⟩).toVal false)
    (fill (p.1.raised fl) (fun e => if hot.contains e then Fmt.f32.decode c else .zero false),
      { p.2 with inf := p.2.inf + 1 })
  else
    match extreme true (live.filter (fun e => !(va e).isInf)) va with
    | none =>
      (fill { p.1 with smaxEmpty := true } (fun _ => .zero false),
        { p.2 with empty := p.2.empty + 1, first := if p.2.empty = 0 then row else p.2.first })
    | some (m, _) =>
      let code (v : Val) := (Fmt.f32.round 0 true 0 false v).1
      let ex (e : Nat) := softExp (va e) m (code (va e)) (code m)
      let sum := floatSum .f32 0 (live.map (fun e => e - row * a.len))
        (fun i => (Fmt.f32.decode (ex (row * a.len + i)).1, none))
        (fun i t => Val.add 0 t (Fmt.f32.decode (ex (row * a.len + i)).1))
      let t := (sum.val.getD (.zero false))
      let o1 : VAcc := { (p.1.raised sum.flags) with flush := p.1.flush || live.any (fun e => (ex e).2) }
      let o2 := es.foldl (fun (o : VAcc) e =>
        if live.contains e then
          let (c, fl) := Fmt.f32.round 0 true 0 false (((Fmt.f32.decode (ex e).1).rat.div t.rat).toVal false)
          (o.raised fl).store d df f.low f.ieee 0 false e (Fmt.f32.decode c)
        else o.store d df f.low f.ieee 0 false e (.zero false)) o1
      (o2, p.2)

/-- VSMAX (R358 to R360). -/
def vSmax (g : GroupRef) (f : Fields) (s : State) : State :=
  s.issue g fun x s =>
    s.legal g (vFieldsOk x f { b := true, mask := true }) fun s =>
      match x.desc f.dst.toNat, x.desc f.a.toNat with
      | some d, some a =>
        match vMask x f a, smaxFmt d.fmt, smaxFmt a.fmt with
        | some mask, some df, some _ =>
          let srcs := a :: maskSrc mask
          s.legal g (decide (d.rows = a.rows) && decide (d.len = a.len) && d.apart srcs) fun s =>
            s.eccGuard g (readsOf srcs none) [] fun s =>
              let k := s.core g.core.val
              let (o, st) := (upTo a.rows).foldl (fun p r => smaxRow k f d a df mask r p)
                (({ core := k } : VAcc), ({} : SmaxStat))
              (s.setGrp g ((s.grp g).setUni f.b.toNat st.word)).veDone g 0x43
                (a.rows * ((a.len + 127) / 128 + 2 * ((a.len + 15) / 16) + 24)) 0 a.len o
        | _, _, _ => s.haltGroup g .illegal
      | _, _ => s.haltGroup g .illegal

/-! ## Meanings -/

/-- VSF (R345). -/
def execVsf (g : GroupRef) (f : Fields) (s : State) : Out := s.run fun s => vSf g f s
/-- VTLOAD (R352). -/
def execVtload (g : GroupRef) (f : Fields) (s : State) : Out := s.run fun s => vTload g f s
/-- VTLOAD_COPY_END (R352). -/
def execVtloadCopyEnd (c : CoreIx) (s : State) : Out := s.run fun s => vtloadCopyEnd c s
/-- VMOMENTS (R355). -/
def execVmoments (g : GroupRef) (f : Fields) (s : State) : Out := s.run fun s => vMoments g f s
/-- VLNORM (R356). -/
def execVlnorm (g : GroupRef) (f : Fields) (s : State) : Out := s.run fun s => vNorm false g f s
/-- VRMSNORM (R356). -/
def execVrmsnorm (g : GroupRef) (f : Fields) (s : State) : Out := s.run fun s => vNorm true g f s
/-- VSMAX (R358). -/
def execVsmax (g : GroupRef) (f : Fields) (s : State) : Out := s.run fun s => vSmax g f s

end Sys2Proof.Machine
end

