-- ==== Sys2Proof/Machine/Ecdsa.lean ====
section
/-!
DEFINITION. Verification of ECDSA signatures over the curve P-384 of FIPS 186 (R578, R652, R676).
-/

namespace Sys2Proof.Machine

/-- The field of P-384: 2^384 - 2^128 - 2^96 + 2^32 - 1. -/
def ecP : Nat :=
  0xfffffffffffffffffffffffffffffffffffffffffffffffffffffffffffffffeffffffff0000000000000000ffffffff
/-- The coefficient b. -/
def ecB : Nat :=
  0xb3312fa7e23ee7e4988e056be3f82d19181d9c6efe8141120314088f5013875ac656398d8a2ed19d2a85c8edd3ec2aef
/-- The order of the base point. -/
def ecN : Nat :=
  0xffffffffffffffffffffffffffffffffffffffffffffffffc7634d81f4372ddf581a0db248b0a77aecec196accc52973

/-- A point in projective coordinates with weights 2 and 3; Z = 0 is the point at infinity. -/
structure EcPoint where
  x : Nat
  y : Nat
  z : Nat
  deriving DecidableEq, Repr

/-- The base point. -/
def ecG : EcPoint where
  x := 0xaa87ca22be8b05378eb1c71ef320ad746e1d3b628ba79b9859f741e082542a385502f25dbf55296c3a545e3872760ab7
  y := 0x3617de4a96262c6f5d9e98bf9292dc29f8f41dbd289a147ce9da3113b5f0b8c00a60b1ce1d7e819d7a431d7c90ea0e5f
  z := 1

/-- Subtraction in the field. -/
def ecSub (a b : Nat) : Nat := (a + ecP - b % ecP) % ecP

/-- Twice a point; the curve's a is -3. -/
def EcPoint.double (q : EcPoint) : EcPoint :=
  if q.z = 0 ∨ q.y = 0 then ⟨1, 1, 0⟩
  else
    let zz := q.z * q.z % ecP
    let yy := q.y * q.y % ecP
    let s := 4 * q.x * yy % ecP
    let m := 3 * ecSub q.x zz * (q.x + zz) % ecP
    let x := ecSub (m * m) (2 * s)
    ⟨x, ecSub (m * ecSub s x) (8 * yy * yy), 2 * q.y * q.z % ecP⟩

/-- The sum of two points. -/
def EcPoint.add (p q : EcPoint) : EcPoint :=
  if p.z = 0 then q
  else if q.z = 0 then p
  else
    let z1 := p.z * p.z % ecP
    let z2 := q.z * q.z % ecP
    let u1 := p.x * z2 % ecP
    let u2 := q.x * z1 % ecP
    let s1 := p.y * z2 * q.z % ecP
    let s2 := q.y * z1 * p.z % ecP
    if u1 = u2 then (if s1 = s2 then p.double else ⟨1, 1, 0⟩)
    else
      let h := ecSub u2 u1
      let r := ecSub s2 s1
      let hh := h * h % ecP
      let v := u1 * hh % ecP
      let x := ecSub (ecSub (r * r) (hh * h)) (2 * v)
      ⟨x, ecSub (r * ecSub v x) (s1 * (hh * h % ecP)), h * p.z * q.z % ecP⟩

/-- A multiple of a point, bit by bit from bit n - 1 down. -/
def EcPoint.mul (p : EcPoint) (k : Nat) : Nat → EcPoint → EcPoint
  | 0, acc => acc
  | n + 1, acc =>
    let d := acc.double
    p.mul k n (if k.testBit n then d.add p else d)

/-- A power modulo m, bit by bit from bit n - 1 down. -/
def powMod (m b e : Nat) : Nat → Nat → Nat
  | 0, acc => acc
  | n + 1, acc =>
    let d := acc * acc % m
    powMod m b e n (if e.testBit n then d * b % m else d)

/-- The inverse modulo a prime of 384 bits. -/
def invMod (m a : Nat) : Nat := powMod m (a % m) (m - 2) 384 1

/-- Whether a pair of coordinates is a point of the curve. -/
def onCurve (x y : Nat) : Bool :=
  decide (x < ecP) && decide (y < ecP) && decide (y * y % ecP = (x * x * x + (ecP - 3) * x + ecB) % ecP)

/-- Whether (r, s) is a valid signature of the digest `e` under the public key (x, y). -/
def ecdsaVerify (x y e r s : Nat) : Bool :=
  if !onCurve x y || decide (r = 0) || decide (ecN ≤ r) || decide (s = 0) || decide (ecN ≤ s) then false
  else
    let w := invMod ecN s
    let inf : EcPoint := ⟨1, 1, 0⟩
    let q := (ecG.mul (e * w % ecN) 384 inf).add ((⟨x, y, 1⟩ : EcPoint).mul (r * w % ecN) 384 inf)
    let zi := invMod ecP q.z
    decide (q.z ≠ 0) && decide (q.x * zi % ecP * zi % ecP % ecN = r)

/-- Big-endian bytes as a number. -/
def ofBytesBE (bs : List Byte) : Nat := ofBytes bs.reverse

/-! ## Trust (R653, R654) -/

/-- The roles of R653. -/
inductive Role where
  | onyxFw | hostFw | bobbinFw | weave | debugUnlock
  deriving DecidableEq, Repr

/-- The place of a role in the table of R653. -/
def Role.bit : Role → Nat
  | .onyxFw => 0 | .hostFw => 1 | .bobbinFw => 2 | .weave => 3 | .debugUnlock => 4

/-- R653: the manifest's entry of a key that is trusted for a role. -/
def State.trusted (s : State) (keyId : List Byte) (r : Role) : Option ManEntry :=
  ((s.onyx.manifest.take 16).zipIdx.find? (fun e =>
    decide (e.1.keyId = keyId) && e.1.roles.getLsbD r.bit && !s.onyx.revoked.getLsbD e.2)).map (fun e => e.1)

/-- Whether a digest carries a valid signature of a key trusted for a role. -/
def State.signed (s : State) (keyId : List Byte) (r : Role) (digest sigR sigS : List Byte) : Bool :=
  match s.trusted keyId r with
  | some k => ecdsaVerify k.x k.y (ofBytesBE digest) (ofBytesBE sigR) (ofBytesBE sigS)
  | none => false

end Sys2Proof.Machine
end

