-- ==== Sys2Proof/Machine/MemCtl.lean ====
section
/-!
DEFINITION. Stacked memory: the address map, ranges, regulators, codewords with their keys and poison, sliver
reads, the reduction buffer, scrub, refresh and zeroization (R398 to R442).
-/

namespace Sys2Proof.Machine

/-! ## The package copy and the address map -/

/-- A register of the package copy. -/
def State.pk (s : State) (a : Nat) : Word := Sparse.get regReset s.pkg a

/-- Store a register of the package copy. -/
def State.setPk (s : State) (a : Nat) (v : Word) : State := { s with pkg := Sparse.set regReset s.pkg a v }

/-- Write a broadcast register in every compute die in service and in the package copy (R401, R409); `at_` gives
its address in die n. -/
def State.broadcast (s : State) (at_ : Nat → Nat) (v : Word) : State :=
  ((upTo 8).foldl (fun (t : State) n => if t.cdUp n then t.setReg (at_ n) v else t) s).setPk (at_ 0) v

/-- The group code j of window w. -/
def State.mapCode (s : State) (w : Nat) : Nat := F.mcMap_group.get (s.pk (R.mcMap 0 w))

/-- Where a byte lies (R400): its home die and its die-local address. -/
structure Place where
  cd : Nat
  dla : Nat
  deriving DecidableEq, Repr

/-- R400. -/
def State.place (s : State) (pa : Nat) : Place :=
  let w := bits pa 37 3
  let j := s.mapCode w
  let k := 2 ^ j
  let b := w - w % k
  let ga := w % k * 2 ^ 37 + pa % 2 ^ 37
  let i := bits ga 12 j ^^^ bits ga 24 j
  ⟨b + i, bits ga (12 + j) 25 * 2 ^ 12 + ga % 2 ^ 12⟩

/-- The physical cell of a byte. -/
def Place.cell (p : Place) : Nat := p.cd * 2 ^ 37 + p.dla

/-- R400: the pseudo-channel index of a die-local address. -/
def Place.pc (p : Place) : Nat := bits p.dla 8 7 ^^^ bits p.dla 15 7 ^^^ bits p.dla 22 7

/-- The controller of a byte. -/
def Place.ctrl (p : Place) : Nat := p.pc / 64

/-- R400: the address within the pseudo-channel. -/
def Place.pca (p : Place) : Nat := p.dla / 2 ^ 15 * 2 ^ 8 + p.dla % 2 ^ 8

/-- R403: whether an address falls in a save area. -/
def Place.save (p : Place) : Bool := decide (0x1F_FF00_0000 ≤ p.dla)

/-- R738: ARG0 of a record of class MEM. -/
def Place.memArg (p : Place) : Word :=
  let a := p.pca
  Word.of (2 * p.cd + p.ctrl + bits p.pc 1 5 * 2 ^ 4 + p.pc % 2 * 2 ^ 9 + bits a 8 6 * 2 ^ 10 + bits a 16 14 * 2 ^ 16
    + bits a 14 2 * 2 ^ 34)

/-- The row of a byte, for the count of R432. -/
def Place.row (p : Place) : Nat := ((p.cd * 128 + p.pc) * 64 + bits p.pca 8 6) * 2 ^ 14 + bits p.pca 16 14

/-- Bytes of DRAM. -/
def dramSize : Nat := 2 ^ 40

/-! ## Ranges and keys -/

/-- The number of a requester tag (R405). -/
def ReqTag.num : ReqTag → Nat
  | .part p => p.toNat
  | .host => 8
  | .onyx => 9

/-- The valid entries of the range table in order (R406). -/
def State.ranges (s : State) : List OwnedRange :=
  (upTo 32).filterMap (fun i =>
    let b := s.pk (R.rangeBase 0 i)
    let l := s.pk (R.rangeLimit 0 i)
    if F.rangeBase_valid.get b = 1 then
      some ⟨F.rangeBase_base.get b * 2 ^ 21, (F.rangeLimit_limit.get l + 1) * 2 ^ 21, F.rangeBase_owner.get b,
        decide (F.rangeBase_host.get b = 1)⟩
    else none)

/-- The range an address belongs to. -/
def rangeAt (rs : List OwnedRange) (pa : Nat) : Option OwnedRange :=
  rs.find? (fun r => decide (r.lo ≤ pa) && decide (pa < r.hi))

/-- The identity of key `i`: partitions 0 to 7, and 8 the save-area key. -/
def State.key (s : State) (i : Nat) : Nat := Sparse.get (fun _ => 0) s.keys i

/-- The key index of an address (R434). -/
def keyIndex (rs : List OwnedRange) (pa : Nat) : Nat := match rangeAt rs pa with | some r => r.owner | none => 8

/-- Whether the controllers of a die hold the save-area key. -/
def State.sakLoaded (s : State) (cd : Nat) : Bool := Sparse.get (fun _ => false) s.sak cd

/-- Whether a die holds key `i`. -/
def State.keyLoaded (s : State) (cd i : Nat) : Bool :=
  if i = 8 then s.sakLoaded cd else s.flag (R.mcPart cd i) F.mcPart_keyLoaded

/-- Why a controller refuses a request (R407). -/
inductive Refuse where
  | range | key | mirror
  deriving DecidableEq, Repr

/-- R403, R407: whether a request of a tag to an address of a die in service is refused. -/
def State.refuses (s : State) (tag : ReqTag) (pa : Nat) : Option Refuse :=
  let p := s.place pa
  let rs := s.ranges
  let ok := match rangeAt rs pa with
    | none => decide (tag = .onyx)
    | some r => decide (tag = .onyx)
        || (decide (tag.num = r.owner) && decide (F.mcPart_enable.get (s.pk (R.mcPart 0 r.owner)) = 1))
        || (decide (tag = .host) && r.host)
  if p.save || !ok then some .range
  else if s.keyLoaded p.cd (keyIndex rs pa) then none
  else some .key

/-- Whether an address lies in a mirrored region (R630). -/
def State.mirrored (s : State) (pa : Nat) : Bool :=
  (upTo 8).any (fun i =>
    let b := R.mirRgnBase i
    s.flag b F.mirRgnBase_valid && decide (s.fld b F.mirRgnBase_base * 2 ^ 21 ≤ pa)
      && decide (pa < (s.fld (R.mirRgnLimit i) F.mirRgnLimit_limit + 1) * 2 ^ 21))

/-- Whether the module is in MIRROR in a role: false primary, true secondary. -/
def State.mirroring (s : State) (role : Bool) : Bool :=
  decide (s.fld R.twnCtrl F.twnCtrl_mode = 1) && decide (s.flag R.twnCtrl F.twnCtrl_role = role)

/-- R633: the secondary's mirrored regions take no write but the apply engine's. -/
def State.mirBlocks (s : State) (pa : Nat) : Bool := s.mirroring true && s.mirrored pa

/-- R403, R407, R633: whether a write is refused. -/
def State.refusesWrite (s : State) (tag : ReqTag) (pa : Nat) : Option Refuse :=
  (s.refuses tag pa).or (if s.mirBlocks pa then some .mirror else none)

/-- R408: the effects of a refusal; one under R633 is an error response and nothing more. -/
def State.refuse (s : State) (tag : ReqTag) (pa : Nat) (why : Refuse) : State :=
  if why = .mirror then s else
  let p := s.place pa
  let a := R.mcCntXpart p.cd p.ctrl
  let s1 := s.count a (if why = .key then F.mcCntXpart_nokey else F.mcCntXpart_refused) 1
  let s2 := s1.rasWrite { det 1 3 (p.cd + 1) p.ctrl 1 with
    addr := some (BitVec.ofNat 48 pa), arg0 := Word.of tag.num }
  s2.audit 0x0002 (p.cd + 1) p.ctrl (Word.of pa) (Word.of tag.num)

/-- R402: a write whose home die is out of service is discarded, and the spindle records it. -/
def State.discardWrite (s : State) (tag : ReqTag) (pa : Nat) : State :=
  s.rasWrite { det 1 3 0 0 3 with addr := some (BitVec.ofNat 48 pa), arg0 := Word.of tag.num }

/-! ## Regulators -/

/-- The partition whose regulator holds a request of a tag to an address (R405, R410): HOST is charged to the range's
owner; ONYX is not regulated. -/
def State.payer (s : State) (tag : ReqTag) (pa : Nat) : Option Nat :=
  match tag with
  | .part p => some p.toNat
  | .host => (rangeAt s.ranges pa).map OwnedRange.owner
  | .onyx => none

/-- R410, R412: admit `cost` codewords of a tag to an address: tokens are taken, borrowed under WC, or the request
waits. -/
def State.chargeNow (s : State) (tag : ReqTag) (pa cost : Nat) : State :=
  let q := s.place pa
  match s.payer tag pa with
  | none => s
  | some p =>
    let rg := R.mcReg q.cd q.ctrl p
    let st := R.mcRegStat q.cd q.ctrl p
    let counted (t : State) := t.count (R.mcCntCw q.cd q.ctrl p) F.mcCntCw_codewords cost
    if !s.flag rg F.mcReg_enable then counted s
    else if cost ≤ s.fld st F.mcRegStat_tokens then
      counted (s.setFld st F.mcRegStat_tokens (s.fld st F.mcRegStat_tokens - cost))
    else if s.flag rg F.mcReg_wc then counted (s.count (R.mcCntBorrow q.cd q.ctrl) F.mcCntBorrow_borrowed cost)
    else s.wait

/-- R411: one regulator refills at the close of `n` windows. -/
def State.refill (s : State) (n cd c p : Nat) : State :=
  let rg := s.reg (R.mcReg cd c p)
  let st := R.mcRegStat cd c p
  s.setFld st F.mcRegStat_tokens (min (s.fld st F.mcRegStat_tokens + n * F.mcReg_rate.get rg) (F.mcReg_burst.get rg))

/-- R411: the next `n` windows of the regulators close. -/
def State.passWindows (s : State) (n : Nat) : State :=
  let s0 := s.until ((s.tick / 64 + n) * 64)
  (upTo 8).foldl (fun (t : State) cd =>
    if t.cdUp cd then
      (upTo 2).foldl (fun t c => (upTo 8).foldl (fun t p => t.refill n cd c p) t) t
    else t) s0

/-- R412, R414: a request that finds too few tokens waits at its regulator while windows close; one that no refill
will admit waits for good. -/
def State.charge (s : State) (tag : ReqTag) (pa cost : Nat) : State :=
  let t := s.chargeNow tag pa cost
  if !t.hold || s.hold then t
  else
    let q := s.place pa
    let p := (s.payer tag pa).getD 0
    let rg := s.reg (R.mcReg q.cd q.ctrl p)
    let rate := F.mcReg_rate.get rg
    let lack := cost - s.fld (R.mcRegStat q.cd q.ctrl p) F.mcRegStat_tokens
    if rate = 0 ∨ F.mcReg_burst.get rg < cost then t
    else (s.passWindows ((lack + rate - 1) / rate)).chargeNow tag pa cost

/-- R410: a writeback is charged to the range's owner. -/
def State.chargeOwner (s : State) (pa cost : Nat) : State :=
  match rangeAt s.ranges pa with
  | some r => s.charge (.part (BitVec.ofNat 3 r.owner)) pa cost
  | none => s

/-! ## Codewords -/

/-- The tag of a codeword nobody has written: zeroed by the latest run over it, or never written. -/
def State.blankTag (s : State) (cd pa : Nat) : CwTag :=
  match s.zeroed.find? (fun z => decide (z.cd = cd) && decide (z.lo ≤ pa) && decide (pa < z.hi)) with
  | some z => ⟨z.keys.getD (z.named.getD (keyIndex z.ranges pa)) 0, pa / 64⟩
  | none => {}

/-- The tag of the codeword at an address. -/
def State.cwTag (s : State) (pa : Nat) : CwTag :=
  let p := s.place pa
  match s.tags.find? (fun e => decide (e.1 = p.cell / 64)) with
  | some e => e.2
  | none => s.blankTag p.cd pa

/-- The plaintext of the codeword at an address, as a number (R434). -/
def State.cwData (s : State) (pa : Nat) : Nat :=
  let base := pa / 64 * 64
  let cell := (s.place base).cell
  let raw := bytesLE s.dram cell 64
  let t := s.cwTag base
  let k := s.key (keyIndex s.ranges pa)
  if t.key = 0 ∨ (t.key = k ∧ t.pa = pa / 64) then raw else Config.garble t.key k (pa / 64) raw % 2 ^ 512

/-- Whether the codeword at an address is poisoned. -/
def State.cwBad (s : State) (pa : Nat) : Bool := Sparse.get (fun _ => false) s.bad ((s.place pa).cell / 64)

/-- Write the poison pattern, or clear it. -/
def State.setBad (s : State) (pa : Nat) (b : Bool) : State :=
  { s with bad := Sparse.set (fun _ => false) s.bad ((s.place pa).cell / 64) b }

/-! ## The mirror's journal (R630 to R637) -/

/-- Codewords of an entry of the journal. -/
def TwnRec.words : TwnRec → Nat
  | .word _ _ _ => 1
  | .zeros lo hi => (hi - lo) / 64
  | .mark _ => 0

/-- Whether the twin link carries requests: UP or DEGRADED. -/
def State.twinUp (s : State) : Bool := decide (3 ≤ s.fld R.twnStat F.twnStat_state)

/-- R630, R634: whether the primary records codeword writes. -/
def State.recording (s : State) : Bool :=
  s.mirroring false && (s.twinUp || !s.flag R.mirCtrl F.mirCtrl_onLinkLoss)

/-- R631: codewords that the journal tail may hold, 72 B each. -/
def State.tailRoom (s : State) : Nat := s.fld R.mirCtrl F.mirCtrl_windowMb * 2 ^ 20 / 72

/-- R631, R637: whether a codeword write of the primary has to wait. -/
def State.mirWaits (s : State) (pa : Nat) : Bool :=
  s.mirroring false && s.mirrored pa && (s.flag R.twnStat F.twnStat_fenced
    || (s.recording && decide (s.tailRoom ≤ (s.twn.tail.map TwnRec.words).sum)))

/-- An entry joins the journal tail. -/
def State.mirSend (s : State) (r : TwnRec) : State := { s with twn := { s.twn with tail := s.twn.tail ++ [r] } }

/-- R630: a codeword that has been written is recorded. -/
def State.mirWord (s : State) (pa v : Nat) (poison : Bool) : State :=
  if s.recording && s.mirrored pa then s.mirSend (.word (pa / 64 * 64) (BitVec.ofNat 512 v) poison) else s

/-- R630: zeroed codewords are recorded region by region. -/
def State.mirZeros (s : State) (lo hi : Nat) : State :=
  (upTo 8).foldl (fun (t : State) i =>
    let b := R.mirRgnBase i
    let from_ := max lo (t.fld b F.mirRgnBase_base * 2 ^ 21)
    let till := min hi ((t.fld (R.mirRgnLimit i) F.mirRgnLimit_limit + 1) * 2 ^ 21)
    if t.recording && t.flag b F.mirRgnBase_valid && decide (from_ < till) then t.mirSend (.zeros from_ till) else t) s

/-- R431: a whole codeword is written under the key of its range's owner; poison is cleared. -/
def State.cwStore (s : State) (pa v : Nat) : State :=
  let base := pa / 64 * 64
  let cell := (s.place base).cell
  let s1 := s.setBad pa false
  { s1 with
    dram := putLE s1.dram cell 64 v
    tags := Sparse.set (fun _ => {}) s1.tags (cell / 64) ⟨s1.key (keyIndex s1.ranges pa), pa / 64⟩ }

/-- R630 to R633, R637: a codeword write meets the mirror: refused at the secondary, waiting or recorded at the
primary. -/
def State.cwPut (s : State) (pa v : Nat) : State :=
  if s.mirBlocks pa then s else if s.mirWaits pa then s.wait else (s.cwStore pa v).mirWord pa v false

/-- R431: the poison pattern is written into a codeword, which the mirror records. -/
def State.cwPoison (s : State) (pa : Nat) : State :=
  if s.mirBlocks pa then s else if s.mirWaits pa then s.wait else (s.setBad pa true).mirWord pa 0 true

/-- The bytes of `old` replaced by those of `new` where `en` is set; `n` bytes. -/
def mergeBytes (n old new en : Nat) : Nat :=
  (upTo n).foldl (fun v i =>
    v + (if en.testBit i then bits new (8 * i) 8 else bits old (8 * i) 8) * 2 ^ (8 * i)) 0

/-- R419, R431: write the enabled bytes of a codeword; a partial write of a poisoned codeword writes nothing. -/
def State.cwWrite (s : State) (pa v en : Nat) : State :=
  if en % 2 ^ 64 = 0 then s
  else if en % 2 ^ 64 = 2 ^ 64 - 1 then s.cwPut pa v
  else if s.cwBad pa then s
  else s.cwPut pa (mergeBytes 64 (s.cwData pa) v en)

/-- A record of class MEM (R738). -/
def State.memRecord (s : State) (pa sev code arg1 : Nat) : State :=
  let p := s.place pa
  s.rasWrite { det (if sev = 0 then 0 else 1) 2 (p.cd + 1) p.ctrl code with
    addr := some (BitVec.ofNat 48 (pa / 64 * 64)), arg0 := p.memArg, arg1 := Word.of arg1 }

/-- R430, R431, R432: what a read of a codeword does for the ECC condition it finds. -/
def State.eccRead (s : State) (pa : Nat) (cond : CodewordCond) : State :=
  let p := s.place pa
  let ce := R.mcCntCe p.cd p.ctrl
  let ue := R.mcCntUe p.cd p.ctrl
  if s.cwBad pa then (s.count ue F.mcCntUe_poisonReads 1).memRecord pa 1 3 0
  else match cond with
  | .clean => s
  | .corrected sym =>
    let s1 := (s.count ce F.mcCntCe_corrected 1).memRecord pa 0 1 (sym.val + 256)
    let n := Sparse.get (fun _ => 0) s1.rowCe p.row + 1
    let s2 : State := { s1 with rowCe := Sparse.set (fun _ => 0) s1.rowCe p.row n }
    if s2.fld (R.eccCtrl p.cd) F.eccCtrl_rowThr ≤ n then
      { s2.setFld (R.eccCtrl p.cd) F.eccCtrl_pprPending 1 with
        marked := if s2.marked.contains p.row then s2.marked else s2.marked ++ [p.row] }
    else s2
  | .uncorrectable => ((s.cwPoison pa).count ue F.mcCntUe_uncorrected 1).memRecord pa 1 2 0
  | .onDie => (s.count ce F.mcCntCe_dieEcc 1).memRecord pa 0 4 0

/-! ## Lines -/

/-- The address of a line. -/
def linePa (line : Nat) : Nat := line * 128

/-- The codeword q of a line. -/
def Line.cw (l : Line) (q : Nat) : Nat := bits l.data.toNat (512 * q) 512

/-- Read a line from its two codewords. -/
def State.dramLine (s : State) (line : Nat) : State × Line :=
  let a := linePa line
  let s1 := (s.eccRead a .clean).eccRead (a + 64) .clean
  (s1, ⟨BitVec.ofNat 1024 (s1.cwData a + s1.cwData (a + 64) * 2 ^ 512),
    BitVec.ofNat 2 (b2n (s1.cwBad a) + 2 * b2n (s1.cwBad (a + 64)))⟩)

/-- Write a codeword of a line under byte enables; a poisoned codeword written whole takes the poison pattern
(R733). -/
def State.dramHalf (s : State) (line : Nat) (l : Line) (en q : Nat) : State :=
  let a := linePa line + 64 * q
  let e := bits en (64 * q) 64
  if l.poison.getLsbD q then (if e = 0 then s else s.cwPoison a) else s.cwWrite a (l.cw q) e

/-- Write a line under byte enables. -/
def State.dramWrite (s : State) (line : Nat) (l : Line) (en : Nat) : State :=
  (s.dramHalf line l en 0).dramHalf line l en 1

/-- All 128 byte enables. -/
def allBytes : Nat := 2 ^ 128 - 1

/-! ## The reduction buffer -/

/-- The line of a reduction buffer. -/
def State.redLine (s : State) (line : Nat) : Option Line :=
  (s.red.find? (fun r => decide (r.line = line))).map RedLine.val

/-- R424: a buffered line is written back and released. -/
def State.redFlush (s : State) (line : Nat) : State :=
  match s.redLine line with
  | none => s
  | some l =>
    let s1 : State := { s with red := s.red.filter (fun r => decide (r.line ≠ line)) }
    (s1.chargeOwner (linePa line) 2).dramWrite line l allBytes

/-- Lines of a controller's reduction buffer. -/
def redCapacity : Nat := 512

/-- The buffered lines of the controller of an address. -/
def State.redOf (s : State) (line : Nat) : List Nat :=
  let p := s.place (linePa line)
  (s.red.map RedLine.line).filter (fun l =>
    let q := s.place (linePa l)
    decide (q.cd = p.cd) && decide (q.ctrl = p.ctrl))

/-- R424, R425: bring a line into its reduction buffer; a full buffer evicts a free choice of its lines. -/
def State.redFill (s : State) (line : Nat) : State :=
  if (s.redLine line).isSome then s
  else
    let held := s.redOf line
    let s1 := if redCapacity ≤ held.length then s.draw.redFlush (held.getD (s.free % held.length) 0) else s
    let (s2, l) := (s1.chargeOwner (linePa line) 2).dramLine line
    { s2 with red := s2.red ++ [⟨line, l⟩] }

/-- Store a buffered line. -/
def State.redPut (s : State) (line : Nat) (l : Line) : State :=
  { s with red := s.red.map (fun r => if r.line = line then { r with val := l } else r) }

/-! ## Answers -/

/-- The words of a number of `n` words. -/
def wordsOf (n v : Nat) : List Word := (upTo n).map (fun i => Word.of (v / 2 ^ (64 * i)))

/-- Answer with data, or with poison. -/
def State.answerData (s : State) (poison : Bool) (ws : List Word) : State :=
  if poison then s.answer .poison else s.answer .ok ws

/-! ## Controller requests -/

/-- A request within one codeword once it is admitted. -/
def State.serveCw (s : State) (r : MemRequest) : State :=
  let pa := r.pa.toNat
  let off := pa % 64
  match r.write with
  | none =>
    let s1 := s.eccRead pa r.cond
    s1.answerData (s1.cwBad pa) (wordsOf 8 (s1.cwData pa))
  | some bs =>
    let n := min bs.length (64 - off)
    (s.cwWrite pa (ofBytes (bs.take n) * 2 ^ (8 * off)) ((2 ^ n - 1) * 2 ^ off)).answer .ok

/-- Codewords a request within one codeword moves (R410): a partial write is a read-modify-write. -/
def MemRequest.cost (r : MemRequest) : Nat :=
  match r.write with
  | some bs => if bs.length = 64 ∧ r.pa.toNat % 64 = 0 then 1 else 2
  | none => 1

/-- CONTROLLER_REQUEST (R405 to R431). A request that waits at its regulator leaves HELD set and counts a tick. -/
def controllerRequest (k : CtrlRef) (r : MemRequest) (s : State) : State :=
  let pa := r.pa.toNat
  let p := s.place pa
  if p.cd ≠ k.cd.val ∨ p.ctrl ≠ k.c.val then s.answer .refused
  else if !s.cdUp p.cd then
    match r.write with
    | none => s.answer .poison
    | some _ => (s.discardWrite r.tag pa).answer .ok
  else match (if r.write.isSome then s.refusesWrite r.tag pa else s.refuses r.tag pa) with
  | some why => (s.refuse r.tag pa why).answer .error
  | none =>
    let t := (s.awake p.cd).chargeNow r.tag pa r.cost
    if t.hold then
      match r.tag with
      | .part q =>
        if s.inI4 p.cd then s.answer .held
        else ((s.setFld (R.mcRegStat p.cd p.ctrl q.toNat) F.mcRegStat_held 1).count
          (R.mcCntWait p.cd p.ctrl q.toNat) F.mcCntWait_waitTicks 1).answer .held
      | _ => s.answer .held
    else
      let t1 := match r.tag with
        | .part q => t.setFld (R.mcRegStat p.cd p.ctrl q.toNat) F.mcRegStat_held 0
        | _ => t
      -- R424: the buffer writes a line back before another request reads or writes it
      let t2 := (t1.redFlush (pa / 128)).serveCw r
      if t2.hold then s.answer .held else t2

/-! ## Sliver reads -/

/-- R417: the 32 B sector at an address: from the reduction buffer, or from the codeword. -/
def State.sector (s : State) (pa : Nat) : State × Nat × Bool :=
  let base := pa / 32 * 32
  match s.redLine (pa / 128) with
  | some l => (s, bits l.data.toNat (8 * (base % 128)) 256, l.poison.getLsbD (pa % 128 / 64))
  | none =>
    let s1 := s.eccRead pa .clean
    (s1, bits (s1.cwData pa) (8 * (base % 64)) 256, s1.cwBad pa)

/-- What a request for memory meets before it is served. -/
inductive Gate where
  | open_ | refused | gone
  deriving DecidableEq, Repr

/-- R402, R407, R408, R412: a request of a tag reaches its home: out of service, refused, or admitted at a cost. -/
def State.gate (s : State) (tag : ReqTag) (pa cost : Nat) (write : Bool) : State × Gate :=
  let p := s.place pa
  if !s.cdUp p.cd then (s, .gone)
  else match (if write then s.refusesWrite tag pa else s.refuses tag pa) with
  | some why => (s.refuse tag pa why, .refused)
  | none => ((s.awake p.cd).charge tag pa cost, .open_)

/-- SLIVER_READ (R416, R417). -/
def sliverRead (r : SliverRequest) (s : State) : State :=
  s.commit fun s =>
    let pa := r.pa.toNat
    match s.gate r.tag pa 1 false with
    | (s1, .gone) => s1.answer .poison
    | (s1, .refused) => s1.answer .error
    | (s1, .open_) =>
      let (s2, v, bad) := s1.sector pa
      s2.answerData bad (wordsOf 4 v)

/-! ## Regulator refill, scrub, refresh and temperature -/

/-- REGULATOR_REFILL (R411): the window that is open closes. -/
def regulatorRefill (s : State) : State := (s.passWindows 1).answer .ok

/-- PATROL_SCRUB (R432). -/
def patrolScrub (k : CtrlRef) (pa : BitVec 40) (cond : CodewordCond) (s : State) : State :=
  let p := s.place pa.toNat
  if p.cd ≠ k.cd.val ∨ p.ctrl ≠ k.c.val ∨ !s.cdUp p.cd ∨ !s.flag (R.eccCtrl p.cd) F.eccCtrl_scrubEn ∨ s.inI4 p.cd then
    s.answer .refused
  else (s.eccRead pa.toNat cond).answer .ok

/-- REFRESH (R433): the bank is busy for a bounded time; nothing that a request can see changes. -/
def refresh (k : CtrlRef) (_bank : Nat) (s : State) : State :=
  if s.cdUp k.cd.val then s.answer .ok else s.answer .refused

/-- STACK_TEMP_READ (R433). -/
def stackTempRead (k : CtrlRef) (temp : BitVec 8) (s : State) : State :=
  if s.cdUp k.cd.val then
    let a := R.mcStat k.cd.val k.c.val
    ((s.setFld a F.mcStat_stackT temp.toNat).setFld a F.mcStat_refresh2x (b2n (decide (85 < temp.toNat)))).answer .ok
  else s.answer .refused

/-! ## Map writes -/

/-- R401: a write of MC_MAP; a locked map cannot be written. -/
def State.mapWrite (s : State) (w : Nat) (code : Nat) : State :=
  if F.mcCtrl_mapLock.get (s.pk (R.mcCtrl 0)) = 1 then s
  else s.broadcast (fun n => R.mcMap n w) (F.mcMap_group.set code 0)

/-- R399: whether every group of windows holds one group size. -/
def State.mapOk (s : State) : Bool :=
  (upTo 8).all (fun w =>
    let k := 2 ^ s.mapCode w
    (upTo k).all (fun i => decide (s.mapCode (w - w % k + i) = s.mapCode w)))

/-- R399, R401: a write of 1 to MAP_LOCK. -/
def State.mapLock (s : State) : State :=
  if F.mcCtrl_mapLock.get (s.pk (R.mcCtrl 0)) = 1 then s
  else if s.mapOk then s.broadcast (fun n => R.mcCtrl n) (F.mcCtrl_mapLock.set 1 0)
  else s.broadcast (fun n => R.mcCtrl n) (F.mcCtrl_mapBad.set 1 0)

/-! ## Zeroization -/

/-- The key identities in force: partitions 0 to 7 and SAK. -/
def State.keyList (s : State) : List Nat := (upTo 9).map s.key

/-- R436: start a die's engine over [lo, hi); `named` is a key that Onyx names. The owners of the range must have
their keys loaded. -/
def State.zeroStart (s : State) (cd lo hi : Nat) (named : Option Nat) : State :=
  let a := R.zeroCtrl cd
  let rs := s.ranges
  let hit := rs.filter (fun r => decide (r.lo < hi) && decide (lo < r.hi))
  let need := match named with | some k => [k] | none => if hit.isEmpty then [8] else hit.map OwnedRange.owner
  let s1 := s.setReg a 0
  if need.all (fun i => s.keyLoaded cd i) then
    { s1.setFld a F.zeroCtrl_go 1 with zero := s1.zero.filter (fun z => decide (z.cd ≠ cd))
        ++ [⟨cd, lo, hi, rs, s1.keyList, named⟩] }
  else s1.setFld a F.zeroCtrl_error 1

/-- R436: a write of 1 to GO; while a run is in progress it has no effect. -/
def State.zeroGo (s : State) (cd : Nat) : State :=
  if s.flag (R.zeroCtrl cd) F.zeroCtrl_go then s
  else s.zeroStart cd (s.fld (R.zeroBase cd) F.zeroBase_base * 2 ^ 21)
    ((s.fld (R.zeroLimit cd) F.zeroLimit_limit + 1) * 2 ^ 21) none

/-- The codewords of a run hold zeros: their bytes, tags and poison go; save areas are skipped. -/
def State.zeroApply (s : State) (z : ZeroRun) : State :=
  let out (cellCw : Nat) : Bool :=
    let cd := cellCw / 2 ^ 31
    let save := decide (0x1F_FF00_0000 ≤ cellCw % 2 ^ 31 * 64)
    let pa := match s.tags.find? (fun e => decide (e.1 = cellCw)) with | some e => e.2.pa * 64 | none => z.lo
    decide (cd ≠ z.cd) || save || decide (pa < z.lo) || decide (z.hi ≤ pa)
  let s1 : State := { s with
    dram := s.dram.filter (fun e => out (e.1 / 64))
    bad := s.bad.filter (fun e => out e.1)
    tags := s.tags.filter (fun e => out e.1)
    zeroed := z :: s.zeroed }
  s1.mirZeros z.lo z.hi

/-- R436: a run ends: GO returns to 0 and DONE is set. -/
def State.zeroEnd (s : State) (cd : Nat) : State :=
  match s.zero.find? (fun z => decide (z.cd = cd)) with
  | none => s
  | some z =>
    let s1 : State := { s with zero := s.zero.filter (fun z => decide (z.cd ≠ cd)) }
    (s1.zeroApply z).setReg (R.zeroCtrl cd) (F.zeroCtrl_done.set 1 0)

/-- R436, R701: a sag-save trigger stops a run at a codeword: what lies before it is zeroed. Where it stops is
open. -/
def State.zeroStop (s : State) (cd : Nat) : State :=
  match s.zero.find? (fun z => decide (z.cd = cd)) with
  | none => s
  | some z =>
    let hi := z.lo + s.free % ((z.hi - z.lo) / 64 + 1) * 64
    let s1 : State := { s.draw with zero := s.zero.filter (fun z => decide (z.cd ≠ cd)) }
    (s1.zeroApply { z with hi := hi }).setReg (R.zeroCtrl cd) 0

/-! ## Meanings -/

/-- CONTROLLER_REQUEST (R407). -/
def execControllerRequest (k : CtrlRef) (r : MemRequest) (s : State) : Out := s.run fun s => controllerRequest k r s
/-- SLIVER_READ (R417). -/
def execSliverRead (r : SliverRequest) (s : State) : Out := s.run fun s => sliverRead r s
/-- REGULATOR_REFILL (R411). -/
def execRegulatorRefill (s : State) : Out := s.run fun s => regulatorRefill s
/-- PATROL_SCRUB (R432). -/
def execPatrolScrub (k : CtrlRef) (pa : BitVec 40) (cond : CodewordCond) (s : State) : Out :=
  s.run fun s => patrolScrub k pa cond s
/-- REFRESH (R433). -/
def execRefresh (k : CtrlRef) (bank : Nat) (s : State) : Out := s.run fun s => refresh k bank s
/-- STACK_TEMP_READ (R433). -/
def execStackTempRead (k : CtrlRef) (temp : BitVec 8) (s : State) : Out := s.run fun s => stackTempRead k temp s

end Sys2Proof.Machine
end

