-- ==== Sys2Proof/Machine/Caches.lean ====
section
/-!
DEFINITION. The directory protocol: home agents, the far cache as their proxy, and the caches that hold lines
(R443 to R446, R458 to R477, R735).
-/

namespace Sys2Proof.Machine

/-! ## Holders and paths -/

/-- The number of the far cache among the holders. -/
def xlIx : Nat := 74

/-- A holder's number. -/
def Holder.ix : Holder → Nat
  | .l2 cl => cl.val
  | .bob cd => 64 + cd.val
  | .host hd => 72 + hd.val
  | .xl => xlIx

/-- The site of a holder. -/
def holderSite (h : Nat) : Nat := if h < 64 then h / 8 + 1 else if h < 72 then h - 64 + 1 else if h < 74 then h - 72 + 9 else 0

/-- The home die of a line. -/
def State.home (s : State) (line : Nat) : Nat := (s.place (linePa line)).cd

/-- R467: the agent index of a holder at the home on CDn, when the home names it itself. -/
def agentOf (n h : Nat) : Option Nat :=
  let d := holderSite h - 1
  let base := if d = n then some 0 else if d = (n + 7) % 8 then some 9 else if d = (n + 1) % 8 then some 18 else none
  if h < 64 then base.map (· + h % 8) else if h < 72 then base.map (· + 8) else none

/-- R467: the holder of an agent index below 27; 27 is the far cache. -/
def agentHolder (n a : Nat) : Nat :=
  if 27 ≤ a then xlIx
  else
    let d := if a < 9 then n else if a < 18 then (n + 7) % 8 else (n + 1) % 8
    if a % 9 = 8 then 64 + d else 8 * d + a % 9

/-- Whether a link is in training. -/
def State.moving (s : State) (l : Nat) : Bool :=
  match (s.lnk l).phase with
  | .hello => true
  | .agree => true
  | _ => false

/-- The way of a request to its home (R24, R25, R461): direct, through the far cache, or waiting for a link. -/
inductive Path where
  | direct | far | hold
  deriving DecidableEq, Repr

/-- The optical link of a site: OCn of a compute die, OHn of a host die. -/
def opticalOf (site : Nat) : Option Nat := if site = 0 then none else some (site + 7)

/-- Whether the optical links of two sites let a request pass now. -/
def State.opticalReady (s : State) (a b : Nat) : Bool :=
  [a, b].all (fun x => match opticalOf x with | some l => !s.moving l | none => true)

/-- R24, R25, R461: the path from a site to the home on CDn. -/
def State.path (s : State) (site n : Nat) : Path :=
  let viaSh := if s.opticalReady site (n + 1) then .far else .hold
  if site = n + 1 then .direct
  else if site = 0 ∨ 9 ≤ site then viaSh
  else
    let d := site - 1
    if d = (n + 1) % 8 ∨ d = (n + 7) % 8 then
      let l := if d = (n + 1) % 8 then n else d
      let k := s.lnk l
      if k.phase = .service then .direct
      else if k.phase ≠ .down ∧ k.fromService then .hold
      else viaSh
    else viaSh

/-- R469: whether the package runs MOSI. -/
def State.mosi (s : State) : Bool := s.reg R.capsPkg |>.getLsbD 0

/-! ## Lines in caches -/

/-- Key of a line in a holder. -/
def lineKey (h line : Nat) : Nat := h * 2 ^ 34 + line

/-- A holder's copy of a line. -/
def State.cline (s : State) (h line : Nat) : CacheLine := Sparse.get (fun _ => {}) s.lines (lineKey h line)

/-- Store or drop a holder's copy. -/
def State.setCline (s : State) (h line : Nat) (c : CacheLine) : State :=
  { s with lines := Sparse.set (fun _ => {}) s.lines (lineKey h line) (if c.st = .i then {} else c) }

/-- The copies of a holder, by line. -/
def State.heldBy (s : State) (h : Nat) : List (Nat × CacheLine) :=
  (s.lines.filter (fun e => decide (e.1 / 2 ^ 34 = h))).map (fun e => (e.1 % 2 ^ 34, e.2))

/-- Drop every copy of a holder. -/
def State.clearHolder (s : State) (h : Nat) : State :=
  { s with lines := s.lines.filter (fun e => decide (e.1 / 2 ^ 34 ≠ h)) }

/-- Whether a cache serves lookups. -/
def State.cacheOn (s : State) (h : Nat) : Bool :=
  if h < 64 then s.flag (R.l2Stat h) F.l2Stat_enabled
  else if h = xlIx then s.flag R.xlStat F.xlStat_enabled
  else true

/-- R481, R482: whether a cache answers for the lines it holds: it serves lookups, or is still being disabled. -/
def State.cacheLive (s : State) (h : Nat) : Bool :=
  s.cacheOn h || (if h < 64 then s.flag (R.l2Stat h) F.l2Stat_disabling
    else decide (h = xlIx) && s.flag R.xlStat F.xlStat_disabling)

/-- Whether a state is dirty. -/
def Coh.dirty : Coh → Bool
  | .m => true
  | .o => true
  | _ => false

/-- Merge bytes of one codeword's poison: a whole write takes the new bit, a partial one keeps a set bit (R733). -/
def mergePoison (old new : Bool) (en : Nat) : Bool :=
  if en = 0 then old else if en = 2 ^ 64 - 1 then new else old || new

/-- Write the enabled bytes of a line. -/
def Line.merge (old new : Line) (en : Nat) : Line where
  data := BitVec.ofNat 1024 (mergeBytes 128 old.data.toNat new.data.toNat en)
  poison := BitVec.ofNat 2 (b2n (mergePoison (old.poison.getLsbD 0) (new.poison.getLsbD 0) (bits en 0 64))
    + 2 * b2n (mergePoison (old.poison.getLsbD 1) (new.poison.getLsbD 1) (bits en 64 64)))

/-- A line all poisoned. -/
def Line.bad : Line := ⟨0, 3⟩

/-! ## Snoops of the caches -/

/-- What a snoop asks of a copy: a dirty copy is shared on, made clean, only read, or the copy is given up. -/
inductive Snp where
  | share | demote | peek | inval
  deriving DecidableEq, Repr

/-- A snoop's answer: whether the copy was there, and its data if it was dirty. -/
structure Snooped where
  here : Bool := false
  data : Option Line := none
  deriving DecidableEq, Repr

/-- The state a snoop leaves a copy in. -/
def Snp.after (k : Snp) (st : Coh) : Coh :=
  match k with
  | .share => if st.dirty then .o else st
  | .demote => if st = .i then .i else .s
  | .peek => st
  | .inval => .i

/-- R471, R482: a snoop of an L2, a bobbin pair or a host die. -/
def State.leafSnoop (s : State) (h line : Nat) (k : Snp) : State × Snooped :=
  let c := s.cline h line
  let absent (t : State) : State := if h < 64 then t.count (R.cluCntSnoop h) F.cluCntSnoop_notPresent 1 else t
  if c.st = .i then (absent s, {})
  else if !s.cacheLive h then
    (absent (if k = .inval ∧ h < 64 then s.setFld (R.l2Stat h) F.l2Stat_staleRisk 1 else s), {})
  else (s.setCline h line { c with st := k.after c.st }, ⟨true, if c.st.dirty then some c.val else none⟩)

/-- The far cache's record of a line. -/
def State.sub (s : State) (line : Nat) : SubEnt := Sparse.get (fun _ => {}) s.subs line

/-- Store a record. -/
def State.setSub (s : State) (line : Nat) (e : SubEnt) : State :=
  { s with subs := Sparse.set (fun _ => {}) s.subs line (if e.st = .i then {} else e) }

/-- Count snoops that cross the package switch (R501). -/
def State.crossing (s : State) (n : Nat) : State := s.count R.cohCntSnoop F.cohCntSnoop_snoops n

/-- A snoop that the far cache passes to a sub-holder. -/
def State.subSnoop (s : State) (h line : Nat) (k : Snp) : State × Snooped :=
  let (s1, a) := (s.crossing 1).leafSnoop h line k
  (if a.here then s1 else s1.count R.xlCntBackinv F.xlCntBackinv_notPresent 1, a)

/-- Invalidate sub-holders: whether one held the line, and the data of one that held it dirty. -/
def State.subInval (s : State) (line : Nat) (hs : List Nat) : State × Snooped :=
  hs.foldl (fun (t : State × Snooped) h =>
    let (s1, a) := t.1.subSnoop h line .inval
    (s1, ⟨t.2.here || a.here, t.2.data.orElse (fun _ => a.data)⟩)) (s, {})

/-- The numbers that a mask of sub-holders names. -/
def maskList (m : BitVec 74) : List Nat := (upTo 74).filter (fun i => m.getLsbD i)

/-- R462: a snoop of the far cache by a home. -/
def State.xlSnoop (s : State) (line : Nat) (k : Snp) : State × Snooped :=
  let e := s.sub line
  let d := s.cline xlIx line
  let live := s.cacheLive xlIx
  let own : Option Line := if live && d.st.dirty then some d.val else none
  if k = .inval then
    let (s1, a) := s.subInval line (maskList e.mask)
    let s2 := if live then s1.setCline xlIx line {}
      else if d.st = .i then s1 else s1.setFld R.xlStat F.xlStat_staleRisk 1
    (s2.setSub line {}, ⟨a.here || (live && decide (d.st ≠ .i)), a.data.orElse (fun _ => own)⟩)
  else
    let st := k.after e.st
    match e.owner with
    | some h =>
      let (s1, a) := s.subSnoop h line k
      let s2 := if k = .demote then s1.setSub line { e with st := st, owner := none } else s1.setSub line { e with st := st }
      let s3 := match a.data with
        | some v => if live ∧ d.st ≠ .i ∧ k ≠ .peek then s2.setCline xlIx line { d with st := .s, val := v } else s2
        | none => s2
      (s3, a)
    | none =>
      let s1 := s.setSub line { e with st := st }
      if live ∧ d.st ≠ .i then (s1.setCline xlIx line { d with st := k.after d.st }, ⟨true, own⟩)
      else (s1, ⟨decide (e.mask ≠ 0), none⟩)

/-! ## Home agents -/

/-- The directory entry of a line. -/
def State.dirEnt (s : State) (line : Nat) : DirEnt := Sparse.get (fun _ => {}) s.dir line

/-- R498: agents' NOT_PRESENT answers are counted at the home. -/
def State.homeSnoop (s : State) (n line a : Nat) (k : Snp) : State × Snooped :=
  let (s1, r) := if a = 27 then (s.crossing 1).xlSnoop line k else s.leafSnoop (agentHolder n a) line k
  (if r.here then s1 else s1.count (R.homeCntInv n) F.homeCntInv_notPresent 1, r)

/-- The agents a mask names. -/
def agentList (m : BitVec 28) : List Nat := (upTo 28).filter (fun i => m.getLsbD i)

/-- R735: a home whose named owner does not have the line poisons it. Set and way are not given a form. -/
def State.lostOwner (s : State) (n line : Nat) : State :=
  let pa := linePa line
  let s1 := (s.cwPoison pa).cwPoison (pa + 64)
  let s2 := s1.rasWrite { det 1 4 (n + 1) 0 5 with
    addr := some (BitVec.ofNat 48 pa), arg0 := 3, arg1 := Word.of s1.free }
  { s2.draw with dir := Sparse.set (fun _ => {}) s2.dir line { st := .p, used := s2.stamp + 1 }, stamp := s2.stamp + 1 }

/-- A line written back to DRAM; the writeback is charged to the range's owner. -/
def State.writeBack (s : State) (line : Nat) (l : Line) : State :=
  (s.chargeOwner (linePa line) 2).dramWrite line l allBytes

/-- Invalidate agents: the data of one that held the line dirty. -/
def State.homeInval (s : State) (n line : Nat) (as : List Nat) : State × Option Line :=
  as.foldl (fun (t : State × Option Line) a =>
    let (s1, r) := t.1.homeSnoop n line a .inval
    (s1, t.2.orElse (fun _ => r.data))) (s, none)

/-- R424, R474, R418: every agent an entry names gives the line up, and dirty data goes to DRAM. A line in P
stays in P. -/
def State.recall (s : State) (line : Nat) : State :=
  let n := s.home line
  let e := s.dirEnt line
  if e.st = .p then s
  else
    let owned := decide (e.st = .m) || decide (e.st = .o)
    let (s1, v) := s.homeInval n line ((if owned then [e.owner] else []) ++ agentList e.sharers)
    match v with
    | some l => { s1.writeBack line l with dir := Sparse.set (fun _ => {}) s1.dir line {} }
    | none =>
      if owned then s1.lostOwner n line
      else { s1 with dir := Sparse.set (fun _ => {}) s1.dir line {} }

/-- Sets of a directory: 2 Mi entries, 16-way (R468). -/
def dirSets : Nat := 131072

/-- R474: an entry is evicted when its set is full: the one used least recently. -/
def State.dirRoom (s : State) (line : Nat) : State :=
  let n := s.home line
  let set := s.dir.filter (fun e => decide (e.1 % dirSets = line % dirSets) && decide (s.home e.1 = n))
  if set.length < 16 ∨ set.any (fun e => decide (e.1 = line)) then s
  else
    -- an entry with a transaction in progress stays
    match set.filter (fun e => !s.miss.any (fun m => decide (m.line = e.1))) with
    | [] => s
    | x :: xs =>
      let v := xs.foldl (fun b e => if e.2.used < b.2.used then e else b) x
      (s.recall v.1).count (R.homeCntInv n) F.homeCntInv_dirEvict 1

/-- Store a directory entry; a line that goes to U has none. -/
def State.setDir (s : State) (line : Nat) (st : HomeState) (owner : Nat) (sharers : BitVec 28) : State :=
  if st = .u then { s with dir := Sparse.set (fun _ => {}) s.dir line {} }
  else
    let t := s.dirRoom line
    { t with dir := Sparse.set (fun _ => {}) t.dir line ⟨st, owner, sharers, t.stamp + 1⟩, stamp := t.stamp + 1 }

/-- The bit of an agent. -/
def agentBit (a : Nat) : BitVec 28 := BitVec.twoPow 28 a

/-- The requests of R472. `own` is the full-line write that the far cache takes in state M (R464). -/
inductive HReq where
  | rdS | rdU | upg
  | wb (l : Line) | wbc (l : Line)
  | rdNC | own
  | wrF (l : Line) | wrP (l : Line) (en : Nat)
  deriving DecidableEq, Repr

/-- How a request ended: served, refused under R408, or its home is out of service (R402). -/
inductive MemSt where
  | ok | error | gone
  deriving DecidableEq, Repr

/-- A home's answer: its status, the data, and whether the line stands in P so that nobody takes a copy. -/
structure Ans where
  st : MemSt := .ok
  val : Option Line := none
  p : Bool := false
  deriving DecidableEq, Repr

/-- R410: codewords of DRAM transfer of a partial write. -/
def wrCost (en : Nat) : Nat :=
  let one (e : Nat) := if e = 0 then 0 else if e = 2 ^ 64 - 1 then 1 else 2
  one (bits en 0 64) + one (bits en 64 64)

/-- R472: the owner answers a snoop with its data, or R735 holds. -/
def State.takeOwner (s : State) (n line owner : Nat) (k : Snp) : State × Option Line :=
  let (s1, a) := s.homeSnoop n line owner k
  match a.data with
  | some l => (s1, some l)
  | none => (s1.lostOwner n line, none)

/-- R472: the rows of the table, for a line not in P. `r` is the requesting agent. -/
def State.homeRow (s : State) (tag : ReqTag) (n line : Nat) (r : Option Nat) (q : HReq) : State × Ans :=
  let pa := linePa line
  let e := s.dirEnt line
  let owned := decide (e.st = .m) || decide (e.st = .o)
  let me := match r with | some a => agentBit a | none => 0
  let isOwner := owned && decide (r = some e.owner)
  let others := agentList (e.sharers &&& ~~~ me)
  let fetch (t : State) : State × Line := (t.charge tag pa 2).dramLine line
  let dead : Ans := ⟨.ok, some .bad, true⟩
  let forward (t : State) : State := if t.mosi then t.count (R.homeCntFwd n) F.homeCntFwd_forwards 1 else t
  let clean (t : State) (l : Line) : State := if t.mosi then t else t.writeBack line l
  let takeAll (t : State) : State × Ans :=
    let (s1, v) := t.homeInval n line others
    match owned && !isOwner with
    | true =>
      match s1.takeOwner n line e.owner .inval with
      | (s2, some l) => ((forward (clean s2 l)).setDir line .m (r.getD 0) 0, ⟨.ok, some l, false⟩)
      | (s2, none) => (s2, dead)
    | false =>
      match v with
      | some l => (s1.setDir line .m (r.getD 0) 0, ⟨.ok, some l, false⟩)
      | none =>
        let (s2, l) := fetch s1
        (s2.setDir line .m (r.getD 0) 0, ⟨.ok, some l, false⟩)
  let drop (t : State) : State :=
    let (s1, _) := t.homeInval n line (agentList e.sharers)
    if owned then (s1.homeSnoop n line e.owner .inval).1 else s1
  match q with
  | .rdS =>
    if owned then
      match s.takeOwner n line e.owner (if s.mosi then .share else .demote) with
      | (s1, some l) =>
        if s.mosi then ((forward s1).setDir line .o e.owner (e.sharers ||| me), ⟨.ok, some l, false⟩)
        else ((s1.writeBack line l).setDir line .s 0 (e.sharers ||| me ||| agentBit e.owner), ⟨.ok, some l, false⟩)
      | (s1, none) => (s1, dead)
    else
      let (s1, l) := fetch s
      (s1.setDir line .s 0 (e.sharers ||| me), ⟨.ok, some l, false⟩)
  | .rdU => takeAll s
  | .upg =>
    if isOwner || decide (e.sharers &&& me ≠ 0) then
      let (s1, _) := s.homeInval n line others
      let s2 := if owned && !isOwner then (s1.homeSnoop n line e.owner .inval).1 else s1
      (s2.setDir line .m (r.getD 0) 0, {})
    else takeAll s
  | .wb l =>
    if isOwner then
      ((s.writeBack line l).setDir line (if e.st = .o ∧ e.sharers ≠ 0 then .s else .u) 0 e.sharers, {})
    else (s, {})
  | .wbc l => if isOwner then ((s.writeBack line l).setDir line .s 0 (e.sharers ||| me), {}) else (s, {})
  | .rdNC =>
    if owned then
      match s.takeOwner n line e.owner (if s.mosi then .peek else .demote) with
      | (s1, some l) =>
        if s.mosi then (forward s1, ⟨.ok, some l, false⟩)
        else ((s1.writeBack line l).setDir line .s 0 (e.sharers ||| agentBit e.owner), ⟨.ok, some l, false⟩)
      | (s1, none) => (s1, dead)
    else
      let (s1, l) := fetch s
      (s1, ⟨.ok, some l, false⟩)
  | .own => ((drop s).setDir line .m 27 0, {})
  | .wrF l => ((((drop s).setDir line .u 0 0).charge tag pa 2).dramWrite line l allBytes, {})
  | .wrP l en =>
    let (s1, _) := s.homeInval n line (agentList e.sharers)
    let go (t : State) : State × Ans :=
      (((t.setDir line .u 0 0).charge tag pa (wrCost en)).dramWrite line l en, {})
    if owned then
      match s1.takeOwner n line e.owner .inval with
      | (s2, some v) => go (s2.writeBack line v)
      | (s2, none) => (s2, { p := true })
    else go s1

/-- R475: the rows for a line in P. -/
def State.homeRowP (s : State) (tag : ReqTag) (line : Nat) (q : HReq) : State × Ans :=
  match q with
  | .own => (s.setDir line .m 27 0, {})
  | .wrF l => (((s.setDir line .u 0 0).charge tag (linePa line) 2).dramWrite line l allBytes, {})
  | .wrP _ _ => (s, ⟨.ok, none, true⟩)
  | _ => (s, ⟨.ok, some .bad, true⟩)

/-- Whether a request is a writeback, which R407 does not check. -/
def HReq.isWb : HReq → Bool
  | .wb _ => true
  | .wbc _ => true
  | _ => false

/-- Whether a request writes memory on its requester's behalf. -/
def HReq.isWrite : HReq → Bool
  | .own => true
  | .wrF _ => true
  | .wrP _ _ => true
  | _ => false

/-- R402, R407, R408, R470: a request reaches its home. -/
def State.homeServe (s : State) (tag : ReqTag) (line : Nat) (r : Option Nat) (q : HReq) : State × Ans :=
  let n := s.home line
  let pa := linePa line
  if !s.cdUp n then
    if q.isWb then (s, {})
    else if q.isWrite then (s.discardWrite tag pa, ⟨.gone, none, true⟩)
    else (s, ⟨.gone, some .bad, true⟩)
  else
    match (if q.isWb then none else if q.isWrite then s.refusesWrite tag pa else s.refuses tag pa) with
    | some why => (s.refuse tag pa why, ⟨.error, none, true⟩)
    | none =>
      let s1 := ((s.awake n).redFlush line).count (R.homeCntReq n) F.homeCntReq_requests 1
      if (s1.dirEnt line).st = .p then s1.homeRowP tag line q else s1.homeRow tag n line r q

/-! ## The far cache -/

/-- Sets of a cache: 16 MiB and 256 MiB, 16-way, lines of 128 B (R443). -/
def setsOf (h : Nat) : Nat := if h = xlIx then 131072 else 8192

/-- R465: the entry of XL_PART that serves a tag. -/
def ReqTag.xlPart : ReqTag → Nat
  | .part p => p.toNat
  | _ => 8

/-- The ways in which a line of a tag may be allocated: R452 for an L2, R465 for the far cache. -/
def State.waysOf (s : State) (h : Nat) (tag : ReqTag) : List Nat :=
  if h = xlIx then
    let m := s.fld (R.xlPart tag.xlPart) F.xlPart_wayMask
    (upTo 16).filter (fun w => m.testBit w)
  else upTo (16 - 2 * s.fld (R.l2Ctrl h) F.l2Ctrl_tilePairs)

/-- The lines of a holder in the set of a line. -/
def State.inSet (s : State) (h line : Nat) : List (Nat × CacheLine) :=
  (s.heldBy h).filter (fun e => decide (e.1 % setsOf h = line % setsOf h))

/-- R463: the far cache gives a line up: sub-holders first, then dirty data to the home. -/
def State.xlEvict (s : State) (line : Nat) : State :=
  let d := s.cline xlIx line
  let hs := maskList (s.sub line).mask
  let (s1, a) := s.subInval line hs
  let s2 := ((s1.count R.xlCntBackinv F.xlCntBackinv_backinv hs.length).setCline xlIx line {}).setSub line {}
  match a.data.orElse (fun _ => if d.st.dirty then some d.val else none) with
  | some l => (s2.homeServe .host line (some 27) (.wb l)).1
  | none => s2

/-- Where a line goes: a free way among those allowed, or the way of a free choice of victim. -/
def State.pickWay (s : State) (h line : Nat) (ways : List Nat) : State × Nat × Option Nat :=
  let set := s.inSet h line
  match ways.find? (fun w => !set.any (fun e => decide (e.2.way = w))) with
  | some w => (s, w, none)
  | none =>
    let w := ways.getD (s.free % ways.length) 0
    (s.draw, w, (set.find? (fun e => decide (e.2.way = w))).map Prod.fst)

/-- Allocate a line in the far cache (R465); a request that may not allocate leaves nothing. -/
def State.xlInstall (s : State) (line : Nat) (ways : List Nat) (c : CacheLine) : State :=
  let old := s.cline xlIx line
  let busy (w : Nat) : Bool := (s.inSet xlIx line).any (fun e => decide (e.2.way = w) && s.miss.any (fun m => decide (m.line = e.1)))
  let free := ways.filter (fun w => !busy w)
  if old.st ≠ .i then s.setCline xlIx line { c with way := old.way }
  else if !s.cacheOn xlIx || free.isEmpty then s
  else
    let (s1, w, victim) := s.pickWay xlIx line free
    let s2 := match victim with | some v => s1.xlEvict v | none => s1
    s2.setCline xlIx line { c with way := w }

/-- The bit of a sub-holder. -/
def subBit (h : Nat) : BitVec 74 := BitVec.twoPow 74 h

/-- R462: a sub-holder's request at the far cache, which serves it as a home would, or as the home's agent. -/
def State.xlServe (s : State) (h : Nat) (tag : ReqTag) (line : Nat) (q : HReq) : State × Ans :=
  let e := s.sub line
  let d := s.cline xlIx line
  let data : Option Line := if s.cacheOn xlIx && decide (d.st ≠ .i) then some d.val else none
  let hit (t : State) : State := t.count R.xlCntHit F.xlCntHit_hits 1
  let miss (t : State) : State := t.count R.xlCntMiss F.xlCntMiss_misses 1
  let up (t : State) (r : HReq) : State × Ans := t.homeServe tag line (some 27) r
  let why := if s.cdUp (s.home line) && !q.isWb then s.refuses tag (linePa line) else none
  let mark (t : State) (st : Coh) (owner : Option Nat) (mask : BitVec 74) : State := t.setSub line ⟨st, owner, mask⟩
  let take (t : State) : State × Ans :=
    let (s1, a) := t.subInval line (maskList (e.mask &&& ~~~ subBit h))
    let known := a.data.orElse (fun _ => if e.owner = some h then none else data)
    match (if e.st = .m then some () else none), known with
    | some _, some l => (mark (hit s1) .m (some h) (subBit h), ⟨.ok, some l, false⟩)
    | _, _ =>
      let (s2, b) := up (miss s1) (if known.isSome && decide (e.st ≠ .i) then .upg else .rdU)
      if b.st ≠ .ok ∨ b.p then (s2, b)
      else
        let l := (b.val.orElse (fun _ => known)).getD .bad
        let s3 := s2.xlInstall line (s2.waysOf xlIx tag) { st := .s, val := l }
        (mark s3 .m (some h) (subBit h), ⟨.ok, some l, false⟩)
  match why with
  | some w => (s.refuse tag (linePa line) w, ⟨.error, none, true⟩)
  | none =>
  match q with
  | .rdS =>
    match (match e.owner with | some x => if x = h then none else some x | none => none) with
    | some x =>
      let (s1, a) := s.subSnoop x line (if s.mosi then .share else .demote)
      match a.data with
      | some l =>
        let s2 := hit s1
        if s.mosi then (mark s2 e.st e.owner (e.mask ||| subBit h), ⟨.ok, some l, false⟩)
        else if data.isSome then
          (mark (s2.setCline xlIx line { d with st := .m, val := l }) e.st none (e.mask ||| subBit h), ⟨.ok, some l, false⟩)
        else
          let (s3, _) := up s2 (.wbc l)
          (mark s3 .s none (e.mask ||| subBit h), ⟨.ok, some l, false⟩)
      | none =>
        let s2 := s1.setSub line {}
        let (s3, b) := up (miss s2) .rdS
        (s3, b)
    | none =>
      match data with
      | some l => (mark (hit s) (if e.st = .i then .s else e.st) e.owner (e.mask ||| subBit h), ⟨.ok, some l, false⟩)
      | none =>
        let (s1, b) := up (miss s) .rdS
        if b.st ≠ .ok ∨ b.p then (s1, b)
        else
          let l := b.val.getD .bad
          let s2 := s1.xlInstall line (s1.waysOf xlIx tag) { st := .s, val := l }
          (mark s2 (if e.st = .i then .s else e.st) none (e.mask ||| subBit h), ⟨.ok, some l, false⟩)
  | .rdU => take s
  | .upg =>
    if e.mask &&& subBit h ≠ 0 then
      let (s1, _) := s.subInval line (maskList (e.mask &&& ~~~ subBit h))
      if e.st = .m then (mark s1 .m (some h) (subBit h), {})
      else
        let (s2, b) := up s1 .upg
        if b.st ≠ .ok ∨ b.p then (s2, b) else (mark s2 .m (some h) (subBit h), b)
    else take s
  | .wb l =>
    if e.owner = some h then
      let rest := e.mask &&& ~~~ subBit h
      if data.isSome then (mark (s.setCline xlIx line { d with st := .m, val := l }) e.st none rest, {})
      else
        let (s1, _) := up s (.wb l)
        (if rest = 0 then s1.setSub line {} else mark s1 .s none rest, {})
    else (s, {})
  | .wbc l =>
    if e.owner = some h then
      let (s1, _) := up s (.wbc l)
      let s2 := if data.isSome then s1.setCline xlIx line { d with st := .s, val := l } else s1
      (mark s2 .s none e.mask, {})
    else (s, {})
  | .rdNC =>
    match e.owner, data with
    | none, some l => (hit s, ⟨.ok, some l, false⟩)
    | _, _ => (miss s).homeServe tag line none .rdNC
  | q => s.homeServe tag line none q

/-- R464: an uncached full-line write that crosses the spindle goes into the far cache in M, unless it carries the
DRAM-direct attribute or its tag allocates nowhere. -/
def State.xlWrite (s : State) (tag : ReqTag) (line : Nat) (l : Line) (direct : Bool) : State × Ans :=
  let ways := s.waysOf xlIx tag
  if direct || !s.cacheOn xlIx || ways.isEmpty then s.homeServe tag line none (.wrF l)
  else
    let (s1, a) := s.homeServe tag line none .own
    if a.st ≠ .ok then (s1, a)
    else ((s1.xlInstall line ways { st := .m, val := l }).setSub line ⟨.m, none, 0⟩, {})

/-! ## Requests of holders -/

/-- A request of a cache to the home of a line (R24, R461). -/
def State.leafServe (s : State) (h : Nat) (tag : ReqTag) (line : Nat) (q : HReq) : State × Ans :=
  let n := s.home line
  match s.path (holderSite h) n with
  | .hold => (s.wait, { st := .error })
  | .direct => s.homeServe tag line (agentOf n h) q
  | .far => s.xlServe h tag line q

/-- Count lines that an L2 writes back (R497). -/
def State.countWb (s : State) (h : Nat) : State :=
  if h < 64 then s.count (R.cluCntL2Wb h) F.cluCntL2Wb_writebacks 1 else s

/-- A cache gives a line up: a dirty one by WB, a clean one silently (R471). -/
def State.leafEvict (s : State) (h line : Nat) : State :=
  let c := s.cline h line
  let s1 := s.setCline h line {}
  if c.st.dirty then ((s1.countWb h).leafServe h .host line (.wb c.val)).1 else s1

/-- A cache writes a dirty line back by WBC and keeps it. -/
def State.leafClean (s : State) (h line : Nat) : State :=
  let c := s.cline h line
  if c.st.dirty then ((s.countWb h).leafServe h .host line (.wbc c.val)).1.setCline h line { c with st := .s } else s

/-- Allocate a line in an L2, a bobbin pair or a host die. -/
def State.leafInstall (s : State) (h line : Nat) (st : Coh) (l : Line) : State :=
  let old := s.cline h line
  if old.st ≠ .i ∨ 64 ≤ h then s.setCline h line { old with st := st, val := l }
  else
    let (s1, w, victim) := s.pickWay h line (s.waysOf h .host)
    let s2 := match victim with | some v => s1.leafEvict h v | none => s1
    s2.setCline h line { st := st, way := w, val := l }

/-- A fill arrives for a miss register (R460); a fill for a cache that no longer serves lookups goes to its
requesters alone (R481). -/
def State.fillOne (s : State) (m : Miss) : State :=
  let s1 : State := { s with miss := s.miss.filter (fun x => decide (x.holder ≠ m.holder) || decide (x.line ≠ m.line)) }
  if s1.cacheOn m.holder then
    (if m.holder = xlIx then s1.xlInstall m.line (s1.waysOf xlIx .host) { st := .s, val := m.val }
     else s1.leafInstall m.holder m.line m.st m.val)
  else s1

/-- Fills of a line arrive before another access to it is served. -/
def State.settle (s : State) (line : Nat) : State :=
  (s.miss.filter (fun m => decide (m.line = line))).foldl (fun t m => t.fillOne m) s

/-- The tag of a holder's own requests (R405). -/
def State.holderTag (s : State) (h : Nat) : ReqTag :=
  if h < 64 then .part (BitVec.ofNat 3 (s.fld (R.l2Stat h) F.l2Stat_part)) else .host

/-- A read through a cache: a hit, or RdS and an allocation. A disabled cache's reads go to the home as RdNC. -/
def State.cacheRead (s0 : State) (h line : Nat) : State × Ans :=
  let s := s0.settle line
  let tag := s.holderTag h
  if !s.cacheOn h then s.leafServe h tag line .rdNC
  else
    let c := s.cline h line
    if c.st ≠ .i then
      ((if h < 64 then s.count (R.cluCntL2Hit h) F.cluCntL2Hit_hits 1 else s), ⟨.ok, some c.val, false⟩)
    else
      let s1 := if h < 64 then s.count (R.cluCntL2Miss h) F.cluCntL2Miss_misses 1 else s
      let (s2, a) := s1.leafServe h tag line .rdS
      match a.val with
      | some l => if a.p then (s2, a) else (s2.leafInstall h line .s l, a)
      | none => (s2, a)

/-- Get a line in M into a cache: the copy a store may write, or why not. -/
def State.cacheOwn (s : State) (h line : Nat) : State × Ans :=
  let tag := s.holderTag h
  let c := s.cline h line
  if c.st = .m then ((if h < 64 then s.count (R.cluCntL2Hit h) F.cluCntL2Hit_hits 1 else s), ⟨.ok, some c.val, false⟩)
  else
    let s1 := if h < 64 then s.count (R.cluCntL2Miss h) F.cluCntL2Miss_misses 1 else s
    let (s2, a) := s1.leafServe h tag line (if c.st = .i then .rdU else .upg)
    if a.st ≠ .ok ∨ a.p then (s2, a)
    else
      let l := a.val.getD c.val
      (s2.leafInstall h line .m l, ⟨.ok, some l, false⟩)

/-- A write of bytes through a cache (R445); a disabled cache's writes go to the home as WrF or WrP (R481). -/
def State.cacheWrite (s0 : State) (h line : Nat) (l : Line) (en : Nat) : State × Ans :=
  let s := s0.settle line
  if en = 0 then (s, {})
  else if !s.cacheOn h then
    s.leafServe h (s.holderTag h) line (if en = allBytes then .wrF l else .wrP l en)
  else
    let (s1, a) := s.cacheOwn h line
    match a.val with
    | some old => if a.p ∨ a.st ≠ .ok then (s1, a) else (s1.setCline h line { s1.cline h line with st := .m, val := old.merge l en }, {})
    | none => (s1, a)

/-- An uncached request from a site (R461, R464). -/
def State.uncached (s0 : State) (site : Nat) (tag : ReqTag) (line : Nat) (q : HReq) (direct : Bool) : State × Ans :=
  let s := s0.settle line
  match s.path site (s.home line) with
  | .hold => (s.wait, { st := .error })
  | .direct => s.homeServe tag line none q
  | .far =>
    match q with
    | .wrF l => s.xlWrite tag line l direct
    | .rdNC => s.xlServe 74 tag line .rdNC
    | q => s.homeServe tag line none q

/-- R492 step 2: the home of a line has a dirty copy written to DRAM; the holder keeps it clean. -/
def State.homeClean (s0 : State) (line : Nat) : State :=
  let s := s0.settle line
  let n := s.home line
  let e := s.dirEnt line
  if !s.cdUp n then s
  else if e.st = .m ∨ e.st = .o then
    match (s.awake n).takeOwner n line e.owner .demote with
    | (s1, some l) =>
      ((s1.writeBack line l).setDir line .s 0 (e.sharers ||| agentBit e.owner)).count (R.homeCntPfence n) F.homeCntPfence_linesCleaned 1
    | (s1, none) => s1
  else s

/-! ## Rows of the protocol -/

/-- The answer of a request to its sender. -/
def State.answerAns (s : State) (a : Ans) : State :=
  match a.st with
  | .error => s.answer .error
  | .gone => s.answer .poison
  | .ok =>
    match a.val with
    | some l => s.answerData (decide (l.poison ≠ 0)) (wordsOf 16 l.data.toNat)
    | none => s.answer .ok

/-- Miss registers of a holder (R458). -/
def missCap (h : Nat) : Option Nat := if h < 64 then some 256 else if h = xlIx then some 8192 else none

/-- The agent path of a holder's own request: the far cache asks as agent 27. -/
def State.holderServe (s : State) (h : Nat) (tag : ReqTag) (line : Nat) (q : HReq) : State × Ans :=
  if h = xlIx then s.homeServe tag line (some 27) q else s.leafServe h tag line q

/-- RDS, RDU and UPG (R459, R460, R472): a request hits, merges into the register in flight, waits, or takes a
register while the home serves it. The far cache's register holds the line for itself. -/
def coherentRead (h line : Nat) (q : HReq) (write : Bool) (s0 : State) : State :=
  s0.commit fun s =>
    let full (t : State) : State := if h < 64 then t.count (R.cluCntSnoop h) F.cluCntSnoop_mergeFull 1 else t
    if !s.up (holderSite h) then s.answer .refused
    else match s.miss.find? (fun m => decide (m.holder = h) && decide (m.line = line)) with
    | some m =>
      if write && decide (m.st ≠ .m) then s.answer .held
      else if 8 ≤ m.secs then (full s).answer .held
      else ({ s with miss := s.miss.map (fun x => if x = m then { x with secs := x.secs + 1 } else x) } : State).answer .ok
    | none =>
      let t := s.settle line
      let c := t.cline h line
      if t.cacheOn h && (decide (c.st = .m) || (!write && decide (c.st ≠ .i))) then
        t.answerData (decide (c.val.poison ≠ 0)) (wordsOf 16 c.val.data.toNat)
      else
        let used := (t.miss.filter (fun m => decide (m.holder = h))).length
        if (match missCap h with | some k => decide (k ≤ used) | none => false) then s.answer .held
        else
          let q' := if t.cacheOn h then (if q = .upg ∧ c.st = .i then .rdU else q) else .rdNC
          let (t1, a) := (if h < 64 then t.count (R.cluCntL2Miss h) F.cluCntL2Miss_misses 1 else t).holderServe h (t.holderTag h) line q'
          if a.st ≠ .ok ∨ a.p ∨ !t.cacheOn h then t1.answerAns a
          else
            let l := a.val.getD c.val
            let t2 := if h = xlIx then t1.setSub line { t1.sub line with st := if write then .m else .s } else t1
            ({ t2 with miss := t2.miss ++ [⟨h, line, if write then .m else .s, l, 0⟩] } : State).answer .ok

/-- MISS_FILL (R460): the register's requests are answered in the order in which they merged. -/
def missFill (h line : Nat) (s : State) : State :=
  s.commit fun s =>
    match s.miss.find? (fun m => decide (m.holder = h) && decide (m.line = line)) with
    | none => s.answer .refused
    | some m => (s.fillOne m).answerData (decide (m.val.poison ≠ 0)) (wordsOf 16 m.val.data.toNat)

/-- WB (R472): a cache evicts a line; one it does not hold dirty is not sent. -/
def writeback (h line : Nat) (s : State) : State :=
  s.commit fun s =>
    let t := s.settle line
    if !t.up (holderSite h) ∨ !t.cacheLive h then t.answer .refused
    else if h = xlIx then (t.xlEvict line).answer .ok
    else (t.leafEvict h line).answer .ok

/-- The far cache writes a dirty line back and keeps it, or the dirty copy of a sub-holder. -/
def State.xlClean (s : State) (line : Nat) : State :=
  let e := s.sub line
  let d := s.cline xlIx line
  match s.xlSnoop line .demote with
  | (s1, a) =>
    match a.data with
    | some l =>
      let (s2, _) := s1.homeServe .host line (some 27) (.wbc l)
      (s2.setSub line { e with st := .s, owner := none }).setCline xlIx line
        (if d.st = .i then {} else { d with st := .s, val := l })
    | none => s1

/-- WBC (R472). -/
def writebackClean (h line : Nat) (s : State) : State :=
  s.commit fun s =>
    let t := s.settle line
    if !t.up (holderSite h) ∨ !t.cacheLive h then t.answer .refused
    else if h = xlIx then (t.xlClean line).answer .ok
    else (t.leafClean h line).answer .ok

/-- The site of a requester. -/
def Requester.site : Requester → Nat
  | .se e => e.site
  | .host h => 9 + h.hd.val
  | .pcie hd => 9 + hd.val
  | .core c => coreSite c.val
  | .onyx => 0
  | .twin => 0

/-- The control register of a shuttle engine. -/
def SeRef.ctrl : SeRef → Nat
  | .cd n e => R.seCtrl n.val e.val
  | .hub e => R.hseCtrl e.val

/-- The partition of a shuttle engine, which its queue belongs to. -/
def State.sePart (s : State) (e : SeRef) : Nat := s.fld e.ctrl F.seCtrl_part

/-- The tag of the owner of an address (R627). -/
def State.ownerTag (s : State) (pa : Nat) : ReqTag :=
  match rangeAt s.ranges pa with
  | some o => .part (BitVec.ofNat 3 o.owner)
  | none => .host

/-- R405, R627: the tag of a requester; a request of the partner takes the tag of the range's owner. -/
def State.requesterTag (s : State) (r : Requester) (line : Nat) : ReqTag :=
  match r with
  | .se e => .part (BitVec.ofNat 3 (s.sePart e))
  | .core c => .part (BitVec.ofNat 3 (s.fld (R.l2Stat (coreCl c.val)) F.l2Stat_part))
  | .onyx => .onyx
  | .twin => s.ownerTag (linePa line)
  | .host _ => .host
  | .pcie _ => .host

/-- RDNC, WRF and WRP (R472). -/
def uncachedRow (r : Requester) (line : Nat) (q : HReq) (s : State) : State :=
  s.commit fun s =>
    if !s.up r.site then s.answer .refused
    else
      let (t, a) := s.uncached r.site (s.requesterTag r line) line q false
      t.answerAns a

/-- SNOOP (R471): a home's snoop or invalidation reaches one agent; the home takes the answer into its entry. -/
def snoopRow (h line : Nat) (k : SnoopKind) (s : State) : State :=
  s.commit fun s =>
    let t := s.settle line
    let n := t.home line
    let e := t.dirEnt line
    let a := if h = xlIx then some 27 else agentOf n h
    match a with
    | none =>
      -- a holder that the home reaches through the far cache
      let sub := t.sub line
      let (t1, r) := t.subSnoop h line (if k = .share then (if t.mosi then .share else .demote) else .inval)
      let rest := sub.mask &&& ~~~ subBit h
      let gone := decide (k ≠ .share) || !r.here
      let t2 := if gone then t1.setSub line { sub with mask := rest, owner := if sub.owner = some h then none else sub.owner } else t1
      match r.data with
      | some l =>
        if t2.mosi ∧ k = .share then t2.answerData (decide (l.poison ≠ 0)) (wordsOf 16 l.data.toNat)
        else
          let t3 := (t2.homeServe .host line (some 27) (.wbc l)).1
          let d := t3.cline xlIx line
          ((t3.setSub line { t3.sub line with st := .s, owner := none }).setCline xlIx line
            (if d.st = .i then {} else { d with st := .s, val := l })).answerData (decide (l.poison ≠ 0)) (wordsOf 16 l.data.toNat)
      | none => t2.answer (if r.here then .ok else .none)
    | some a =>
      let owned := (decide (e.st = .m) || decide (e.st = .o)) && decide (e.owner = a)
      if owned then
        match t.takeOwner n line a (if k ≠ .share then .inval else if t.mosi then .share else .demote) with
        | (t1, none) => t1.answer .none
        | (t1, some l) =>
          let t2 := if k ≠ .share then (t1.writeBack line l).setDir line (if e.sharers = 0 then .u else .s) 0 e.sharers
            else if t1.mosi then t1.setDir line .o a e.sharers
            else (t1.writeBack line l).setDir line .s 0 (e.sharers ||| agentBit a)
          t2.answerData (decide (l.poison ≠ 0)) (wordsOf 16 l.data.toNat)
      else
        let (t1, r) := t.homeSnoop n line a (if k = .share then .share else .inval)
        let keep := if decide (k ≠ .share) || !r.here then e.sharers &&& ~~~ agentBit a else e.sharers
        let t2 := if keep = e.sharers then t1
          else t1.setDir line (if keep = 0 ∧ e.st = .s then .u else e.st) e.owner keep
        t2.answer (if r.here then .ok else .none)

/-- A line from bytes; missing bytes are 0. -/
def lineOf (bs : List Byte) : Line := ⟨BitVec.ofNat 1024 (ofBytes (bs.take 128)), 0⟩

/-! ## Sliver writes and reductions at the home -/

/-- R418: a sliver write of a 32 B sector. -/
def State.sliverPut (s0 : State) (tag : ReqTag) (pa v en : Nat) : State × MemSt :=
  let s := s0.settle (pa / 128)
  match s.gate tag pa 2 true with
  | (s1, .gone) => (s1.discardWrite tag pa, .gone)
  | (s1, .refused) => (s1, .error)
  | (s1, .open_) =>
    let sh := pa % 64 / 32 * 32
    let s2 := (s1.redFlush (pa / 128)).recall (pa / 128)
    if (s2.dirEnt (pa / 128)).st = .p then (s2, .ok)
    else (s2.cwWrite pa (v * 2 ^ (8 * sh)) ((en % 2 ^ 32) * 2 ^ sh), .ok)

/-- SLIVER_WRITE (R418). -/
def sliverWrite (r : SliverRequest) (data : List Byte) (en : BitVec 32) (s : State) : State :=
  s.commit fun s =>
    match s.sliverPut r.tag r.pa.toNat (ofBytes (data.take 32)) en.toNat with
    | (s1, .error) => s1.answer .error
    | (s1, _) => s1.answer .ok

/-- R420: the format of a reduction by operation and size: bytes, and the float format of operations 3 to 5. -/
def redKind (op size : Nat) : Option (Nat × Option Fmt) :=
  if op ≤ 2 then (if size = 2 then some (4, none) else if size = 3 then some (8, none) else none)
  else if op ≤ 5 then
    (if size = 1 then some (2, some .bf16) else if size = 2 then some (4, some .f32) else if size = 3 then some (8, some .f64) else none)
  else if op = 6 then (if size = 2 then some (4, none) else if size = 3 then some (8, none) else none)
  else none

/-- R422: the new value of a word of `n` bytes. -/
def redNew (op n : Nat) (f : Option Fmt) (old operand compare : Nat) : Nat :=
  let w := 8 * n
  let x := operand % 2 ^ w
  match f with
  | some fmt =>
    let a := fmt.decode old
    let b := fmt.decode x
    let v := if op = 3 then (Val.add 0 a b).1
      else if op = 4 then Val.minNum a b else Val.maxNum a b
    (fmt.round 0 true 0 false v).1
  | none =>
    let lt (p q : Nat) : Bool := decide (signedOf w p < signedOf w q)
    match op with
    | 0 => (old + x) % 2 ^ w
    | 1 => if lt x old then x else old
    | 2 => if lt old x then x else old
    | _ => if old = compare % 2 ^ w then x else old

/-- What a reduction answers: a status and the value the word held before. -/
structure RedAns where
  st : MemSt
  old : Nat
  bad : Bool
  deriving DecidableEq, Repr

/-- R420 to R424: a reduction at the home of a word. -/
def State.reduceAt (s0 : State) (tag : ReqTag) (pa op size operand compare : Nat) : State × RedAns :=
  let s := s0.settle (pa / 128)
  match redKind op size with
  | none => (s, ⟨.error, 0, false⟩)
  | some (n, f) =>
    match s.gate tag pa 0 true with
    | (s1, .gone) => (s1.discardWrite tag pa, ⟨.gone, 0, true⟩)
    | (s1, .refused) => (s1, ⟨.error, 0, false⟩)
    | (s1, .open_) =>
      let line := pa / 128
      let s2 := (s1.recall line).redFill line
      match s2.redLine line with
      | none => (s2, ⟨.ok, 0, false⟩)
      | some l =>
        let off := pa % 128 / n * n
        let old := bits l.data.toNat (8 * off) (8 * n)
        if l.poison.getLsbD (off / 64) then (s2, ⟨.ok, old, true⟩)
        else
          let v := redNew op n f old operand compare
          let l1 := l.merge ⟨BitVec.ofNat 1024 (v * 2 ^ (8 * off)), 0⟩ ((2 ^ n - 1) * 2 ^ off)
          let pl := s2.place pa
          ((s2.redPut line l1).count (R.mcCntRu pl.cd pl.ctrl) F.mcCntRu_ops 1, ⟨.ok, old, false⟩)

/-- REDUCTION_OP (R422): the answer is the value the word held before. -/
def reductionOp (r : ReductionRequest) (s : State) : State :=
  s.commit fun s =>
    let (t, a) := s.reduceAt r.tag r.pa.toNat r.op.toNat r.fmt.toNat r.operand.toNat r.compare.toNat
    match a.st with
    | .error => t.answer .error
    | .gone => t.answer .poison
    | .ok => t.answerData a.bad [Word.of a.old]

/-! ## Meanings -/

/-- RDS (R472). -/
def execRds (h : Holder) (line : BitVec 33) (s : State) : Out := s.run fun s => coherentRead h.ix line.toNat .rdS false s
/-- RDU (R472). -/
def execRdu (h : Holder) (line : BitVec 33) (s : State) : Out := s.run fun s => coherentRead h.ix line.toNat .rdU true s
/-- UPG (R472). -/
def execUpg (h : Holder) (line : BitVec 33) (s : State) : Out := s.run fun s => coherentRead h.ix line.toNat .upg true s
/-- WB (R472). -/
def execWb (h : Holder) (line : BitVec 33) (s : State) : Out := s.run fun s => writeback h.ix line.toNat s
/-- WBC (R472). -/
def execWbc (h : Holder) (line : BitVec 33) (s : State) : Out := s.run fun s => writebackClean h.ix line.toNat s
/-- RDNC (R472). -/
def execRdnc (r : Requester) (line : BitVec 33) (s : State) : Out := s.run fun s => uncachedRow r line.toNat .rdNC s
/-- WRF (R472). -/
def execWrf (r : Requester) (line : BitVec 33) (data : List Byte) (s : State) : Out :=
  s.run fun s => uncachedRow r line.toNat (.wrF (lineOf data)) s
/-- WRP (R472). -/
def execWrp (r : Requester) (line : BitVec 33) (data : List Byte) (enables : BitVec 128) (s : State) : Out :=
  s.run fun s => uncachedRow r line.toNat (.wrP (lineOf data) enables.toNat) s
/-- SNOOP (R471). -/
def execSnoop (h : Holder) (line : BitVec 33) (kind : SnoopKind) (s : State) : Out := s.run fun s => snoopRow h.ix line.toNat kind s
/-- MISS_FILL (R460). -/
def execMissFill (h : Holder) (line : BitVec 33) (s : State) : Out := s.run fun s => missFill h.ix line.toNat s
/-- SLIVER_WRITE (R418). -/
def execSliverWrite (r : SliverRequest) (data : List Byte) (enables : BitVec 32) (s : State) : Out :=
  s.run fun s => sliverWrite r data enables s
/-- REDUCTION_OP (R422). -/
def execReductionOp (r : ReductionRequest) (s : State) : Out := s.run fun s => reductionOp r s

end Sys2Proof.Machine
end

