-- ==== Sys2Proof/Machine/CacheCtl.lean ====
section
/-!
DEFINITION. The L1, the write-merging buffer, tile memory, twin copies, and the commands that enable, disable,
clean and invalidate caches (R447 to R457, R466, R478 to R483, R583, R599).
-/

namespace Sys2Proof.Machine

/-! ## Regions of the local space (R453, R511) -/

/-- Where a physical address points, by its line PA[47:7]. -/
inductive Space where
  | dram | tile | reg | twin | none
  deriving DecidableEq, Repr

/-- Base of the tile region. -/
def tileBase : Nat := 0x800_0000_0000

/-- The region of an address. -/
def regionOf (pa : Nat) : Space :=
  if pa < 2 ^ 40 then .dram
  else if tileBase ≤ pa ∧ pa < 0x900_0000_0000 then .tile
  else if regSpace ≤ pa ∧ pa < 0xF00_0000_0000 then .reg
  else if 2 ^ 44 ≤ pa ∧ pa < 2 ^ 44 + 2 ^ 40 then .twin
  else .none

/-! ## Tile memory -/

/-- The size of a cluster's tile memory in bytes (R452). -/
def State.tileSize (s : State) (cl : Nat) : Nat := 2 * s.fld (R.l2Ctrl cl) F.l2Ctrl_tilePairs * 2 ^ 20

/-- R453: the cluster that owns a tile address and the offset in it; none where no compute die is named. -/
def tileOwner (pa : Nat) : Option (Nat × Nat) :=
  let a := pa - tileBase
  let site := a / 2 ^ 32
  let k := a % 2 ^ 32 / 2 ^ 24
  if 1 ≤ site ∧ site ≤ 8 ∧ k < 8 then some ((site - 1) * 8 + k, a % 2 ^ 24) else none

/-- What a tile request meets. -/
inductive TileGate where
  | serve | wait | refuse
  deriving DecidableEq, Repr

/-- R408, R455: a tile request is refused. -/
def State.tileRefuse (s : State) (cl : Nat) (tag : ReqTag) (pa : Nat) : State :=
  let s1 := s.count (R.cluCntTile cl) F.cluCntTile_refused 1
  let s2 := s1.rasWrite { det 1 3 (cl / 8 + 1) (cl % 8 * 16) 2 with
    addr := some (BitVec.ofNat 48 pa), arg0 := Word.of tag.num }
  s2.audit 0x0002 (cl / 8 + 1) (cl % 8 * 16) (Word.of pa) (Word.of tag.num)

/-- R453 to R457, R593: whether cluster `cl` serves a request to offset `o` of its tile memory. -/
def State.tileGateAt (s : State) (core : Option Nat) (tag : ReqTag) (pa cl o : Nat) : State × TileGate :=
  if !s.cdUp (cl / 8) then (s, .refuse)
  else if s.inI4 (cl / 8) || s.inI3 cl then (s, .wait)
  else if s.flag (R.l2Stat cl) F.l2Stat_tileChanging then (s, .wait)
  else if s.tileSize cl ≤ o then (s.count (R.cluCntTile cl) F.cluCntTile_refused 1, .refuse)
  else
    let admitted := decide (tag = .part (BitVec.ofNat 3 (s.fld (R.l2Stat cl) F.l2Stat_part))) || decide (tag = .onyx)
      || (decide (tag = .host) && s.flag (R.l2Ctrl cl) F.l2Ctrl_tileHost)
    if !admitted then (s.tileRefuse cl tag pa, .refuse)
    else
      match core with
      | some c =>
        if s.fld (R.wvClEpoch (coreCl c)) F.wvClEpoch_epoch = s.fld (R.wvClEpoch cl) F.wvClEpoch_epoch then (s, .serve)
        else (s.count R.wvCntFence F.wvCntFence_held 1, .wait)
      | none => (s, .serve)

/-- R453, R455, R457, R583: whether the owning cluster serves a request. A request of a core carries the epoch of
its cluster; `core` names it. -/
def State.tileGate (s : State) (core : Option Nat) (tag : ReqTag) (pa : Nat) : State × TileGate :=
  (tileOwner pa).elim (s, .refuse) (fun x => s.tileGateAt core tag pa x.1 x.2)

/-- The line of tile memory at an address. -/
def State.tileLine (s : State) (pa : Nat) : Line :=
  let o := (pa - tileBase) / 128 * 128
  let b (q : Nat) : Bool := Sparse.get (fun _ => false) s.tileBad (o / 64 + q)
  ⟨BitVec.ofNat 1024 (bytesLE s.tile o 128), BitVec.ofNat 2 (b2n (b 0) + 2 * b2n (b 1))⟩

/-- Write bytes of a line of tile memory. -/
def State.tilePut (s : State) (pa : Nat) (l : Line) (en : Nat) : State :=
  let o := (pa - tileBase) / 128 * 128
  let v := (s.tileLine pa).merge l en
  { s with
    tile := putLE s.tile o 128 v.data.toNat
    tileBad := Sparse.set (fun _ => false) (Sparse.set (fun _ => false) s.tileBad (o / 64) (v.poison.getLsbD 0))
      (o / 64 + 1) (v.poison.getLsbD 1) }

/-- The bytes a write of `bs` at `pa` enables in its line. -/
def spanOf (pa n : Nat) : Nat := (2 ^ n - 1) * 2 ^ (pa % 128) % 2 ^ 128

/-- The line image of bytes at an address. -/
def placed (pa : Nat) (bs : List Byte) : Line := ⟨BitVec.ofNat 1024 (ofBytes bs * 2 ^ (8 * (pa % 128))), 0⟩

/-- Serve a tile request; an answer is `none` while it waits. -/
def State.tileServe (s : State) (r : TileRequest) : State × Bool :=
  let pa := r.pa.toNat
  let tag : ReqTag := .part (BitVec.ofNat 3 (s.fld (R.l2Stat (coreCl r.core.val)) F.l2Stat_part))
  if regionOf pa ≠ .tile then (s.answer .refused, true)
  else match s.tileGate (some r.core.val) tag pa with
    | (s1, .wait) => (s1, false)
    | (s1, .refuse) => (s1.answer .error, true)
    | (s1, .serve) =>
      match r.write with
      | none =>
        let l := s1.tileLine pa
        (s1.answerData (decide (l.poison ≠ 0)) (wordsOf 16 l.data.toNat), true)
      | some bs => ((s1.tilePut pa (placed pa bs) (spanOf pa bs.length)).answer .ok, true)

/-- TILE_REQUEST (R455, R583). -/
def tileRequest (r : TileRequest) (s : State) : State :=
  if !s.up (coreSite r.core.val) then s.answer .refused
  else match s.tileServe r with
    | (s1, true) => s1
    | (s1, false) => ({ s1 with tileWait := s1.tileWait ++ [r] } : State).answer .held

/-- The requests that wait are served in order, those that still have to wait stay. -/
def State.tileRetry (s : State) : State :=
  s.tileWait.foldl (fun (t : State) r =>
    match t.tileServe r with
    | (t1, true) => t1
    | (_, false) => { t with tileWait := t.tileWait ++ [r] }) { s with tileWait := [] }

/-- R457, steps 1 to 4: TILE_PAIRS changes to `t`. -/
def State.tileChange (s : State) (cl t : Nat) : State :=
  let old := s.fld (R.l2Ctrl cl) F.l2Ctrl_tilePairs
  if t = old then s
  else
    let s1 := s.setFld (R.l2Stat cl) F.l2Stat_tileChanging 1
    let out := (s1.heldBy cl).filter (fun e => decide (16 - 2 * t ≤ e.2.way))
    let s2 := out.foldl (fun (u : State) e => (u.leafClean cl e.1).setCline cl e.1 {}) s1
    let base := (cl / 8 + 1) * 2 ^ 32 + cl % 8 * 2 ^ 24
    let keep (o : Nat) : Bool := decide (o < base + 2 * t * 2 ^ 20) || decide (base + 2 ^ 24 ≤ o)
    { s2.setFld (R.l2Ctrl cl) F.l2Ctrl_tilePairs t with
      tile := s2.tile.filter (fun e => keep e.1)
      tileBad := s2.tileBad.filter (fun e => keep (e.1 * 64)) }

/-- Every tile byte of a cluster is zero again. -/
def State.tileClear (s : State) (cl : Nat) : State :=
  let base := (cl / 8 + 1) * 2 ^ 32 + cl % 8 * 2 ^ 24
  let out (o : Nat) : Bool := decide (o < base) || decide (base + 2 ^ 24 ≤ o)
  { s with tile := s.tile.filter (fun e => out e.1), tileBad := s.tileBad.filter (fun e => out (e.1 * 64)) }

/-- TILE_CHANGE_DONE (R457, step 5). -/
def tileChangeDone (cl : Nat) (s : State) : State :=
  if s.flag (R.l2Stat cl) F.l2Stat_tileChanging then ((s.setFld (R.l2Stat cl) F.l2Stat_tileChanging 0).answer .ok).tileRetry
  else s.answer .refused

/-! ## Twin lines -/

/-- The holder key of a twin line: PA[39:7] of the partner's space. -/
def twinLine (pa : Nat) : Nat := 2 ^ 33 + pa / 128 % 2 ^ 33

/-- R466: whether a copy serves reads now. -/
def State.twinFresh (s : State) (c : CacheLine) : Bool :=
  decide (c.st ≠ .i) && decide (s.tick < c.fill + s.fld R.xlTwinCtrl F.xlTwinCtrl_ttl)

/-- R466, R512: a read of a twin line. What the partner's memory holds is free. -/
def State.twinRead (s : State) (pa : Nat) : State × Ans :=
  let k := twinLine pa
  let c := s.cline xlIx k
  if s.cacheOn xlIx && s.twinFresh c then
    (s.count R.xlCntTwin F.xlCntTwin_twinHits 1, ⟨.ok, some c.val, false⟩)
  else if !s.twinUp then (s, { st := .error })
  else
    let l : Line := ⟨BitVec.ofNat 1024 s.free, 0⟩
    let s1 := s.draw
    let m := s1.fld R.xlTwinCtrl F.xlTwinCtrl_wayMask
    let s2 := if s1.flag R.xlTwinCtrl F.xlTwinCtrl_enable then
        (s1.setCline xlIx k {}).xlInstall k ((upTo 16).filter (fun w => m.testBit w)) { st := .s, val := l, fill := s1.tick }
      else s1
    (s2, ⟨.ok, some l, false⟩)

/-- R466: a twin write invalidates the copy and is posted to the partner. -/
def State.twinWrite (s : State) (pa : Nat) : State × Ans :=
  if s.twinUp then (s.setCline xlIx (twinLine pa) {}, {}) else (s, { st := .error })

/-- R466, R493: every twin copy ends. -/
def State.twinEnd (s : State) : State :=
  { s with lines := s.lines.filter (fun e => decide (e.1 < lineKey xlIx (2 ^ 33)) || decide (lineKey xlIx (2 ^ 34) ≤ e.1)) }

/-- TWIN_COPY_EXPIRY (R466). -/
def twinCopyExpiry (pa : Nat) (s : State) : State :=
  let c := s.cline xlIx (twinLine pa)
  if c.st = .i then s.answer .refused
  else ((s.until (c.fill + s.fld R.xlTwinCtrl F.xlTwinCtrl_ttl)).setCline xlIx (twinLine pa) {}).answer .ok

/-! ## Beyond a core -/

/-- The cluster of a core reads a line beyond the core's own structures. -/
def State.beyondRead (s : State) (c pa : Nat) (l2 : Bool) : State × Ans :=
  let cl := coreCl c
  let tag : ReqTag := .part (BitVec.ofNat 3 (s.fld (R.l2Stat cl) F.l2Stat_part))
  match regionOf pa with
  | .dram => if l2 then s.cacheRead cl (pa / 128) else s.leafServe cl tag (pa / 128) .rdNC
  | .tile =>
    match s.tileGate (some c) tag pa with
    | (s1, .serve) => (s1, ⟨.ok, some (s1.tileLine pa), false⟩)
    | (s1, .wait) => (s1.wait, { st := .error })
    | (s1, .refuse) => (s1, { st := .error })
  | .twin => s.twinRead pa
  | _ => (s, { st := .error })

/-- The cluster of a core writes bytes of a line; `l2` says that the write may allocate in the L2. -/
def State.beyondWrite (s : State) (c pa : Nat) (l : Line) (en : Nat) (l2 : Bool) : State × Ans :=
  let cl := coreCl c
  let tag : ReqTag := .part (BitVec.ofNat 3 (s.fld (R.l2Stat cl) F.l2Stat_part))
  match regionOf pa with
  | .dram =>
    if l2 ∨ (s.cline cl (pa / 128)).st ≠ .i then s.cacheWrite cl (pa / 128) l en
    else (s.settle (pa / 128)).leafServe cl tag (pa / 128) (if en = allBytes then .wrF l else .wrP l en)
  | .tile =>
    match s.tileGate (some c) tag pa with
    | (s1, .serve) => (s1.tilePut pa l en, {})
    | (s1, .wait) => (s1.wait, { st := .error })
    | (s1, .refuse) => (s1, { st := .error })
  | .twin => s.twinWrite pa
  | _ => (s, { st := .error })

/-! ## L1 and merging buffer -/

/-- The L1 copy of a line. -/
def State.l1Line (s : State) (c line : Nat) : CacheLine := Sparse.get (fun _ => {}) (s.core c).l1 line

/-- Store or drop an L1 copy. -/
def State.setL1 (s : State) (c line : Nat) (x : CacheLine) : State :=
  let k := s.core c
  s.setCore c { k with l1 := Sparse.set (fun _ => {}) k.l1 line (if x.st = .i then {} else x) }

/-- Whether an L1 serves lookups. -/
def State.l1On (s : State) (c : Nat) : Bool := s.flag (R.l1Ctrl (coreCl c) (c % 16)) F.l1Ctrl_enable

/-- R451: the L1 is invalidated whole. -/
def State.l1Clear (s : State) (c : Nat) : State := s.setCore c { s.core c with l1 := [] }

/-- R443, R447: the L1 allocates a line: 128 sets, 8-way, a full set evicts a free choice. -/
def State.l1Install (s : State) (c line : Nat) (l : Line) : State :=
  let set := (s.core c).l1.filter (fun e => decide (e.1 % 128 = line % 128))
  if set.length < 8 then s.setL1 c line { st := .s, val := l }
  else
    let v := (set.map Prod.fst).getD (s.free % set.length) 0
    (s.draw.setL1 c v {}).setL1 c line { st := .s, val := l }

/-- R448: the buffer's entry of a line. -/
def State.entry (s : State) (c line : Nat) : Option MergeEnt := (s.core c).mbuf.find? (fun e => decide (e.line = line))

/-- R408, R450: a store that comes back with an error response halts the groups whose stores it carried. -/
def State.storeFailed (s : State) (c : Nat) (slots : List Nat) : State :=
  slots.foldl (fun (t : State) n =>
    let g : GroupRef := ⟨Fin.ofNat 1024 c, Fin.ofNat 256 n⟩
    if (t.grp g).resident ∧ (t.grp g).halt = none then t.haltGroup g .regAccess else t) s

/-- R449: an entry drains. -/
def State.drainLine (s : State) (c line : Nat) : State :=
  match s.entry c line with
  | none => s
  | some e =>
    let k := s.core c
    let s1 := s.setCore c { k with mbuf := k.mbuf.filter (fun x => decide (x.line ≠ line)) }
    match s1.beyondWrite c (line * 128) e.val e.en.toNat true with
    | (s2, a) => if a.st = .error then s2.storeFailed c e.slots else s2

/-- R449: the whole buffer drains, oldest entry first. -/
def State.drainAll (s : State) (c : Nat) : State :=
  ((s.core c).mbuf.map MergeEnt.line).foldl (fun (t : State) l => t.drainLine c l) s

/-- R447, R448: bytes of a store of the group in `slot` enter the buffer. -/
def State.storeBytes (s : State) (c slot line : Nat) (l : Line) (en : Nat) : State :=
  let x := s.l1Line c line
  let s1 := if s.l1On c ∧ x.st ≠ .i then s.setL1 c line { x with val := x.val.merge l en } else s
  let k := s1.core c
  match s1.entry c line with
  | some e =>
    let slots := if e.slots.contains slot then e.slots else e.slots ++ [slot]
    let e' : MergeEnt := { e with val := e.val.merge l en, en := e.en ||| BitVec.ofNat 128 en, slots := slots }
    s1.setCore c { k with mbuf := k.mbuf.map (fun y => if y.line = line then e' else y) }
  | none =>
    let s2 := match k.mbuf with
      | old :: _ => if 16 ≤ k.mbuf.length then s1.drainLine c old.line else s1
      | [] => s1
    let k2 := s2.core c
    s2.setCore c { k2 with mbuf := k2.mbuf ++ [⟨line, ({} : Line).merge l en, BitVec.ofNat 128 en, s.tick, [slot]⟩] }

/-- R450: a load of a line by a core: the buffer's bytes over the L1's, or those beyond. `need` are the bytes that
are asked for. -/
def State.loadLine (s : State) (c line need : Nat) : State × Ans :=
  let m := s.entry c line
  let merged (l : Line) : Line := match m with | some e => l.merge e.val e.en.toNat | none => l
  let whole := match m with | some e => decide (need &&& e.en.toNat = need) | none => false
  if whole then (s, ⟨.ok, some (merged {}), false⟩)
  else
    let x := s.l1Line c line
    if s.l1On c ∧ x.st ≠ .i then (s, ⟨.ok, some (merged x.val), false⟩)
    else
      let s0 := if s.l1On c then s.count (R.cluCntL1 (coreCl c) (c % 16)) F.cluCntL1_misses 1 else s
      let (s1, a) := s0.beyondRead c (line * 128) true
      match a.val with
      | some l =>
        if a.st = .ok ∧ !a.p ∧ s.l1On c then (s1.l1Install c line l, ⟨a.st, some (merged l), false⟩)
        else (s1, ⟨a.st, some (merged l), a.p⟩)
      | none => (s1, a)

/-- MERGE_BUFFER_TIMEOUT (R449). -/
def mergeBufferTimeout (c line : Nat) (s : State) : State :=
  s.commit fun s =>
    if s.up (coreSite c) && (s.entry c line).isSome then (s.drainLine c line).answer .ok else s.answer .refused

/-! ## Commands of the caches -/

/-- R479: a write of 1 to the ENABLE of an L1, or of 0. -/
def State.l1Enable (s : State) (cl m : Nat) (en : Bool) : State :=
  let a := R.l1Ctrl cl m
  if en && !s.flag a F.l1Ctrl_enable && !s.flag a F.l1Ctrl_invDone then s.setFld a F.l1Ctrl_enableRefused 1
  else s.setFld a F.l1Ctrl_enable (b2n en)

/-- R480: INVALIDATE of an L1: its merging buffer drains first. -/
def State.l1Invalidate (s : State) (cl m : Nat) : State :=
  let c := cl * 16 + m
  let s1 := (s.drainAll c).l1Clear c
  s1.setCore c { s1.core c with l1Busy := true }

/-- R479, R481, R482: a write of the ENABLE of an L2 or the far cache; the arguments are its registers' addresses. -/
def State.bigEnable (s : State) (ctrl cmd stat : Nat) (fEn fEnabled fDis : Fld) (en : Bool) : State :=
  if en then
    if s.flag ctrl fEn then s
    else if !s.flag cmd F.l2Cmd_invDone then s.setFld cmd F.l2Cmd_enableRefused 1
    else if s.flag stat fDis then s.setFld ctrl fEn 1
    else (s.setFld ctrl fEn 1).setFld stat fEnabled 1
  else if s.flag stat fEnabled then ((s.setFld ctrl fEn 0).setFld stat fEnabled 0).setFld stat fDis 1
  else s.setFld ctrl fEn 0

/-- A write of CLU_L2_CTRL.ENABLE. -/
def State.l2Enable (s : State) (cl : Nat) (en : Bool) : State :=
  s.bigEnable (R.l2Ctrl cl) (R.l2Cmd cl) (R.l2Stat cl) F.l2Ctrl_enable F.l2Stat_enabled F.l2Stat_disabling en

/-- A write of XL_CTRL.ENABLE. -/
def State.xlEnable (s : State) (en : Bool) : State :=
  s.bigEnable R.xlCtrl R.xlCmd R.xlStat F.xlCtrl_enable F.xlStat_enabled F.xlStat_disabling en

/-- R480: the INVALIDATE of an L2 or the far cache. -/
def State.bigInvalidate (s : State) (ctrl cmd stat : Nat) (fEn fDis : Fld) : State :=
  if s.flag ctrl fEn || s.flag stat fDis || s.flag cmd F.l2Cmd_busy then s.setFld cmd F.l2Cmd_cmdRefused 1
  else s.setFld cmd F.l2Cmd_busy 1

/-- INVALIDATE of an L2. -/
def State.l2Invalidate (s : State) (cl : Nat) : State :=
  s.bigInvalidate (R.l2Ctrl cl) (R.l2Cmd cl) (R.l2Stat cl) F.l2Ctrl_enable F.l2Stat_disabling

/-- INVALIDATE of the far cache. -/
def State.xlInvalidate (s : State) : State :=
  s.bigInvalidate R.xlCtrl R.xlCmd R.xlStat F.xlCtrl_enable F.xlStat_disabling

/-- Every dirty line of a cache is written back by WBC. -/
def State.cleanAll (s : State) (h : Nat) : State :=
  ((s.heldBy h).filter (fun e => e.2.st.dirty)).foldl (fun (t : State) e =>
    if h = xlIx then t.xlClean e.1 else t.leafClean h e.1) s

/-- CLEAN of an L2 or the far cache (R495, R500). -/
def State.bigClean (s : State) (h cmd : Nat) : State :=
  if s.flag cmd F.l2Cmd_busy then s.setFld cmd F.l2Cmd_cmdRefused 1
  else if s.cacheLive h then s.cleanAll h else s

/-- INVALIDATE_DONE (R478, R480, R482). -/
def invalidateDone (k : CacheRef) (s : State) : State :=
  match k with
  | .l1 c =>
    if (s.core c.val).l1Busy then
      let s1 := s.l1Clear c.val
      let s2 := s1.setCore c.val { s1.core c.val with l1Busy := false }
      (s2.setFld (R.l1Ctrl (coreCl c.val) (c.val % 16)) F.l1Ctrl_invDone 1).answer .ok
    else s.answer .refused
  | .l2 cl =>
    if s.flag (R.l2Cmd cl.val) F.l2Cmd_busy then
      ((((s.clearHolder cl.val).setFld (R.l2Cmd cl.val) F.l2Cmd_busy 0).setFld (R.l2Cmd cl.val) F.l2Cmd_invDone 1).setFld
        (R.l2Stat cl.val) F.l2Stat_staleRisk 0).answer .ok
    else s.answer .refused
  | .xl =>
    if s.flag R.xlCmd F.xlCmd_busy then
      ((((s.clearHolder xlIx).setFld R.xlCmd F.xlCmd_busy 0).setFld R.xlCmd F.xlCmd_invDone 1).setFld
        R.xlStat F.xlStat_staleRisk 0).answer .ok
    else s.answer .refused

/-- R481: the steps 2 to 4 of a disable end. -/
def State.disableEnd (s : State) (h ctrl stat : Nat) (fEn fEnabled fDis : Fld) : State :=
  if s.flag stat fDis then
    let s1 := (s.miss.filter (fun m => decide (m.holder = h))).foldl (fun t m => t.fillOne m) s
    let s2 := (s1.cleanAll h).setFld stat fDis 0
    (if s2.flag ctrl fEn then s2.setFld stat fEnabled 1 else s2).answer .ok
  else s.answer .refused

/-- DISABLE_DONE (R481). -/
def disableDone (k : CacheRef) (s : State) : State :=
  s.commit fun s =>
    match k with
    | .l1 _ => s.answer .refused
    | .l2 cl => s.disableEnd cl.val (R.l2Ctrl cl.val) (R.l2Stat cl.val) F.l2Ctrl_enable F.l2Stat_enabled F.l2Stat_disabling
    | .xl => s.disableEnd xlIx R.xlCtrl R.xlStat F.xlCtrl_enable F.xlStat_enabled F.xlStat_disabling

/-- R478: a cache's array self-test starts: its arrays are cleared and INV_DONE returns to 0. -/
def State.arrayTest (s : State) (k : CacheRef) : State :=
  match k with
  | .l1 c => (s.l1Clear c.val).setFld (R.l1Ctrl (coreCl c.val) (c.val % 16)) F.l1Ctrl_invDone 0
  | .l2 cl => (s.clearHolder cl.val).setFld (R.l2Cmd cl.val) F.l2Cmd_invDone 0
  | .xl => (s.clearHolder xlIx).setFld R.xlCmd F.xlCmd_invDone 0

/-! ## Cache-block operations of host cores (R599) -/

/-- CBO.CLEAN, CBO.FLUSH and CBO.INVAL on the line that holds a block. -/
def cboLine (h : HostRef) (pa : Nat) (flush : Bool) (s : State) : State :=
  s.commit fun s =>
    let line := pa / 128
    let t := s.settle line
    if !t.up (9 + h.hd.val) then t.answer .refused
    else (if flush then t.leafEvict (72 + h.hd.val) line else t.leafClean (72 + h.hd.val) line).answer .ok

/-- CBO.ZERO: 64 B of zeros stored into the line. -/
def cboZero (h : HostRef) (pa : Nat) (s : State) : State :=
  s.commit fun s =>
    let q := pa / 64 % 2
    if !s.up (9 + h.hd.val) then s.answer .refused
    else
      let (t, a) := s.cacheWrite (72 + h.hd.val) (pa / 128) {} ((2 ^ 64 - 1) * 2 ^ (64 * q))
      t.answerAns { a with val := none }

/-! ## Meanings -/

/-- TILE_REQUEST (R455). -/
def execTileRequest (r : TileRequest) (s : State) : Out := s.run fun s => tileRequest r s
/-- TILE_CHANGE_DONE (R457). -/
def execTileChangeDone (cl : ClIx) (s : State) : Out := s.run fun s => tileChangeDone cl.val s
/-- TWIN_COPY_EXPIRY (R466). -/
def execTwinCopyExpiry (line : BitVec 48) (s : State) : Out := s.run fun s => twinCopyExpiry line.toNat s
/-- MERGE_BUFFER_TIMEOUT (R449). -/
def execMergeBufferTimeout (c : CoreIx) (line : BitVec 41) (s : State) : Out := s.run fun s => mergeBufferTimeout c.val line.toNat s
/-- INVALIDATE_DONE (R478). -/
def execInvalidateDone (k : CacheRef) (s : State) : Out := s.run fun s => invalidateDone k s
/-- DISABLE_DONE (R481). -/
def execDisableDone (k : CacheRef) (s : State) : Out := s.run fun s => disableDone k s
/-- CBO_CLEAN (R599). -/
def execCboClean (h : HostRef) (pa : BitVec 40) (s : State) : Out := s.run fun s => cboLine h pa.toNat false s
/-- CBO_FLUSH (R599). -/
def execCboFlush (h : HostRef) (pa : BitVec 40) (s : State) : Out := s.run fun s => cboLine h pa.toNat true s
/-- CBO_INVAL (R599): it acts as CBO.FLUSH. -/
def execCboInval (h : HostRef) (pa : BitVec 40) (s : State) : Out := s.run fun s => cboLine h pa.toNat true s
/-- CBO_ZERO (R599). -/
def execCboZero (h : HostRef) (pa : BitVec 40) (s : State) : Out := s.run fun s => cboZero h pa.toNat s

end Sys2Proof.Machine
end

