-- ==== Sys2Proof/Machine/Translate.lean ====
section
/-!
DEFINITION. Translation: contexts, page tables, walkers and their caches, rights, faults and the fault queues,
shootdowns (R502 to R523, R543 to R555).
-/

namespace Sys2Proof.Machine

/-! ## Reads of tables -/

/-- What a read of a table word gives. -/
inductive TableRead where
  | word (w : Word)
  | refused
  | poisoned
  deriving DecidableEq, Repr

/-- R505: an uncached coherent read of a doubleword with requester tag HOST. The tables must lie in this module's
DRAM. -/
def State.tableWord (s : State) (site pa : Nat) : State × TableRead :=
  if regionOf pa ≠ .dram then (s, .refused)
  else
    let (s1, a) := s.uncached site .host (pa / 128) .rdNC false
    match a.st, a.val with
    | .error, _ => (s1, .refused)
    | _, some l =>
      if l.poison.getLsbD (pa % 128 / 64) then
        (s1.rasWrite { det 1 6 site 0 1 with
          consumed := true, addr := some (BitVec.ofNat 48 (pa / 64 * 64)), arg0 := 6 }, .poisoned)
      else (s1, .word (Word.of (bits l.data.toNat (8 * (pa % 128 / 8 * 8)) 64)))
    | _, none => (s1, .refused)

/-! ## Walkers -/

/-- A walker's number. -/
def Walker.ix : Walker → Nat
  | .cluster cl => cl.val
  | .die cd => 64 + cd.val
  | .hub => 72

/-- The site of a walker. -/
def walkerSite (w : Nat) : Nat := if w < 64 then w / 8 + 1 else if w < 72 then w - 63 else 0

/-- A walker's caches. -/
def State.walker (s : State) (w : Nat) : WalkerSt := Sparse.get (fun _ => {}) s.walk w

/-- Store a walker's caches. -/
def State.setWalker (s : State) (w : Nat) (k : WalkerSt) : State :=
  { s with walk := Sparse.set (fun _ => {}) s.walk w k }

/-- Pages of a walker's TLB (R514). -/
def tlbCap (w : Nat) : Nat := if w < 64 then 2048 else 4096

/-- Append to a bounded list, which loses a free choice of its entries when it is full. -/
def bounded {α : Type} (cap free : Nat) (l : List α) (x : α) : List α :=
  if l.length < cap then l ++ [x] else l.eraseIdx (free % l.length) ++ [x]

/-- The access types of R510; 3 is a PFENCE, reported as READ. -/
inductive XAcc where
  | read | write | atomic | fence
  deriving DecidableEq, Repr

/-- The code of an access type (R546). -/
def XAcc.code : XAcc → Nat
  | .read => 0
  | .write => 1
  | .atomic => 2
  | .fence => 0

/-- A fault of a walk: cause, level, hint and the walker's SEQ (R543, R546). -/
structure WalkFault where
  cause : Nat
  level : Nat
  hint : Nat
  seq : Nat
  deriving DecidableEq, Repr

/-- What a translation gives: a physical address, a context error (R504), or a fault. -/
inductive Xl where
  | ok (pa : Nat)
  | context
  | fault (f : WalkFault)
  deriving DecidableEq, Repr

/-- R502: the words of a context entry as an entry, unless it is not VALID or a reserved bit is 1. -/
def ctxOf (ctx : Nat) (w0 w1 w2 w3 : Word) : Option CtxEnt :=
  let a := w0.toNat
  let b := w1.toNat
  if a % 2 = 1 ∧ bits a 5 59 = 0 ∧ bits b 0 14 = 0 ∧ bits b 44 20 = 0 ∧ w3 = 0 then
    some ⟨ctx, bits a 1 3, decide (bits a 4 1 = 1), bits b 14 30 * 2 ^ 14, bits w2.toNat 0 32⟩
  else none

/-- What reading a context entry gives. -/
inductive CtxRead where
  | ent (e : CtxEnt)
  | context
  | table
  deriving DecidableEq, Repr

/-- R504, R505, R515: the context entry of a walker: kept, or read; one that is good is kept. `fresh` reads it
again. -/
def State.ctxEntry (s : State) (w ctx : Nat) (fresh : Bool) : State × CtxRead :=
  let k := s.walker w
  match (if fresh then none else k.ctxs.find? (fun e => decide (e.ctx = ctx))) with
  | some e => (s, .ent e)
  | none =>
    let pa := s.fld R.ctxBase F.ctxBase_base * 2 ^ 13 + 32 * ctx
    let site := walkerSite w
    let (s0, r0) := s.tableWord site pa
    match r0 with
    | .word w0 =>
      let (s1, r1) := s0.tableWord site (pa + 8)
      let (s2, r2) := s1.tableWord site (pa + 16)
      let (s3, r3) := s2.tableWord site (pa + 24)
      match r1, r2, r3 with
      | .word w1, .word w2, .word w3 =>
        match ctxOf ctx w0 w1 w2 w3 with
        | some e =>
          let k3 := s3.walker w
          (s3.setWalker w { k3 with ctxs := k3.ctxs.filter (fun x => decide (x.ctx ≠ ctx)) ++ [e] }, .ent e)
        | none => (s3, .context)
      | _, _, _ => (s3, .table)
    | _ => (s0, .table)

/-- R509: whether a valid pointer is a bad entry at its level. -/
def badPointer (e level : Nat) : Bool := decide (level = 3) || decide (bits e 2 12 ≠ 0) || decide (bits e 44 12 ≠ 0)

/-- R509: whether a valid leaf is a bad entry at its level and index. -/
def badLeaf (e level idx : Nat) : Bool :=
  let size := bits e 7 2
  let pa := bits e 16 32 * 2 ^ 16
  let node := bits pa 44 4
  let a := decide (bits e 4 1 = 1)
  decide (level = 1) || decide (bits e 5 2 = 3) || decide (size = 3) || decide (8 < bits e 9 4)
    || decide (bits e 13 3 ≠ 0) || decide (bits e 48 8 ≠ 0) || (decide (level = 2) && decide (size ≠ 2))
    || (decide (level = 3) && decide (size = 2)) || (a && decide (bits e 3 1 = 0)) || decide (1 < node)
    || (decide (node = 1) && (a || decide (bits pa 40 4 ≠ 0)))
    || (decide (size = 1) && decide (bits pa 16 5 ≠ idx % 32))
    || (decide (size = 2) && (decide (bits pa 26 4 ≠ idx % 16) || decide (bits pa 16 10 ≠ 0)))

/-- R508: the cached translation of a good leaf. -/
def leafEnt (ctx va e level : Nat) : TlbEnt :=
  let pages := match bits e 7 2 with | 0 => 1 | 1 => 32 | _ => 2 ^ 14
  let pa := bits e 16 32 * 2 ^ 16
  let bytes := pages * 2 ^ 16
  { ctx := ctx, page := va / bytes * pages, pages := pages, pa := pa / bytes * bytes
    r := decide (bits e 2 1 = 1), w := decide (bits e 3 1 = 1), a := decide (bits e 4 1 = 1)
    owner := bits e 5 2, hint := bits e 9 4, level := level }

/-- R506: the index of an address at a level, and the shift of the VA bits that lead to its table. -/
def levelIdx (va : Nat) : Nat → Nat
  | 1 => bits va 37 11
  | 2 => bits va 26 11
  | _ => bits va 16 10

/-- The VA bits above the index of a level. -/
def levelPrefix (va : Nat) : Nat → Nat
  | 2 => va / 2 ^ 37
  | 3 => va / 2 ^ 26
  | _ => 0

/-- R506: walk from a table of a level; `n` bounds the levels that remain. -/
def State.walkFrom (s : State) (w ctx va seq : Nat) : Nat → Nat → Nat → State × Except WalkFault TlbEnt
  | 0, level, _ => (s, .error ⟨3, level, 0, seq⟩)
  | n + 1, level, table =>
    let idx := levelIdx va level
    let (s1, r) := s.tableWord (walkerSite w) (table + 8 * idx)
    match r with
    | .word word =>
      let e := word.toNat
      let hint := if level = 1 then 0 else bits e 9 4
      if e % 2 = 0 then (s1, .error ⟨0, level, hint, seq⟩)
      else if bits e 1 1 = 1 then
        if badPointer e level then (s1, .error ⟨3, level, 0, seq⟩)
        else
          let next := bits e 14 30 * 2 ^ 14
          let k := s1.walker w
          let pre := levelPrefix va (level + 1)
          let rest := k.ptrs.filter (fun p => !(decide (p.ctx = ctx) && decide (p.level = level + 1) && decide (p.prefix_ = pre)))
          let ptrs := bounded 512 s1.free rest ⟨ctx, level + 1, pre, next⟩
          (s1.setWalker w { k with ptrs := ptrs }).draw.walkFrom w ctx va seq n (level + 1) next
      else if badLeaf e level idx then (s1, .error ⟨3, level, hint, seq⟩)
      else (s1, .ok (leafEnt ctx va e level))
    | _ => (s1, .error ⟨4, level, 0, seq⟩)

/-- R506, R514: a walk, from the deepest table the walk cache supplies unless `fresh`. -/
def State.walkVa (s : State) (w : Nat) (e : CtxEnt) (va : Nat) (fresh : Bool) : State × Except WalkFault TlbEnt :=
  let ptr (level : Nat) : Option PtrEnt :=
    if fresh then none
    else (s.walker w).ptrs.find? (fun p => decide (p.ctx = e.ctx) && decide (p.level = level) && decide (p.prefix_ = levelPrefix va level))
  match ptr 3 with
  | some p => s.walkFrom w e.ctx va e.seq 1 3 p.next
  | none =>
    match ptr 2 with
    | some p => s.walkFrom w e.ctx va e.seq 2 2 p.next
    | none => s.walkFrom w e.ctx va e.seq 3 1 e.root

/-! ## Rights -/

/-- R510: the cause of a fault of an access that a leaf does not admit. -/
def TlbEnt.denies (t : TlbEnt) (acc : XAcc) (host : Bool) : Option Nat :=
  let right := match acc with
    | .read => t.r
    | .write => t.w
    | .atomic => t.w && t.a
    | .fence => true
  if !right then some 1
  else if decide (t.owner = 0) && !host && decide (acc ≠ .fence) then some 2
  else none

/-- Whether an entry covers an address of a context. -/
def TlbEnt.covers (t : TlbEnt) (ctx va : Nat) : Bool :=
  decide (t.ctx = ctx) && decide (t.page ≤ va / 2 ^ 16) && decide (va / 2 ^ 16 < t.page + t.pages)

/-- The physical address of an address an entry covers. -/
def TlbEnt.addr (t : TlbEnt) (va : Nat) : Nat := t.pa + (va - t.page * 2 ^ 16)

/-- Whether two entries of a context overlap. -/
def TlbEnt.overlaps (x t : TlbEnt) : Bool :=
  decide (x.ctx = t.ctx) && decide (x.page < t.page + t.pages) && decide (t.page < x.page + x.pages)

/-- A walker takes a translation, in place of one for the same page. -/
def State.keepTlb (s : State) (w : Nat) (t : TlbEnt) : State :=
  let k := s.walker w
  let tlb := bounded (tlbCap w) s.free (k.tlb.filter (fun x => !x.overlaps t)) t
  (s.setWalker w { k with tlb := tlb }).draw

/-- A core TLB takes a translation (R514). -/
def State.keepCoreTlb (s : State) (core : Option Nat) (t : TlbEnt) : State :=
  match core with
  | none => s
  | some c =>
    let k := s.core c
    let tlb := bounded 64 s.free (k.tlb.filter (fun x => !x.overlaps t)) t
    (s.setCore c { k with tlb := tlb }).draw

/-- R503 to R516: translate an address for a requester: its walker, its core if it is one, context, partition
(none: whatever the context's), access and whether HOST-owned pages are admitted. Bits above VA[47] are not
translated. A walk of a context that is being shot down waits (R521). -/
def State.translate (s : State) (w : Nat) (core : Option Nat) (ctx : Nat) (part : Option Nat) (va64 : Nat) (acc : XAcc)
    (host : Bool) : State × Xl :=
  let va := va64 % 2 ^ 48
  if !s.flag R.ctxBase F.ctxBase_enable then (s, .context)
  else
    match s.ctxEntry w ctx false with
    | (s1, .context) => (s1, .context)
    | (s1, .table) => (s1, .fault ⟨4, 0, 0, 0⟩)
    | (s1, .ent e) =>
      if (match part with | some p => decide (p ≠ e.part) | none => false) then (s1, .context)
      else
        let own : List TlbEnt := match core with | some c => (s1.core c).tlb | none => []
        let cached := (own ++ (s1.walker w).tlb).find? (fun t => t.covers ctx va)
        match cached.bind (fun t => if (t.denies acc host).isNone then some t else none) with
        | some t => (s1.keepCoreTlb core t, .ok (t.addr va))
        | none =>
          let s2 := if (match s1.shoot with | some h => decide (h.ctx = ctx) | none => false) then s1.wait else s1
          match s2.walkVa w e va cached.isSome with
          | (s3, .error f) => (s3, .fault f)
          | (s3, .ok t) =>
            let s4 := (s3.keepTlb w t).keepCoreTlb core t
            match t.denies acc host with
            | some cause => (s4, .fault ⟨cause, t.level, t.hint, e.seq⟩)
            | none => (s4, .ok (t.addr va))

/-- TABLE_WALK (R506): the walker translates; the answer is the physical address. -/
def tableWalk (w : Walker) (r : WalkRequest) (s : State) : State :=
  s.commit fun s =>
    if !s.up (walkerSite w.ix) then s.answer .refused
    else
      let part : Option Nat := match w with
        | .cluster cl => some (s.fld (R.l2Stat cl.val) F.l2Stat_part)
        | _ => none
      let acc : XAcc := if r.write then .write else .read
      match s.translate w.ix none r.ctx.toNat part r.va.toNat acc false with
      | (s1, .ok pa) => s1.answer .ok [Word.of pa]
      | (s1, .context) => s1.answer .error
      | (s1, .fault f) => s1.answer .refused [Word.of f.cause, Word.of f.level, Word.of f.hint]

/-! ## Fault queues -/

/-- A unit's number. -/
def SeRef.ix : SeRef → Nat
  | .cd n e => n.val * 16 + e.val
  | .hub e => 128 + e.val

/-- The unit number of an engine. -/
def seUnit (e : Nat) : Nat := 1024 + e

/-- A unit's number. -/
def FaultUnit.ix : FaultUnit → Nat
  | .core c => c.val
  | .se e => seUnit e.ix
  | .ring r => 2048 + r.toNat

/-- REQ_DIE and REQ_UNIT of a unit (R546). A command ring belongs to the hub. -/
def unitPlace (u : Nat) : Nat × Nat :=
  if u < 1024 then (coreSite u, coreUnit u)
  else if u < 1024 + 128 then ((u - 1024) / 16 + 1, 0x80 + (u - 1024) % 16)
  else if u < 2048 then (0, 0x80 + (u - 1152))
  else (0, 0x80 + (u - 2048))

/-- A unit's fault. -/
def State.unitFault (s : State) (u : Nat) : Option XlFault := Sparse.get (fun _ => none) s.ufault u

/-- Store a unit's fault. -/
def State.setUnitFault (s : State) (u : Nat) (f : Option XlFault) : State :=
  { s with ufault := Sparse.set (fun _ => none) s.ufault u f }

/-- A partition's queue. -/
def State.fqueue (s : State) (p : Nat) : FqSt := Sparse.get (fun _ => {}) s.fq p

/-- Store a partition's queue; PENDING, HELD and FULL follow, and a change of FULL from 0 to 1 raises source
16 + p (R547). -/
def State.setFq (s : State) (p : Nat) (q : FqSt) : State :=
  let size := 2 ^ s.fld (R.fqBase p) F.fqBase_sizeLog2
  let s1 : State := { s with fq := Sparse.set (fun _ => {}) s.fq p q }
  let s2 := s1.setFld (R.fqProd p) F.fqProd_pending q.pend.length
  let used := (s2.fld (R.fqProd p) F.fqProd_prod + 2 ^ 32 - s2.fld (R.fqCons p) F.fqCons_cons) % 2 ^ 32
  let full := decide (size ≤ q.pend.length) || decide (size ≤ used)
  let was := s2.flag (R.fqStat p) F.fqStat_full
  let s3 := (s2.setFld (R.fqStat p) F.fqStat_full (b2n full)).setFld (R.fqStat p) F.fqStat_held q.held.length
  if full && !was then s3.raise 0 (16 + p) else s3

/-- R546: bytes written by the spindle with tag HOST, the DRAM-direct attribute and class P1, which no regulator
holds; a refusal is recorded under R408. -/
def State.hubWrite (s : State) (pa : Nat) (bs : List Byte) : State :=
  if regionOf pa ≠ .dram then s
  else
    let up := s.cdUp (s.place pa).cd
    match (if up then s.refuses .host pa else none) with
    | some why => s.refuse .host pa why
    | none => (s.uncached 0 .onyx (pa / 128) (.wrP (placed pa bs) (spanOf pa bs.length)) true).1

/-- R546: the address of an entry of a partition's ring. -/
def State.fqAddr (s : State) (p idx : Nat) : Nat :=
  s.fld (R.fqBase p) F.fqBase_base * 2 ^ 12 + 32 * (idx % 2 ^ s.fld (R.fqBase p) F.fqBase_sizeLog2)

/-- R546: the word of an entry that holds SEQ and COUNT. -/
def countWord (seq count : Nat) : Nat := seq % 2 ^ 32 + min count 0xFFFF * 2 ^ 32

/-- R546: the image of a fault entry. -/
def State.faultEntry (s : State) (u idx : Nat) (f : XlFault) : List Byte :=
  let n := s.fld (R.fqBase f.key.part) F.fqBase_sizeLog2
  let (die, unit) := unitPlace u
  toBytes 8 ((1 - bits idx n 1) + f.key.part * 2 + f.key.acc * 2 ^ 4 + f.cause * 2 ^ 6 + f.level * 2 ^ 9
      + f.key.ctx * 2 ^ 11 + die * 2 ^ 19 + unit * 2 ^ 23 + f.hint * 2 ^ 31)
    ++ toBytes 8 (countWord f.seq 1) ++ toBytes 8 f.va ++ toBytes 8 (f.tick % 2 ^ 32)

/-- R545: a fault joins the pending entry of its key. -/
def State.fqJoin (s : State) (u : Nat) (f : XlFault) (e : PendingFault) : State :=
  let p := f.key.part
  let q := s.fqueue p
  let e' : PendingFault := { e with count := e.count + 1 }
  let s1 := (s.setUnitFault u (some { f with stand := .pending e.idx })).setFq p
    { q with pend := q.pend.map (fun x => if x = e then e' else x) }
  let s2 := s1.count (R.cntFq p) F.cntFq_merged 1
  -- the entry's COUNT word is rewritten while the driver has not consumed it
  let behind := (e.idx + 2 ^ 32 - s2.fld (R.fqCons p) F.fqCons_cons) % 2 ^ 32
  let size := 2 ^ s2.fld (R.fqBase p) F.fqBase_sizeLog2
  if behind < size then s2.hubWrite (s2.fqAddr p e.idx + 12) (toBytes 2 (min e'.count 0xFFFF)) else s2

/-- R546: whether a new entry can be written. -/
def State.fqOpen (s : State) (p : Nat) : Bool :=
  s.flag (R.fqBase p) F.fqBase_enable && !s.flag (R.fqStat p) F.fqStat_full

/-- R546: a fault is admitted as entry PROD. -/
def State.fqAdmit (s : State) (u : Nat) (f : XlFault) : State :=
  let p := f.key.part
  let idx := s.fld (R.fqProd p) F.fqProd_prod
  let q := s.fqueue p
  let s1 := s.setFld (R.fqProd p) F.fqProd_prod (idx + 1)
  let s2 := (s1.setUnitFault u (some { f with stand := .pending idx })).hubWrite (s1.fqAddr p idx) (s1.faultEntry u idx f)
  (s2.raise 0 (8 + p)).setFq p { q with pend := q.pend ++ [⟨idx, f.key, 1⟩] }

/-- The pending entry of a key. -/
def FqSt.find (q : FqSt) (k : FaultKey) : Option PendingFault := q.pend.find? (fun e => decide (e.key = k))

/-- FAULT_ARRIVAL (R545 to R547): a fault joins, is admitted, or is held. -/
def State.faultArrives (s : State) (u : Nat) : State :=
  match s.unitFault u with
  | none => s
  | some f =>
    if f.stand ≠ .arising then s
    else
      let p := f.key.part
      let q := s.fqueue p
      match q.find f.key with
      | some e => s.fqJoin u f e
      | none =>
        if s.fqOpen p then s.fqAdmit u f
        else
          let s1 := s.setUnitFault u (some { f with stand := .held })
          (s1.setFq p { q with held := q.held ++ [u] }).count (R.cntFq p) F.cntFq_overflow 1

/-- R550: held faults of a partition are released in order. -/
def State.fqRelease (s : State) (p : Nat) : State :=
  let order := (s.fqueue p).held
  let s0 := s.setFq p { s.fqueue p with held := [] }
  (order.foldl (fun (t : State × Bool) u =>
    match t.1.unitFault u with
    | none => t
    | some f =>
      match (t.1.fqueue p).find f.key with
      | some e => (t.1.fqJoin u f e, t.2)
      | none =>
        if !t.2 && t.1.fqOpen p then (t.1.fqAdmit u f, t.2)
        else (t.1.setFq p { t.1.fqueue p with held := (t.1.fqueue p).held ++ [u] }, true)) (s0, false)).1

/-- A core's fault is over: the waiting group translates again. -/
def State.wakeCore (s : State) (c : Nat) (f : XlFault) : State :=
  let g : GroupRef := ⟨Fin.ofNat 1024 c, Fin.ofNat 256 f.slot⟩
  let x := s.grp g
  if x.wait = .fault then s.setGrp g { x with wait := .none } else s

/-- R554, R542: a unit withdraws from its fault; a pending fault stays pending. -/
def State.withdraw (s : State) (u : Nat) : State :=
  match s.unitFault u with
  | none => s
  | some f =>
    let s1 := s.setUnitFault u none
    let p := f.key.part
    match f.stand with
    | .held => s1.setFq p { s1.fqueue p with held := (s1.fqueue p).held.filter (fun x => decide (x ≠ u)) }
    | _ => s1

/-- A translation fault of a group: it waits, and its core holds the fault until it reaches the queue (R181,
R549). -/
def State.coreFault (s : State) (g : GroupRef) (part ctx va : Nat) (acc : XAcc) (f : WalkFault) : State :=
  let c := g.core.val
  let s1 := s.setUnitFault c (some ⟨⟨part, ctx, va % 2 ^ 48 / 2 ^ 16, acc.code⟩, va % 2 ^ 48, f.cause, f.level, f.hint,
    f.seq, s.tick, g.slot.val, .arising⟩)
  s1.setGrp g { s1.grp g with wait := .fault }

/-! ## Shootdowns -/

/-- The engine's state. -/
def State.seSt (s : State) (e : Nat) : SeSt := Sparse.get (fun _ => {}) s.se e

/-- Store an engine's state. -/
def State.setSeSt (s : State) (e : Nat) (k : SeSt) : State := { s with se := Sparse.set (fun _ => {}) s.se e k }

/-- An engine by its number. -/
def seRefOf (e : Nat) : SeRef := if e < 128 then .cd (Fin.ofNat 8 (e / 16)) (Fin.ofNat 16 (e % 16)) else .hub (Fin.ofNat 8 (e - 128))

/-- R519 steps 2 and 3: the entries of a context that overlap the pages drop, and descriptors are marked. -/
def State.shootDrop (s : State) (ctx lo hi : Nat) : State × Nat :=
  let hit (t : TlbEnt) : Bool := decide (t.ctx = ctx) && decide (t.page < hi) && decide (lo < t.page + t.pages)
  let ptrHit (p : PtrEnt) : Bool :=
    let sh := if p.level = 2 then 21 else 10
    decide (p.ctx = ctx) && decide (p.prefix_ * 2 ^ sh < hi) && decide (lo < (p.prefix_ + 1) * 2 ^ sh)
  let walk := s.walk.map (fun e => (e.1, ({ e.2 with tlb := e.2.tlb.filter (fun t => !hit t)
                                                     ptrs := e.2.ptrs.filter (fun p => !ptrHit p) } : WalkerSt)))
  let s1 : State := { s with walk := walk.filter (fun e => decide (e.2 ≠ {})) }
  let s2 := (upTo 1024).foldl (fun (t : State) c =>
    if (t.core c).tlb.any hit then t.setCore c { t.core c with tlb := (t.core c).tlb.filter (fun x => !hit x) } else t) s1
  (upTo 136).foldl (fun (t : State × Nat) e =>
    let k := t.1.seSt e
    if t.1.fld (seRefOf e).ctrl F.seCtrl_ctx ≠ ctx then t
    else
      let within (d : SeDesc) : Bool := decide (d.ended = none) && d.runs.any (fun r => decide (lo ≤ r.page) && decide (r.page < hi))
      let q := k.queue.map (fun d => if within d then { d with marked := true } else d)
      let fe := k.fetching.map (fun d => if within d then { d with marked := true } else d)
      (t.1.setSeSt e { k with queue := q, fetching := fe }, t.2 + (k.queue.filter (fun d => within d && !d.marked)).length)) (s2, 0)

/-- SHOOTDOWN_GO (R519, R523): a write of 1 to GO. -/
def State.shootGo (s : State) : State :=
  if s.flag R.shootStat F.shootStat_busy then s.setFld R.shootStat F.shootStat_refused 1
  else
    let ctl := s.reg R.shootCtrl
    let all := F.shootCtrl_all.get ctl = 1
    let lo := if all then 0 else s.fld R.shootVa F.shootVa_va
    let hi := if all then 2 ^ 32 else lo + F.shootCtrl_npages.get ctl + 1
    let ctx := F.shootCtrl_ctx.get ctl
    let (s1, n) := s.shootDrop ctx lo hi
    { s1.setFld R.shootStat F.shootStat_busy 1 with shoot := some ⟨ctx, lo, hi, n⟩ }

/-- R519 step 4 at one walker: it reads the context entry again. -/
def State.rereadCtx (s : State) (w ctx : Nat) : State :=
  if !s.up (walkerSite w) then s
  else
    let k := s.walker w
    let s0 := s.setWalker w { k with ctxs := k.ctxs.filter (fun e => decide (e.ctx ≠ ctx)) }
    if !s.flag R.ctxBase F.ctxBase_enable then s0
    else
      match s0.ctxEntry w ctx true with
      | (s1, .ent e) =>
        if e.seq ≠ s1.fld R.shootSeq F.shootSeq_seq then s1.setFld R.shootStat F.shootStat_seqMismatch 1 else s1
      | (s1, _) => s1

/-- SHOOTDOWN_DONE (R519, steps 3 to 5). -/
def shootdownDone (s : State) : State :=
  s.commit fun s =>
    match s.shoot with
    | none => s.answer .refused
    | some h =>
      let s1 := (upTo 73).foldl (fun (t : State) w => t.rereadCtx w h.ctx) s
      let s2 := ((s1.setFld R.shootStat F.shootStat_busy 0).setFld R.shootStat F.shootStat_requeued h.marked).count
        R.cntShoot F.cntShoot_shootdowns 1
      ({ s2 with shoot := none } : State).answer .ok

/-! ## Meanings -/

/-- TABLE_WALK (R506). -/
def execTableWalk (w : Walker) (r : WalkRequest) (s : State) : Out := s.run fun s => tableWalk w r s
/-- FAULT_ARRIVAL (R546). -/
def execFaultArrival (u : FaultUnit) (s : State) : Out := s.run fun s => (s.faultArrives u.ix).answer .ok
/-- SHOOTDOWN_DONE (R519). -/
def execShootdownDone (s : State) : Out := s.run fun s => shootdownDone s

end Sys2Proof.Machine
end

