-- ==== Sys2Proof/Machine/Sync.lean ====
section
/-!
DEFINITION. Synchronization objects: counters and locks, their queues, and SYNC_CMD (R188 to R205, R215 to R217).
-/

namespace Sys2Proof.Machine

/-! ## Statuses -/

/-- R203: the status codes. -/
inductive SyncStatus where
  | ok | timeout | heldOwnGroup | heldSelf | notOwner | noSlot | wrongType | abandoned | outOfService | badObject | disabled
  deriving DecidableEq, Repr

/-- R203: the number of a status. -/
def SyncStatus.num : SyncStatus → Nat
  | .ok => 0 | .timeout => 1 | .heldOwnGroup => 2 | .heldSelf => 3 | .notOwner => 4 | .noSlot => 5
  | .wrongType => 6 | .abandoned => 7 | .outOfService => 8 | .badObject => 9 | .disabled => 10

/-- Whether a status grants a lock. -/
def SyncStatus.grants : SyncStatus → Bool
  | .ok => true
  | .abandoned => true
  | _ => false

/-! ## Objects -/

/-- The object of an id (R188). -/
def State.obj (s : State) (id : Nat) : SyncObj := Sparse.get (fun _ => {}) s.sync id

/-- The waiter entries of a die's unit in use. -/
def State.waitersOf (s : State) (cd : Nat) : Nat :=
  ((s.sync.filter (fun e => decide (e.1 / 2048 = cd))).map (fun e => e.2.queue.length)).sum

/-- Store an object; IN_USE and HIGH_WATER of SYNC_WAITQ follow (R217). -/
def State.setObj (s : State) (id : Nat) (o : SyncObj) : State :=
  let s1 : State := { s with sync := Sparse.set (fun _ => {}) s.sync id o }
  let cd := id / 2048
  let n := s1.waitersOf cd
  let a := R.syncWaitq cd
  (s1.setFld a F.syncWaitq_inUse n).setFld a F.syncWaitq_highWater (max (s1.fld a F.syncWaitq_highWater) n)

/-- R217: a flag of SYNC_EVENT is set; a change from 0 to 1 raises source 32. -/
def State.syncFlag (s : State) (id : Nat) (f : Fld) : State :=
  let cd := id / 2048
  let a := R.syncEvent cd
  let w := s.reg a
  let any := decide (w.toNat % 8 ≠ 0)
  let s1 := if any then s else s.setFld a F.syncEvent_firstIndex (id % 2048)
  let s2 := s1.setFld a f 1
  if s.flag a f then s2 else s2.raise (cd + 1) 32

/-! ## Completion -/

/-- A group in a slot of a core. -/
def groupAt (core slot : Nat) : GroupRef := ⟨Fin.ofNat 1024 core, Fin.ofNat 256 slot⟩

/-- R199: every chosen lane of a turn has its status: the granted lanes run, or the next turn starts. -/
def State.turnReady (s : State) (g : GroupRef) (granted : List (Nat × Nat)) : State :=
  let x := s.grp g
  match x.region with
  | none => s
  | some r =>
    if granted.isEmpty then
      if r.remaining = 0 then
        s.setGrp g { x with wait := .none, region := none, active := r.entry &&& x.full, pc := r.close }
      else s.setGrp g { x with wait := .none, region := some { r with granted := [] }, pc := r.acqg }
    else
      s.setGrp g { x with
        wait := .none
        region := some { r with granted := granted }
        active := maskOf (granted.map Prod.fst) &&& x.full
        pc := r.acqg + 8 }

/-- R195, R203: a lane of a group has its status. When every lane has one, the group goes on; an acquire that
succeeded invalidates the L1. -/
def State.laneStatus (s : State) (g : GroupRef) (lane id : Nat) (st : SyncStatus) : State :=
  let x := s.grp g
  match x.wait with
  | .locks pending granted dst region =>
    let x1 := x.setLane lane dst st.num
    let granted' := if st.grants then granted ++ [(lane, id)] else granted
    let pending' := pending &&& ~~~ BitVec.twoPow 64 lane
    if pending' ≠ 0 then s.setGrp g { x1 with wait := .locks pending' granted' dst region }
    else
      let s1 := if granted'.isEmpty then s.setGrp g x1 else (s.setGrp g x1).l1Clear g.core.val
      if region then s1.turnReady g granted'
      else s1.setGrp g { s1.grp g with wait := .none, pc := x1.nextPc }
  | _ => s

/-- A waiter's operation has completed (R193, R195, R203, R608). -/
def State.completed (s : State) (id : Nat) (w : WaiterRef) (st : SyncStatus) : State :=
  match w with
  | .group g =>
    let x := s.grp g
    match x.wait with
    | .counter _ dst =>
      let x1 := x.setUni dst (Word.of st.num)
      let s1 := s.setGrp g { x1 with wait := s.afterWait g.core.val x, pc := x.nextPc }
      if st = .ok then s1.l1Clear g.core.val else s1
    | _ => s
  | .lane g lane => s.laneStatus g lane.val id st
  | .ring r => { s with ringWait := Sparse.set (fun _ => 0) s.ringWait r.toNat (2 + st.num) }

/-- R217: an operation has completed at its object's unit. -/
def State.counted (s : State) (id : Nat) (st : SyncStatus) : State :=
  let cd := id / 2048
  let s1 := s.count (R.syncCntOps cd) F.syncCntOps_ops 1
  match st with
  | .timeout => s1.count (R.syncCntTimeout cd) F.syncCntTimeout_timeouts 1
  | .heldOwnGroup => s1.count (R.syncCntHog cd) F.syncCntHog_ownGroup 1
  | _ => s1

/-- A queued waiter leaves with a status. -/
def State.release (s : State) (id : Nat) (w : Waiter) (st : SyncStatus) : State :=
  (s.counted id st).completed id w.who st

/-! ## Serving an object -/

/-- R196: the owner that a waiter's grant makes. -/
def ownerOf : WaiterRef → Owner
  | .group g => ⟨0, BitVec.ofNat 4 (coreSite g.core.val), BitVec.ofNat 7 (coreUnit g.core.val), BitVec.ofNat 8 g.slot.val, 0⟩
  | .lane g l =>
    ⟨0, BitVec.ofNat 4 (coreSite g.core.val), BitVec.ofNat 7 (coreUnit g.core.val), BitVec.ofNat 8 g.slot.val, BitVec.ofNat 6 l.val⟩
  | .ring _ => ⟨3, 0, 0, 0, 0⟩

/-- The status a grant carries (R202). -/
def SyncObj.grantStatus (o : SyncObj) : SyncStatus := if o.nextAband then .abandoned else .ok

/-- R193: the heads of a counter's queue that its value satisfies are served in order; `n` bounds them. -/
def State.serveCounter (s : State) (id : Nat) : Nat → State
  | 0 => s
  | n + 1 =>
    let o := s.obj id
    match o.queue with
    | w :: rest =>
      if w.amount ≤ o.value.toNat then
        let s1 := s.setObj id { o with value := o.value - BitVec.ofNat 32 w.amount, queue := rest }
        (s1.release id w .ok).serveCounter id n
      else s
    | [] => s

/-- R198: a free lock goes to the head of its queue. -/
def State.serveLock (s : State) (id : Nat) : State :=
  let o := s.obj id
  match o.owner, o.queue with
  | none, w :: rest =>
    (s.setObj id { o with owner := some (ownerOf w.who), queue := rest, nextAband := false }).release id w o.grantStatus
  | _, _ => s

/-- Serve whoever can be served. -/
def State.serve (s : State) (id : Nat) : State :=
  match (s.obj id).typ with
  | .counter => s.serveCounter id (s.obj id).queue.length
  | .lock => s.serveLock id
  | .unused => s

/-- A lock becomes free, or goes to the head of its queue; `aband` says that its owner ended, or was forced. -/
def State.freeLock (s : State) (id : Nat) (aband : Bool) : State :=
  (s.setObj id { s.obj id with owner := none, abandoned := aband, nextAband := aband }).serve id

/-- R134, R201: a waiter's timeout wins. -/
def State.timeoutWaiter (s : State) (id : Nat) (w : Waiter) : State :=
  let o := s.obj id
  ((s.setObj id { o with queue := o.queue.filter (fun x => decide (x ≠ w)) }).release id w .timeout).serve id

/-- Timeouts that fell due before the present tick have won. -/
def State.expire (s : State) (id : Nat) : State :=
  ((s.obj id).queue.filter (fun w => match w.deadline with | some d => decide (d < s.tick) | none => false)).foldl
    (fun (t : State) w => t.timeoutWaiter id w) s

/-- R191, R194: an operation that cannot succeed at once queues, or completes. -/
def State.enqueue (s : State) (id : Nat) (who : WaiterRef) (amount k : Nat) : State :=
  if k = 0 then (s.counted id .timeout).completed id who .timeout
  else if 4096 ≤ s.waitersOf (id / 2048) then
    ((s.syncFlag id F.syncEvent_waitqFull).counted id .noSlot).completed id who .noSlot
  else
    let o := s.obj id
    s.setObj id { o with queue := o.queue ++ [⟨who, amount, if k = 0xFFFF_FFFF then none else some (s.tick + k)⟩] }

/-- R192: a signal. -/
def State.signalObj (s : State) (id amount : Nat) : State :=
  let o := s.obj id
  let v := o.value.toNat + amount
  if 0xFFFF_FFFF < v then
    ((s.setObj id { o with value := 0xFFFF_FFFF, ovf := true }).syncFlag id F.syncEvent_ovfSeen).serve id
  else (s.setObj id { o with value := BitVec.ofNat 32 v }).serve id

/-! ## What comes before an operation -/

/-- R188, R189, R203: why an operation of a requester of a partition (none through SYNC_CMD) on an object of a type
does not reach it. A die in I4 wakes first (R204). -/
def State.objCheck (s : State) (id : Nat) (part : Option Nat) (typ : ObjType) : Option SyncStatus :=
  let cd := id / 2048
  let o := s.obj id
  if !s.cdUp cd then some .outOfService
  else if !s.flag (R.syncCtrl cd) F.syncCtrl_enable then some .disabled
  else if o.typ = .unused then some .badObject
  else if (match part with | some p => decide (p ≠ o.part.toNat) | none => false) then some .badObject
  else if o.typ ≠ typ then some .wrongType
  else none

/-- An operation that does not reach its object is counted: one refused by its partition in SYNC_CNT_XPART. -/
def State.objRefused (s : State) (id : Nat) (part : Option Nat) (st : SyncStatus) : State :=
  if st = .outOfService then s
  else
    let o := s.obj id
    let x := decide (st = .badObject) && decide (o.typ ≠ .unused)
      && (match part with | some p => decide (p ≠ o.part.toNat) | none => false)
    let s1 := s.counted id st
    if x then s1.count (R.syncCntXpart (id / 2048)) F.syncCntXpart_xpart 1 else s1

/-- R188: an id with a bit above [13] is answered by the unit of the requester's own die. -/
def State.badId (s : State) (cd : Nat) : State := s.count (R.syncCntOps cd) F.syncCntOps_ops 1

/-- An operation at an object: refused with a status, or done by `go`, which completes or queues it. -/
def State.syncOp (s : State) (id : Nat) (part : Option Nat) (typ : ObjType) (refused : SyncStatus → State → State)
    (go : State → State) : State :=
  let s0 := (if s.cdUp (id / 2048) then s.awake (id / 2048) else s).expire id
  match s0.objCheck id part typ with
  | some st => refused st (s0.objRefused id part st)
  | none => go s0

/-- SIG of any requester: the state and the status. -/
def State.signal (s : State) (id : Nat) (part : Option Nat) (amount : Nat) : State × SyncStatus :=
  let s0 := (if s.cdUp (id / 2048) then s.awake (id / 2048) else s).expire id
  match s0.objCheck id part .counter with
  | some st => (s0.objRefused id part st, st)
  | none => ((s0.signalObj id amount).counted id .ok, .ok)

/-- WAIT of a group or a ring (R193). -/
def State.waitObj (s : State) (id : Nat) (part : Option Nat) (who : WaiterRef) (n k : Nat) : State :=
  s.syncOp id part .counter (fun st t => t.completed id who st) fun t =>
    let o := t.obj id
    if o.queue.isEmpty ∧ n ≤ o.value.toNat then
      ((t.setObj id { o with value := o.value - BitVec.ofNat 32 n }).counted id .ok).completed id who .ok
    else t.enqueue id who n k

/-- R197: a lane's acquire at the object. -/
def State.acquireObj (s : State) (id : Nat) (part : Option Nat) (who : WaiterRef) (k : Nat) : State :=
  s.syncOp id part .lock (fun st t => t.completed id who st) fun t =>
    let o := t.obj id
    let me := ownerOf who
    match o.owner with
    | none =>
      ((t.setObj id { o with owner := some me, nextAband := false }).counted id o.grantStatus).completed id who o.grantStatus
    | some x =>
      if x = me then (t.counted id .heldSelf).completed id who .heldSelf
      else if { x with lane := me.lane } = me then (t.counted id .heldOwnGroup).completed id who .heldOwnGroup
      else t.enqueue id who 0 k

/-- R198: a release by an owner: the state and the status. -/
def State.releaseObj (s : State) (id : Nat) (part : Option Nat) (me : Owner) : State × SyncStatus :=
  let s0 := (if s.cdUp (id / 2048) then s.awake (id / 2048) else s).expire id
  match s0.objCheck id part .lock with
  | some st => (s0.objRefused id part st, st)
  | none =>
    if (s0.obj id).owner = some me then ((s0.freeLock id false).counted id .ok, .ok)
    else (s0.counted id .notOwner, .notOwner)

/-! ## Ends of groups and dies -/

/-- Whether a waiter belongs to a group. -/
def WaiterRef.ofGroup (w : WaiterRef) (g : GroupRef) : Bool :=
  match w with
  | .group h => decide (h = g)
  | .lane h _ => decide (h = g)
  | .ring _ => false

/-- R202: the owner release of a group that ends: its queued waits are withdrawn and its locks freed or granted
onward with ABANDONED. -/
def State.ownerRelease (s : State) (g : GroupRef) : State :=
  let me := ownerOf (.group g)
  let ids := (s.sync.filter (fun e => s.cdUp (e.1 / 2048))).map Prod.fst
  ids.foldl (fun (t : State) id =>
    let o := t.obj id
    let q := o.queue.filter (fun w => !w.who.ofGroup g)
    let t1 := if q = o.queue then t else (t.setObj id { o with queue := q }).serve id
    match (t1.obj id).owner with
    | some x => if { x with lane := 0 } = me then (t1.syncFlag id F.syncEvent_abandonSeen).freeLock id true else t1
    | none => t1) s

/-- R616: the locks of owners that a test names are freed or granted onward with ABANDONED. -/
def State.releaseOwned (s : State) (p : Owner → Bool) : State :=
  let ids := (s.sync.filter (fun e => s.cdUp (e.1 / 2048))).map Prod.fst
  ids.foldl (fun (t : State) id =>
    match (t.obj id).owner with
    | some x => if p x then (t.syncFlag id F.syncEvent_abandonSeen).freeLock id true else t
    | none => t) s

/-- R731: the objects of a die that leaves service give OUT_OF_SERVICE to their queued waiters, and are lost. -/
def State.syncLost (s : State) (cd : Nat) : State :=
  let mine := s.sync.filter (fun e => decide (e.1 / 2048 = cd))
  let s1 : State := { s with sync := s.sync.filter (fun e => decide (e.1 / 2048 ≠ cd)) }
  mine.foldl (fun (t : State) e => e.2.queue.foldl (fun t w => t.completed e.1 w.who .outOfService) t) s1

/-! ## Timeouts -/

/-- SYNC_TIMEOUT (R134): the timeout of a waiter falls due and wins. -/
def syncTimeout (cd : Cd) (obj : BitVec 11) (who : WaiterRef) (s : State) : State :=
  let id := cd.val * 2048 + obj.toNat
  match (s.obj id).queue.find? (fun w => decide (w.who = who)) with
  | none => s.answer .refused
  | some w =>
    match w.deadline with
    | none => s.answer .refused
    | some d => if s.cdUp cd.val then ((s.until d).timeoutWaiter id w).answer .ok else s.answer .refused

/-! ## SYNC_CMD (R215) -/

/-- The operations of SYNC_CMD. -/
inductive SyncCmd where
  | signal | initCounter | initLock | free | tryAcquire | release | forceRelease
  deriving DecidableEq, Repr

/-- R196: the owner that a master is. -/
def Master.owner : Master → Owner
  | .host hd c _ => ⟨1, BitVec.ofNat 4 (9 + hd.val), BitVec.ofNat 7 c.val, 0, 0⟩
  | .bobbin cd b _ => ⟨2, BitVec.ofNat 4 (cd.val + 1), BitVec.ofNat 7 b.val, 0, 0⟩
  | .accel c => ⟨0, BitVec.ofNat 4 (coreSite c.val), BitVec.ofNat 7 (coreUnit c.val), 0, 0⟩
  | .beryl => ⟨3, 0, 0, 0, 0⟩
  | .onyx => ⟨3, 0, 1, 0, 0⟩
  | .jtag => ⟨3, 0, 2, 0, 0⟩

/-- FREE: every queued waiter completes with BAD_OBJECT, and the object is unused. -/
def State.freeObj (s : State) (id : Nat) : State :=
  let q := (s.obj id).queue
  q.foldl (fun (t : State) w => t.release id w .badObject) (s.setObj id {})

/-- The result of an operation through SYNC_CMD. -/
def State.syncResult (s : State) (cd id : Nat) (st : SyncStatus) : State :=
  let a := R.syncCmdStat cd
  let o := s.obj id
  let v := if o.typ = .counter then o.value.toNat else 0
  (((s.setFld a F.syncCmdStat_status st.num).setFld a F.syncCmdStat_done 1).setFld a F.syncCmdStat_value v)

/-- R215: an operation through SYNC_CMD. -/
def State.syncCmd (s : State) (m : Master) (cd idx : Nat) (op : SyncCmd) (part : Nat) (amount : Nat) : State :=
  let id := cd * 2048 + idx
  let fin (t : State × SyncStatus) : State := t.1.syncResult cd id t.2
  match op with
  | .signal => fin (s.signal id none amount)
  | .release => fin (s.releaseObj id none m.owner)
  | .tryAcquire =>
    let s0 := (s.awake cd).expire id
    match s0.objCheck id none .lock with
    | some st => fin (s0.objRefused id none st, st)
    | none =>
      let o := s0.obj id
      match o.owner with
      | none =>
        fin ((s0.setObj id { o with owner := some m.owner, nextAband := false }).counted id o.grantStatus, o.grantStatus)
      | some x =>
        let st : SyncStatus := if x = m.owner then .heldSelf else .timeout
        fin (s0.counted id st, st)
  | .forceRelease =>
    let s0 := (s.awake cd).expire id
    match s0.objCheck id none .lock with
    | some st => fin (s0.objRefused id none st, st)
    | none => fin ((if (s0.obj id).owner.isSome then s0.freeLock id true else s0).counted id .ok, .ok)
  | .free =>
    let s0 := (s.awake cd).expire id
    match s0.objCheck id none (s0.obj id).typ with
    | some st => fin (s0.objRefused id none st, st)
    | none => fin ((s0.freeObj id).counted id .ok, .ok)
  | .initCounter =>
    let s0 := (s.awake cd).expire id
    if !s0.flag (R.syncCtrl cd) F.syncCtrl_enable then fin (s0.counted id .disabled, .disabled)
    else
      let s1 := s0.freeObj id
      let o : SyncObj := { typ := .counter, value := BitVec.ofNat 32 amount, part := BitVec.ofNat 3 part }
      fin ((s1.setObj id o).counted id .ok, .ok)
  | .initLock =>
    let s0 := (s.awake cd).expire id
    if !s0.flag (R.syncCtrl cd) F.syncCtrl_enable then fin (s0.counted id .disabled, .disabled)
    else
      let s1 := s0.freeObj id
      let o : SyncObj := { typ := .lock, part := BitVec.ofNat 3 part }
      fin ((s1.setObj id o).counted id .ok, .ok)

/-! ## Instructions -/

/-- The partition of a core's cluster. -/
def State.corePart (s : State) (c : Nat) : Nat := s.fld (R.l2Stat (coreCl c)) F.l2Stat_part

/-- What the sync class asks of MOD: no use of [2:0], a TYPE that is not reserved (R162). -/
def Fields.syncOk (f : Fields) : Bool := decide (f.typ < 6) && decide (f.low = 0)

/-- A source that an immediate may replace: a uniform register, or the sign-extended immediate as a word. -/
def Group.uniOrImm (x : Group) (f : Fields) (r : Nat) : Nat :=
  if f.imm then (Word.of (f.imm16 % 2 ^ 64).toNat).toNat else (x.uni r).toNat

/-- SIG (R192, R195). -/
def laneSig (g : GroupRef) (f : Fields) (s : State) : State :=
  s.issue g fun x s =>
    let ok := f.syncOk && f.bOk && f.cOk && x.uOk f.dst.toNat && x.uOk f.a.toNat && (f.imm || x.uOk f.b.toNat)
    s.legal g ok fun s =>
      if !x.acts f then s.adv g
      else
        let id := (x.uni f.a.toNat).toNat
        let s1 := s.drainAll g.core.val
        if (s1.grp g).halt ≠ none then s1
        else
          let (s2, st) := if 2 ^ 14 ≤ id then (s1.badId (coreCd g.core.val), SyncStatus.badObject)
            else s1.signal id (some (s1.corePart g.core.val)) (x.uniOrImm f f.b.toNat)
          s2.setGrp g ((s2.grp g).setUni f.dst.toNat (Word.of st.num)).advance

/-- WAIT (R193). -/
def laneWait (g : GroupRef) (f : Fields) (s : State) : State :=
  s.issue g fun x s =>
    let ok := f.syncOk && f.cOk && x.uOk f.dst.toNat && x.uOk f.a.toNat && x.uOk f.b.toNat
      && (f.imm || x.uOk (f.c.toNat % 256))
    s.legal g ok fun s =>
      if !x.acts f then s.adv g
      else
        let id := (x.uni f.a.toNat).toNat
        let k := x.uniOrImm f (f.c.toNat % 256) % 2 ^ 32
        if 2 ^ 14 ≤ id then
          (s.badId (coreCd g.core.val)).setGrp g (x.setUni f.dst.toNat (Word.of SyncStatus.badObject.num)).advance
        else
          let s1 := s.setGrp g { x with wait := .counter id f.dst.toNat }
          s1.waitObj id (some (s.corePart g.core.val)) (.group g) (x.uni f.b.toNat).toNat k

/-- The lanes among `ls` that contend: for each lock named, the lowest-numbered lane naming it. -/
def contenders (x : Group) (r : Nat) (ls : List Nat) : List Nat :=
  ls.filter (fun l => !ls.any (fun k => decide (k < l) && decide (x.lane k r = x.lane l r)))

/-- One lane's acquire, at its object or at the unit of its own die. -/
def State.laneAcquire (s : State) (g : GroupRef) (lane id k : Nat) : State :=
  if 2 ^ 14 ≤ id then (s.badId (coreCd g.core.val)).laneStatus g lane id .badObject
  else s.acquireObj id (some (s.corePart g.core.val)) (.lane g (Fin.ofNat 64 lane)) k

/-- A lane that does not contend gets HELD_OWN_GROUP, counted at its lock's unit. -/
def State.laneHog (s : State) (g : GroupRef) (lane id : Nat) : State :=
  let s1 := if id < 2 ^ 14 ∧ s.cdUp (id / 2048) then
      s.count (R.syncCntHog (id / 2048)) F.syncCntHog_ownGroup 1 else s
  s1.laneStatus g lane id .heldOwnGroup

/-- Legality of ACQ and ACQG. -/
def Group.acqOk (x : Group) (f : Fields) : Bool :=
  f.syncOk && f.cOk && x.lOk f.dst.toNat && x.lOk f.a.toNat && (f.imm || x.uOk (f.c.toNat % 256))

/-- ACQ (R197). -/
def laneAcq (g : GroupRef) (f : Fields) (s : State) : State :=
  s.issue g fun x s =>
    s.legal g (x.acqOk f) fun s =>
      let ls := x.execLanes f
      if ls.isEmpty then s.adv g
      else
        let k := x.uniOrImm f (f.c.toNat % 256) % 2 ^ 32
        let cs := contenders x f.a.toNat ls
        let s1 := s.setGrp g { x with wait := .locks (maskOf ls) [] f.dst.toNat false }
        let s2 := (ls.filter (fun l => !cs.contains l)).foldl (fun (t : State) l => t.laneHog g l (x.lane l f.a.toNat).toNat) s1
        cs.foldl (fun (t : State) l => t.laneAcquire g l (x.lane l f.a.toNat).toNat k) s2

/-- REL (R198). -/
def laneRel (g : GroupRef) (f : Fields) (s : State) : State :=
  s.issue g fun x s =>
    let ok := f.syncOk && f.cOk && x.lOk f.dst.toNat && (f.imm || x.lOk f.a.toNat)
    s.legal g ok fun s =>
      let ls := x.execLanes f
      if ls.isEmpty then s.adv g
      else
        let s1 := s.drainAll g.core.val
        if (s1.grp g).halt ≠ none then s1
        else
          (ls.foldl (fun (t : State) l =>
            let id := if f.imm then (f.imm16 % 2 ^ 32).toNat else (x.lane l f.a.toNat).toNat
            let (t1, st) := if 2 ^ 14 ≤ id then (t.badId (coreCd g.core.val), SyncStatus.badObject)
              else t.releaseObj id (some (t.corePart g.core.val)) (ownerOf (.lane g (Fin.ofNat 64 l)))
            t1.setGrp g ((t1.grp g).setLane l f.dst.toNat st.num)) s1).adv g

/-! ## Meanings -/

/-- SYNC_TIMEOUT (R134). -/
def execSyncTimeout (cd : Cd) (obj : BitVec 11) (w : WaiterRef) (s : State) : Out := s.run fun s => syncTimeout cd obj w s
/-- SIG (R192). -/
def execSig (g : GroupRef) (f : Fields) (s : State) : Out := s.run fun s => laneSig g f s
/-- WAIT (R193). -/
def execWait (g : GroupRef) (f : Fields) (s : State) : Out := s.run fun s => laneWait g f s
/-- ACQ (R197). -/
def execAcq (g : GroupRef) (f : Fields) (s : State) : Out := s.run fun s => laneAcq g f s
/-- REL (R198). -/
def execRel (g : GroupRef) (f : Fields) (s : State) : Out := s.run fun s => laneRel g f s

end Sys2Proof.Machine
end

