-- ==== Sys2Proof/Machine/Seq.lean ====
section
/-!
DEFINITION. The sequencer: branches, reconvergence, exits, serialized regions, block barriers, and the core and
group commands (R166 to R173, R183 to R187, R199, R200, R206 to R208).
-/

namespace Sys2Proof.Machine

/-! ## Barriers -/

/-- The block of a barrier unit. -/
def State.block (s : State) (c u : Nat) : Block := Sparse.get (fun _ => {}) (s.core c).blocks u

/-- Store a block. -/
def State.setBlock (s : State) (c u : Nat) (b : Block) : State :=
  let k := s.core c
  s.setCore c { k with blocks := Sparse.set (fun _ => {}) k.blocks u b }

/-- A group leaves its barrier with a status for BART. -/
def State.barrierRelease (s : State) (c : Nat) (w : BarWaiter) (st : SyncStatus) : State :=
  let g := groupAt c w.slot
  let x := s.grp g
  let x1 := match w.dst with | some d => x.setUni d (Word.of st.num) | none => x
  s.setGrp g { x1 with wait := s.afterWait c x, pc := x.nextPc }

/-- R184, R185: the phase completes when every group of the block that has not ended has arrived. -/
def State.phaseCheck (s : State) (c u : Nat) : State :=
  let b := s.block c u
  if b.arrived.isEmpty || !b.members.all (fun m => b.arrived.contains m) then s
  else
    let s1 := s.setBlock c u { b with phase := b.phase + 1, arrived := [], waiting := [] }
    b.waiting.foldl (fun (t : State) w => t.barrierRelease c w .ok) s1

/-- R187: a BART's timeout wins; the group stays arrived. -/
def State.barrierTimedOut (s : State) (c u : Nat) (w : BarWaiter) : State :=
  let b := s.block c u
  (s.setBlock c u { b with waiting := b.waiting.filter (fun x => decide (x.slot ≠ w.slot)) }).barrierRelease c w .timeout

/-- R184, R186, R187, R191: a group arrives at its block's barrier; `k` is the timeout of BART. -/
def State.barrierArrive (s : State) (g : GroupRef) (dst : Option Nat) (k : Option Nat) : State :=
  let c := g.core.val
  let x := s.grp g
  let u := x.unit
  let b := s.block c u
  let late := b.waiting.filter (fun w => match w.deadline with | some d => decide (d < s.tick) | none => false)
  let s0 := late.foldl (fun (t : State) w => t.barrierTimedOut c u w) s
  let b0 := s0.block c u
  let deadline := match k with
    | some n => if n = 0xFFFF_FFFF then none else some (s.tick + n)
    | none => none
  let arrived := if b0.arrived.contains g.slot.val then b0.arrived else b0.arrived ++ [g.slot.val]
  let s1 := (s0.setBlock c u { b0 with arrived := arrived, waiting := b0.waiting ++ [⟨g.slot.val, dst, deadline⟩] }).setGrp g
    { s0.grp g with wait := .barrier dst }
  let s2 := s1.phaseCheck c u
  if k = some 0 then
    match (s2.block c u).waiting.find? (fun w => decide (w.slot = g.slot.val)) with
    | some w => s2.barrierTimedOut c u w
    | none => s2
  else s2

/-- R185: a group leaves the expected set of its block; the last one gives the unit back. -/
def State.barrierLeave (s : State) (c slot u : Nat) : State :=
  let b := s.block c u
  let m := b.members.filter (fun x => decide (x ≠ slot))
  if m.isEmpty then s.setBlock c u {}
  else
    (s.setBlock c u { b with members := m, arrived := b.arrived.filter (fun x => decide (x ≠ slot)),
                             waiting := b.waiting.filter (fun x => decide (x.slot ≠ slot)) }).phaseCheck c u

/-! ## Ends -/

/-- R172, R185, R202, R554: a group ends: its slot is free, its locks pass on, its fault is withdrawn. -/
def State.endGroup (s : State) (g : GroupRef) : State :=
  let c := g.core.val
  let x := s.grp g
  let s1 := match s.unitFault c with
    | some f => if f.slot = g.slot.val then s.withdraw c else s
    | none => s
  let credit (l : Launch) : Launch :=
    if l.ring = x.ring ∧ l.idx = x.launch then { l with sum := l.sum + x.dsum } else l
  let s2 := ({ s1 with launches := s1.launches.map credit } : State).setGrp g {} |>.ownerRelease g
  s2.barrierLeave c g.slot.val x.unit

/-- R170: an entry's first set has reached the JOIN and its second goes, or the entry is popped. `after` is the
address after the JOIN, when it is known. -/
def joinTop (x : Group) (after : Option (BitVec 48)) : Group :=
  match x.stack with
  | [] => x
  | e :: rest =>
    let j := after.orElse (fun _ => e.join)
    if e.notTaken ≠ 0 then { x with active := e.notTaken, pc := e.pc, stack := { e with notTaken := 0, join := j } :: rest }
    else { x with active := e.active &&& x.full, pc := j.getD x.pc, stack := rest }

/-- R172: while no lane is active, an empty set reaches the JOIN of the top entry; in a region at its entry depth,
the next turn comes. `n` bounds the entries. -/
def settleEmpty (x : Group) : Nat → Group
  | 0 => x
  | n + 1 =>
    if x.active ≠ 0 then x
    else
      match x.region with
      | some r =>
        if x.stack.length ≤ r.depth then
          let rem := r.remaining &&& x.full
          if rem = 0 then settleEmpty { x with region := none, active := r.entry &&& x.full, pc := r.close } n
          else { x with region := some { r with granted := [], remaining := rem }, active := r.entry &&& x.full, pc := r.acqg }
        else settleEmpty (joinTop x none) n
      | none => if x.stack.isEmpty then x else settleEmpty (joinTop x none) n

/-! ## Control instructions -/

/-- The target of a branch: PC + 8 × sext(imm16). -/
def Fields.target (f : Fields) (x : Group) : BitVec 48 := BitVec.ofInt 48 (x.pc.toNat + 8 * f.imm16)

/-- The join tag MOD[3:0]. -/
def Fields.tag (f : Fields) : BitVec 4 := BitVec.ofNat 4 f.mod.toNat

/-- BRA (R169, R171). -/
def ctlBra (g : GroupRef) (f : Fields) (s : State) : State :=
  s.issue g fun x s =>
    let take := x.execMask f
    if take = x.active then s.setGrp g { x with pc := f.target x }
    else if take = 0 then s.adv g
    else if 32 ≤ x.stack.length then s.haltGroup g .reconvOverflow
    else s.setGrp g { x with
      stack := ⟨f.tag, x.active, x.active &&& ~~~ take, x.nextPc, none⟩ :: x.stack
      active := take
      pc := f.target x }

/-- BRU (R173). -/
def ctlBru (g : GroupRef) (f : Fields) (s : State) : State :=
  s.issue g fun x s =>
    s.legal g (x.uOk f.a.toNat && decide (f.low = 0)) fun s =>
      let zero := decide (x.uni f.a.toNat = 0)
      if (if f.pneg then zero else !zero) then s.setGrp g { x with pc := f.target x } else s.adv g

/-- JOIN (R170). -/
def ctlJoin (g : GroupRef) (f : Fields) (s : State) : State :=
  s.issue g fun x s =>
    match x.stack with
    | e :: _ =>
      if e.tag = f.tag then s.setGrp g (settleEmpty (joinTop x (some x.nextPc)) (x.stack.length + 2)) else s.adv g
    | [] => s.adv g

/-- JMPU (R173). -/
def ctlJmpu (g : GroupRef) (f : Fields) (s : State) : State :=
  s.issue g fun x s =>
    s.legal g (x.uOk f.a.toNat && decide (f.low = 0)) fun s =>
      s.setGrp g { x with pc := BitVec.ofNat 48 ((x.uni f.a.toNat).toNat / 8 * 8) }

/-- EXIT (R172). -/
def ctlExit (g : GroupRef) (f : Fields) (s : State) : State :=
  s.issue g fun x s =>
    s.legal g (decide (f.low = 0)) fun s =>
      let out := x.execMask f
      let full := x.full &&& ~~~ out
      if full = 0 then s.endGroup g
      else
        let y : Group := { x with
          active := x.active &&& ~~~ out
          full := full
          stack := x.stack.map (fun e => { e with active := e.active &&& ~~~ out, notTaken := e.notTaken &&& ~~~ out })
          pc := x.nextPc }
        s.setGrp g (settleEmpty y (y.stack.length + 2))

/-- SETPRI (R167). -/
def ctlSetpri (g : GroupRef) (f : Fields) (s : State) : State :=
  s.issue g fun x s =>
    s.legal g (decide (f.low = 0)) fun s => s.setGrp g { x with prio := BitVec.ofNat 3 f.c.toNat, pc := x.nextPc }

/-- HALT (R206). -/
def ctlHalt (g : GroupRef) (f : Fields) (s : State) : State :=
  s.issue g fun _ s => if f.low = 0 then s.haltGroup g .softHalt else s.haltGroup g .illegal

/-! ## Serialized regions -/

/-- The instruction words of a kernel. -/
def Kernel.word (k : Kernel) (i : Nat) : Nat := ofBytes ((k.code.drop (8 * i)).take 8)

/-- R199: the address after the first RELG at a higher address than an instruction. -/
def Kernel.closeAfter (k : Kernel) (pc : Nat) : Option Nat :=
  if pc < k.loadVa then none
  else
    let first := (pc - k.loadVa) / 8 + 1
    ((upTo (k.code.length / 8)).find? (fun i =>
      decide (first ≤ i) && decide (bits (k.word i) 60 4 = 5) && decide (bits (k.word i) 52 8 = 0x0B))).map
      (fun i => k.loadVa + 8 * i + 8)

/-- The kernel a group runs, as its cluster holds it. -/
def State.kernelOf (s : State) (c : Nat) (x : Group) : Option Kernel :=
  (s.conf (coreCl c)).kernels.find? (fun k => decide (k.id = x.kernel.toNat))

/-- R199, steps 1 and 2: a turn starts: for each lock named by the remaining lanes, the lowest-numbered one
acquires. -/
def State.startTurn (s : State) (g : GroupRef) (f : Fields) (r : Region) : State :=
  let x := s.grp g
  let ls := contenders x f.a.toNat (laneList x.width r.remaining)
  let k := x.uniOrImm f (f.c.toNat % 256) % 2 ^ 32
  let s1 := s.setGrp g { x with
    wait := .locks (maskOf ls) [] f.dst.toNat true
    region := some { r with granted := [], remaining := r.remaining &&& ~~~ maskOf ls } }
  ls.foldl (fun (t : State) l => t.laneAcquire g l (x.lane l f.a.toNat).toNat k) s1

/-- ACQG (R199, R200). -/
def laneAcqg (g : GroupRef) (f : Fields) (s : State) : State :=
  s.issue g fun x s =>
    s.legal g (x.acqOk f) fun s =>
      match x.region with
      | some r => if r.granted.isEmpty ∧ x.pc = r.acqg then s.startTurn g f r else s.haltGroup g .serialNest
      | none =>
        match (s.kernelOf g.core.val x).bind (fun k => k.closeAfter x.pc.toNat) with
        | none => s.haltGroup g .serialNest
        | some close =>
          let ls := x.execMask f
          if ls = 0 then s.setGrp g { x with pc := BitVec.ofNat 48 close }
          else s.startTurn g f ⟨x.pc, BitVec.ofNat 48 close, x.active, ls, x.stack.length, []⟩

/-- RELG (R199, R200): each granted lane releases the lock it was granted in the turn. -/
def laneRelg (g : GroupRef) (f : Fields) (s : State) : State :=
  s.issue g fun x s =>
    let ok := f.syncOk && !f.imm && decide (f.a = 0) && decide (f.b = 0) && decide (f.c = 0)
    s.legal g ok fun s =>
      match x.region with
      | none => s.haltGroup g .serialNest
      | some r =>
        if r.granted.isEmpty then s.haltGroup g .serialNest
        else
          let s1 := s.drainAll g.core.val
          if (s1.grp g).halt ≠ none then s1
          else
            let held := r.granted.filter (fun e => x.full.getLsbD e.1)
            let s2 := held.foldl (fun (t : State) e =>
              (t.releaseObj e.2 (some (t.corePart g.core.val)) (ownerOf (.lane g (Fin.ofNat 64 e.1)))).1) s1
            let y := s2.grp g
            let rem := r.remaining &&& y.full
            if rem = 0 then s2.setGrp g (settleEmpty { y with region := none, active := r.entry &&& y.full, pc := y.nextPc } (y.stack.length + 2))
            else s2.setGrp g { y with region := some { r with granted := [], remaining := rem }, active := r.entry &&& y.full, pc := r.acqg }

/-! ## Barrier instructions -/

/-- BAR (R184, R186). -/
def laneBar (g : GroupRef) (f : Fields) (s : State) : State :=
  s.issue g fun _ s =>
    s.legal g (f.syncOk && !f.imm && f.cOk) fun s =>
      s.collective g f fun s => s.barrierArrive g none none

/-- BART (R187). -/
def laneBart (g : GroupRef) (f : Fields) (s : State) : State :=
  s.issue g fun x s =>
    let ok := f.syncOk && f.cOk && x.uOk f.dst.toNat && (f.imm || x.uOk (f.c.toNat % 256))
    s.legal g ok fun s =>
      s.collective g f fun s =>
        s.barrierArrive g (some f.dst.toNat) (some (x.uniOrImm f (f.c.toNat % 256) % 2 ^ 32))

/-- BARRIER_TIMEOUT (R187). -/
def barrierTimeout (g : GroupRef) (s : State) : State :=
  let c := g.core.val
  let u := (s.grp g).unit
  match (s.block c u).waiting.find? (fun w => decide (w.slot = g.slot.val)) with
  | none => s.answer .refused
  | some w =>
    match w.deadline with
    | none => s.answer .refused
    | some d => if (s.grp g).resident then ((s.until d).barrierTimedOut c u w).answer .ok else s.answer .refused

/-! ## Commands of CORE_SEQ_CMD (R207, R208) -/

/-- RESUME_CORE: a core halt is released. -/
def State.resumeCore (s : State) (c : Nat) : State := s.setCore c { s.core c with halted := 0 }

/-- RESUME_GROUP: the halted instruction is issued again. -/
def State.resumeGroup (s : State) (g : GroupRef) : State :=
  let x := s.grp g
  if x.resident ∧ x.halt ≠ none then s.setGrp g { x with halt := none } else s

/-- A launch one of whose groups has been killed ends with KILLED (R610). -/
def State.noteKilled (s : State) (x : Group) : State :=
  if s.killed.contains (x.ring, x.launch) then s else { s with killed := s.killed ++ [(x.ring, x.launch)] }

/-- KILL_GROUP (R185, R202). -/
def State.killGroup (s : State) (g : GroupRef) : State :=
  let x := s.grp g
  if x.resident then (s.noteKilled x).endGroup g else s

/-! ## Meanings -/

/-- BRA (R169). -/
def execBra (g : GroupRef) (f : Fields) (s : State) : Out := s.run fun s => ctlBra g f s
/-- BRU (R173). -/
def execBru (g : GroupRef) (f : Fields) (s : State) : Out := s.run fun s => ctlBru g f s
/-- JOIN (R170). -/
def execJoin (g : GroupRef) (f : Fields) (s : State) : Out := s.run fun s => ctlJoin g f s
/-- JMPU (R173). -/
def execJmpu (g : GroupRef) (f : Fields) (s : State) : Out := s.run fun s => ctlJmpu g f s
/-- EXIT (R172). -/
def execExit (g : GroupRef) (f : Fields) (s : State) : Out := s.run fun s => ctlExit g f s
/-- SETPRI (R167). -/
def execSetpri (g : GroupRef) (f : Fields) (s : State) : Out := s.run fun s => ctlSetpri g f s
/-- HALT (R206). -/
def execHalt (g : GroupRef) (f : Fields) (s : State) : Out := s.run fun s => ctlHalt g f s
/-- ACQG (R199). -/
def execAcqg (g : GroupRef) (f : Fields) (s : State) : Out := s.run fun s => laneAcqg g f s
/-- RELG (R199). -/
def execRelg (g : GroupRef) (f : Fields) (s : State) : Out := s.run fun s => laneRelg g f s
/-- BAR (R184). -/
def execBar (g : GroupRef) (f : Fields) (s : State) : Out := s.run fun s => laneBar g f s
/-- BART (R187). -/
def execBart (g : GroupRef) (f : Fields) (s : State) : Out := s.run fun s => laneBart g f s
/-- BARRIER_TIMEOUT (R187). -/
def execBarrierTimeout (g : GroupRef) (s : State) : Out := s.run fun s => barrierTimeout g s
/-- NAN_REPORT (R289). -/
def execNanReport (c : CoreIx) (rep : NanReport) (s : State) : Out :=
  s.run fun s => if s.up (coreSite c.val) then (s.nanReport c.val rep).answer .ok else s.answer .refused

end Sys2Proof.Machine
end

