-- ==== Sys2Proof/Machine/Shuttle.lean ====
section
/-!
DEFINITION. The shuttle engines: rings, descriptors, their operations and completion, and the resolution of faults
(R526 to R542, R552, R553, R555, R734).
-/

namespace Sys2Proof.Machine

/-! ## Registers of an engine -/

/-- The ring register. -/
def SeRef.ring (e : SeRef) : Nat := e.ctrl + 0x08
/-- The doorbell register. -/
def SeRef.db (e : SeRef) : Nat := e.ctrl + 0x10
/-- The status register. -/
def SeRef.stat (e : SeRef) : Nat := e.ctrl + 0x18
/-- The event register. -/
def SeRef.event (e : SeRef) : Nat := e.ctrl + 0x28
/-- The byte counter. -/
def SeRef.cntBytes : SeRef → Nat
  | .cd n e => R.seCntBytes n.val e.val
  | .hub e => R.hseCntBytes e.val
/-- The descriptor counter. -/
def SeRef.cntDesc : SeRef → Nat
  | .cd n e => R.seCntDesc n.val e.val
  | .hub e => R.hseCntDesc e.val

/-- The walker that serves an engine (R514). -/
def SeRef.walker : SeRef → Nat
  | .cd n _ => 64 + n.val
  | .hub _ => 72

/-- R557: a flag of the event register is set; a change from 0 to 1 raises the engine's source. -/
def State.seFlag (s : State) (e : SeRef) (f : Fld) (idx : Option Nat) : State :=
  let a := e.event
  let s1 := match idx with
    | some i => if (s.reg a).toNat % 16 = 0 then s.setFld a F.seEvent_firstIdx i else s
    | none => s
  let s2 := s1.setFld a f 1
  if s.flag a f then s2
  else match e with
    | .cd n k => s2.raise (n.val + 1) (16 + k.val)
    | .hub k => s2.raise 0 (24 + k.val)

/-! ## Fields of a descriptor (R534) -/

/-- Word `i` of a descriptor. -/
def SeDesc.w (d : SeDesc) (i : Nat) : Nat := (d.words.getD i 0).toNat

/-- The operations of R534. -/
inductive SeOp where
  | copy | pattern | reduce | note
  deriving DecidableEq, Repr

/-- The operation of a descriptor. -/
def SeDesc.op (d : SeDesc) : Option SeOp :=
  match bits (d.w 0) 0 4 with
  | 0 => some .copy | 1 => some .pattern | 2 => some .reduce | 3 => some .note
  | _ => none

/-- COMP. -/
def SeDesc.comp (d : SeDesc) : Bool := decide (bits (d.w 0) 4 1 = 1)
/-- SIG. -/
def SeDesc.sig (d : SeDesc) : Bool := decide (bits (d.w 0) 5 1 = 1)
/-- IRQ. -/
def SeDesc.irq (d : SeDesc) : Bool := decide (bits (d.w 0) 6 1 = 1)
/-- DRAM_DIRECT. -/
def SeDesc.direct (d : SeDesc) : Bool := decide (bits (d.w 0) 7 1 = 1)
/-- Bytes of a row. -/
def SeDesc.rowBytes (d : SeDesc) : Nat := bits (d.w 3) 0 32 + 1
/-- Rows. -/
def SeDesc.rows (d : SeDesc) : Nat := bits (d.w 3) 32 16 + 1
/-- The source address of row `r`. -/
def SeDesc.src (d : SeDesc) (r : Nat) : Nat := (bits (d.w 1) 0 48 + r * bits (d.w 4) 0 32) % 2 ^ 48
/-- The destination address of row `r`. -/
def SeDesc.dst (d : SeDesc) (r : Nat) : Nat := (bits (d.w 2) 0 48 + r * bits (d.w 4) 32 32) % 2 ^ 48
/-- COMP_VA. -/
def SeDesc.compVa (d : SeDesc) : Nat := bits (d.w 5) 0 48
/-- DEADLINE in ticks, 0 for none. -/
def SeDesc.deadline (d : SeDesc) : Nat := bits (d.w 7) 0 32

/-- R420, R532, R534: the size code of a REDUCE's operation and type, and its element size. -/
def SeDesc.red (d : SeDesc) : Option (Nat × Nat × Nat) :=
  let op := bits (d.w 0) 8 4
  let size := match bits (d.w 0) 12 4 with
    | 0x0 => if 3 ≤ op ∧ op ≤ 5 then some 3 else none
    | 0x1 => if 3 ≤ op ∧ op ≤ 5 then some 2 else none
    | 0x3 => if 3 ≤ op ∧ op ≤ 5 then some 1 else none
    | 0xA => if op ≤ 2 then some 2 else none
    | 0xB => if op ≤ 2 then some 3 else none
    | _ => none
  size.map (fun z => (op, z, 2 ^ z))

/-- R532: whether a descriptor is bad before anything is translated. -/
def SeDesc.bad (d : SeDesc) : Bool :=
  let reserved := decide (bits (d.w 0) 16 16 ≠ 0) || decide (bits (d.w 2) 48 16 ≠ 0) || decide (bits (d.w 3) 48 16 ≠ 0)
    || decide (bits (d.w 5) 48 16 ≠ 0) || decide (bits (d.w 6) 14 18 ≠ 0) || decide (bits (d.w 7) 32 32 ≠ 0)
  let large := decide (2 ^ 32 < d.rows * d.rowBytes)
  let comp := d.comp && decide (d.compVa % 32 ≠ 0)
  let redFields := decide (bits (d.w 0) 8 8 ≠ 0)
  let byOp := match d.op with
    | none => true
    | some .copy => decide (bits (d.w 1) 48 16 ≠ 0)
    | some .pattern => false
    | some .reduce =>
      decide (bits (d.w 1) 48 16 ≠ 0) || (match d.red with
        | none => true
        | some (_, _, n) => decide (d.src 0 % n ≠ 0) || decide (d.dst 0 % n ≠ 0) || decide (d.rowBytes % n ≠ 0)
            || decide (bits (d.w 4) 0 32 % n ≠ 0) || decide (bits (d.w 4) 32 32 % n ≠ 0))
    | some .note => decide (d.w 1 ≠ 0) || decide (d.w 2 ≠ 0) || decide (bits (d.w 3) 0 48 ≠ 0)
  reserved || large || comp || byOp || (redFields && decide (d.op ≠ some .reduce) && decide (9 < bits (d.w 0) 8 4))

/-! ## Translation of a descriptor (R530) -/

/-- The pages of a range. -/
def pagesOf (va n : Nat) : List Nat := (upTo ((va % 2 ^ 16 + n + 2 ^ 16 - 1) / 2 ^ 16)).map (fun i => va / 2 ^ 16 + i)

/-- The 64 KiB pages a descriptor touches, with their accesses, in copy order. -/
def SeDesc.pages (d : SeDesc) : List (Nat × XAcc) :=
  let src := match d.op with
    | some .copy => true
    | some .reduce => true
    | _ => false
  let dst := match d.op with
    | some .note => false
    | none => false
    | _ => true
  let acc : XAcc := if d.op = some .reduce then .atomic else .write
  ((upTo d.rows).flatMap (fun r =>
    (if src then (pagesOf (d.src r) d.rowBytes).map (fun p => (p, XAcc.read)) else [])
      ++ (if dst then (pagesOf (d.dst r) d.rowBytes).map (fun p => (p, acc)) else []))).eraseDups
    ++ (if d.comp then [(d.compVa / 2 ^ 16, XAcc.write)] else [])

/-- The page of an access type in the run store. -/
def findRun (rs : List RunPage) (page : Nat) (acc : XAcc) : Option RunPage :=
  rs.find? (fun r => decide (r.page = page) && decide (r.acc = acc.code))

/-- How many runs a list of pages needs (R530). -/
def runCount : List RunPage → Nat
  | [] => 0
  | [_] => 1
  | a :: b :: rest =>
    (if b.page = a.page + 1 ∧ b.pa = a.pa + 2 ^ 16 ∧ b.acc = a.acc then 0 else 1) + runCount (b :: rest)

/-- What an engine's translation gives. -/
inductive SeXl where
  | ok (pa : Nat) (host : Bool)
  | status (n : Nat)
  | fault (f : WalkFault)
  deriving DecidableEq, Repr

/-- Whether a walker's cached page of an address is HOST-owned (R510). -/
def State.hostPage (s : State) (w ctx va : Nat) : Bool :=
  match (s.walker w).tlb.find? (fun t => t.covers ctx va) with
  | some t => decide (t.owner = 0)
  | none => false

/-- R503, R510, R511: an engine translates an address. -/
def State.seTranslate (s : State) (e : SeRef) (va : Nat) (acc : XAcc) : State × SeXl :=
  let ctl := s.reg e.ctrl
  let part := F.seCtrl_part.get ctl
  match s.translate e.walker none (F.seCtrl_ctx.get ctl) (some part) va acc (decide (F.seCtrl_hostAccess.get ctl = 1)) with
  | (s1, .ok pa) =>
    match regionOf pa with
    | .reg => (s1, .status 4)
    | .none => (s1, .status 4)
    | _ => (s1, .ok pa (s1.hostPage e.walker (F.seCtrl_ctx.get ctl) va))
  | (s1, .context) => (s1, .status 7)
  | (s1, .fault f) => (s1, .fault f)

/-- An engine's fault (R543, R548); one that is outstanding already keeps the engine waiting. -/
def State.seFault (s : State) (e : SeRef) (va : Nat) (acc : XAcc) (f : WalkFault) : State :=
  if (s.unitFault (seUnit e.ix)).isSome then s.wait
  else
    let ctl := s.reg e.ctrl
    (s.setUnitFault (seUnit e.ix) (some ⟨⟨F.seCtrl_part.get ctl, F.seCtrl_ctx.get ctl, va / 2 ^ 16, acc.code⟩, va, f.cause,
      f.level, f.hint, f.seq, s.tick, 0, .arising⟩)).count e.cntDesc F.seCntDesc_faults 1

/-- Translate pages in order; stops at the first that gives a status or a fault. -/
def State.seTranslateAll (s : State) (e : SeRef) : List (Nat × XAcc) → List RunPage → State × List RunPage × Option (Nat × XAcc × SeXl)
  | [], rs => (s, rs, none)
  | (p, acc) :: rest, rs =>
    if (findRun rs p acc).isSome then s.seTranslateAll e rest rs
    else
      match s.seTranslate e (p * 2 ^ 16) acc with
      | (s1, .ok pa host) => s1.seTranslateAll e rest (rs ++ [⟨p, pa, acc.code, host⟩])
      | (s1, x) => (s1, rs, some (p, acc, x))

/-! ## The engine's state -/

/-- R557: STATE, QUEUED and RUNS follow the engine. -/
def State.seShow (s : State) (e : SeRef) : State :=
  let k := s.seSt e.ix
  let st := if !s.flag e.ctrl F.seCtrl_enable then 0
    else if k.error then 5
    else if (s.unitFault (seUnit e.ix)).isSome then 3
    else if k.paused && !k.queue.any (fun d => d.start.isSome && decide (d.ended = none)) then 4
    else if k.queue.isEmpty then 1 else 2
  let a := e.stat
  ((s.setFld a F.seStat_state st).setFld a F.seStat_queued k.queue.length).setFld a F.seStat_runs
    ((k.queue.map (fun d => runCount d.runs)).sum)

/-- Store an engine and show it. -/
def State.putSe (s : State) (e : SeRef) (k : SeSt) : State := (s.setSeSt e.ix k).seShow e

/-- The descriptor an engine runs next: the first whose data writes have not ended. -/
def SeSt.front (k : SeSt) : Option SeDesc := k.queue.find? (fun d => decide (d.ended = none))

/-- Whether an engine may fetch. -/
def State.seFetches (s : State) (e : SeRef) : Bool :=
  let k := s.seSt e.ix
  -- R533, R548: a fault of the running descriptor stops no fetch unless it is held
  let clear := match s.unitFault (seUnit e.ix), k.front with
    | some f, some d => decide (f.stand ≠ .held) && d.start.isSome && d.status.isNone
    | some _, none => false
    | none, _ => true
  s.flag e.ctrl F.seCtrl_enable && !k.paused && !k.error && clear && s.up e.site

/-- R527: a write of PROD. -/
def State.seDoorbell (s : State) (e : SeRef) (prod : Nat) : State :=
  let fetch := s.fld e.db F.seDb_fetch
  let size := 2 ^ s.fld e.ctrl F.seCtrl_ringLog2
  if (prod + 2 ^ 32 - fetch) % 2 ^ 32 ≤ size then s.setFld e.db F.seDb_prod prod
  else s.seFlag e F.seEvent_badDoorbell none

/-! ## Memory accesses of an engine -/

/-- The tag of an engine's requests. -/
def State.seTag (s : State) (e : SeRef) : ReqTag := .part (BitVec.ofNat 3 (s.sePart e))

/-- R536: an engine reads a line: a status other than 0, or the line. -/
def State.seReadLine (s : State) (e : SeRef) (pa : Nat) : State × Except Nat Line :=
  match regionOf pa with
  | .dram =>
    match s.uncached e.site (s.seTag e) (pa / 128) .rdNC false with
    | (s1, a) => match a.st, a.val with
      | .error, _ => (s1, .error 5)
      | _, some l => (s1, .ok l)
      | _, none => (s1, .error 5)
  | .tile =>
    match s.tileGate none (s.seTag e) pa with
    | (s1, .serve) => (s1, .ok (s1.tileLine pa))
    | (s1, .wait) => (s1.wait, .error 5)
    | (s1, .refuse) => (s1, .error 5)
  | .twin =>
    match s.twinRead pa with
    | (s1, a) => match a.val with
      | some l => (s1, .ok l)
      | none => (s1, .error 8)
  | _ => (s, .error 4)

/-- R536: an engine writes bytes of a line: the status. -/
def State.seWriteLine (s : State) (e : SeRef) (pa : Nat) (l : Line) (en : Nat) (direct : Bool) : State × Nat :=
  match regionOf pa with
  | .dram =>
    match s.uncached e.site (s.seTag e) (pa / 128) (if en = allBytes then .wrF l else .wrP l en) direct with
    | (s1, a) => match a.st with
      | .ok => (s1, 0)
      | .error => (s1, 5)
      | .gone => (s1, 6)
  | .tile =>
    match s.tileGate none (s.seTag e) pa with
    | (s1, .serve) => (s1.tilePut pa l en, 0)
    | (s1, .wait) => (s1.wait, 5)
    | (s1, .refuse) => (s1, 5)
  | .twin =>
    match s.twinWrite pa with
    | (s1, a) => (s1, if a.st = .error then 8 else 0)
  | _ => (s, 4)

/-- A range cut at 128 B lines: the offset of each piece and its length. -/
def linePieces (va n : Nat) : List (Nat × Nat) :=
  (upTo ((va % 128 + n + 127) / 128)).map (fun i =>
    let lo := if i = 0 then 0 else i * 128 - va % 128
    let hi := min n ((i + 1) * 128 - va % 128)
    (lo, hi - lo))

/-- A running descriptor: the state, the descriptor, and how it stops: with a status at an address, or at a fault. -/
structure SeRunSt where
  s : State
  d : SeDesc
  stop : Option (Nat × Nat) := none
  fault : Bool := false

/-- Whether a run goes on. -/
def SeRunSt.going (r : SeRunSt) : Bool := r.stop.isNone && !r.fault && !r.s.hold

/-- R522, R531: the physical address of an address of the running descriptor, from its runs or translated now. -/
def SeRunSt.pa (r : SeRunSt) (e : SeRef) (va : Nat) (acc : XAcc) : SeRunSt × Option Nat :=
  match (if r.d.marked then none else findRun r.d.runs (va / 2 ^ 16) acc) with
  | some p => (r, some (p.pa + va % 2 ^ 16))
  | none =>
    match r.s.seTranslate e (va / 2 ^ 16 * 2 ^ 16) acc with
    | (s1, .ok pa host) =>
      ({ r with s := s1, d := { r.d with runs := r.d.runs ++ [⟨va / 2 ^ 16, pa, acc.code, host⟩] } }, some (pa + va % 2 ^ 16))
    | (s1, .status n) => ({ r with s := s1, stop := some (n, va) }, none)
    | (s1, .fault f) => ({ r with s := s1.seFault e va acc f, fault := true }, none)

/-- A unit read: its bytes as a number, and the offset of the first byte of a poisoned codeword. -/
structure UnitRead where
  v : Nat := 0
  poison : Option Nat := none
  deriving DecidableEq, Repr

/-- Read `n` bytes at an address. -/
def SeRunSt.read (r : SeRunSt) (e : SeRef) (va n : Nat) : SeRunSt × UnitRead :=
  (linePieces va n).foldl (fun (t : SeRunSt × UnitRead) p =>
    if !t.1.going then t
    else
      match t.1.pa e (va + p.1) .read with
      | (r1, none) => (r1, t.2)
      | (r1, some pa) =>
        match r1.s.seReadLine e pa with
        | (s1, .error n) => ({ r1 with s := s1, stop := some (n, va + p.1) }, t.2)
        | (s1, .ok l) =>
          let off := pa % 128
          let v := bits l.data.toNat (8 * off) (8 * p.2)
          -- the first byte of the piece that lies in a poisoned codeword
          let first : Option Nat :=
            if l.poison.getLsbD (off / 64) then some p.1
            else if off / 64 = 0 ∧ 64 < off + p.2 ∧ l.poison.getLsbD 1 then some (p.1 + (64 - off))
            else none
          ({ r1 with s := s1 }, ⟨t.2.v + v * 2 ^ (8 * p.1), t.2.poison.orElse (fun _ => first)⟩)) (r, {})

/-- Write `n` bytes at an address; `bad` marks them poisoned. -/
def SeRunSt.write (r : SeRunSt) (e : SeRef) (va n v : Nat) (bad : Bool) : SeRunSt :=
  (linePieces va n).foldl (fun (t : SeRunSt) p =>
    if !t.going then t
    else
      match t.pa e (va + p.1) .write with
      | (r1, none) => r1
      | (r1, some pa) =>
        let off := pa % 128
        let en := (2 ^ p.2 - 1) * 2 ^ off
        let touched := (if en % 2 ^ 64 = 0 then 0 else 1) + (if en / 2 ^ 64 = 0 then 0 else 2)
        let l : Line := ⟨BitVec.ofNat 1024 (bits v (8 * p.1) (8 * p.2) * 2 ^ (8 * off)), if bad then BitVec.ofNat 2 touched else 0⟩
        match r1.s.seWriteLine e pa l en t.d.direct with
        | (s1, 0) => { r1 with s := s1 }
        | (s1, k) => { r1 with s := s1, stop := some (k, va + p.1) }) r

/-- R734: the record of a consumed poisoned codeword. -/
def State.seConsumed (s : State) (e : SeRef) : State :=
  s.rasWrite { det 1 6 e.site (0x80 + (match e with | .cd _ k => k.val | .hub k => k.val)) 1 with consumed := true, arg0 := 3 }

/-- One unit of a COPY: it is read before it is written (R535); poison ends the descriptor (R734). -/
def SeRunSt.copyUnit (r : SeRunSt) (e : SeRef) (src dst n : Nat) : SeRunSt :=
  let (r1, u) := r.read e src n
  if !r1.going then r1
  else
    match u.poison with
    | none =>
      let r2 := r1.write e dst n u.v false
      if r2.going then { r2 with d := { r2.d with bytes := r2.d.bytes + n } } else r2
    | some k =>
      let r2 := if k = 0 then r1 else r1.write e dst k u.v false
      if !r2.going then r2
      else
        let len := min (n - k) (64 - (src + k) % 64)
        let r3 := r2.write e (dst + k) len (bits u.v (8 * k) (8 * len)) true
        if !r3.going then r3
        else { r3 with s := r3.s.seConsumed e, d := { r3.d with bytes := r3.d.bytes + k }, stop := some (6, src + k) }

/-- The bytes of a pattern from an address on. -/
def patternBytes (pattern va n : Nat) : Nat :=
  ofBytes ((upTo n).map (fun i => BitVec.ofNat 8 (bits pattern (8 * ((va + i) % 8)) 8)))

/-- One unit of a PATTERN. -/
def SeRunSt.patternUnit (r : SeRunSt) (e : SeRef) (dst n : Nat) : SeRunSt :=
  let r1 := r.write e dst n (patternBytes (r.d.w 1) dst n) false
  if r1.going then { r1 with d := { r1.d with bytes := r1.d.bytes + n } } else r1

/-- A run stops with a status at an address. -/
def SeRunSt.halt (r : SeRunSt) (s : State) (status va : Nat) : SeRunSt := ⟨s, r.d, some (status, va), r.fault⟩

/-- A run goes on with `n` more bytes done. -/
def SeRunSt.more (r : SeRunSt) (s : State) (n : Nat) : SeRunSt := ⟨s, { r.d with bytes := r.d.bytes + n }, r.stop, r.fault⟩

/-- A line whose codeword `k` is poisoned. -/
def poisonedCodeword (k : Nat) : Line := ⟨0, BitVec.twoPow 2 k⟩

/-- R734: the element of a poisoned source is written poisoned at its destination. -/
def State.sePoison (s : State) (e : SeRef) (pa n : Nat) (direct : Bool) : State :=
  ((s.uncached e.site (s.seTag e) (pa / 128) (.wrP (poisonedCodeword (pa % 128 / 64)) ((2 ^ n - 1) <<< (pa % 128))) direct).1).seConsumed e

/-- One element of a REDUCE at its home. -/
def SeRunSt.reduceOne (r : SeRunSt) (e : SeRef) (op size n src dst pa : Nat) (u : UnitRead) : SeRunSt :=
  if regionOf pa ≠ .dram then r.halt r.s 4 dst
  else if u.poison.isSome then r.halt (r.s.sePoison e pa n r.d.direct) 6 src
  else
    match r.s.reduceAt (r.s.seTag e) pa op size u.v 0 with
    | (s1, a) => match a.st with
      | .ok => r.more s1 n
      | .error => r.halt s1 5 dst
      | .gone => r.halt s1 6 dst

/-- One element of a REDUCE. -/
def SeRunSt.reduceElem (r : SeRunSt) (e : SeRef) (op size n src dst : Nat) : SeRunSt :=
  match r.read e src n with
  | (r1, u) =>
    if !r1.going then r1
    else
      match r1.pa e dst .atomic with
      | (r2, none) => r2
      | (r2, some pa) => r2.reduceOne e op size n src dst pa u

/-- The units of a row not yet moved, from byte `done` of the descriptor on: offset and length. -/
def unitsOf (rowBytes unit base done : Nat) : List (Nat × Nat) :=
  ((upTo ((rowBytes + unit - 1) / unit)).filter (fun i => decide (done ≤ base + i * unit))).map
    (fun i => (i * unit, min unit (rowBytes - i * unit)))

/-- One unit of the running descriptor is moved. -/
def SeRunSt.move (r : SeRunSt) (e : SeRef) (src dst n : Nat) : SeRunSt :=
  match r.d.op with
  | some .copy => r.copyUnit e src dst n
  | some .pattern => r.patternUnit e dst n
  | some .reduce => (match r.d.red with
    | some (op, size, k) => r.reduceElem e op size k src dst
    | none => r)
  | _ => r

/-- A unit whose request has to wait is not begun; what was done before it stands. -/
def SeRunSt.orWait (before after : SeRunSt) : SeRunSt :=
  if after.s.hold && decide (0 < before.d.bytes) then ⟨before.s, before.d, before.stop, true⟩ else after

/-- One unit of the running descriptor: the row, and the offset and length in it. -/
def SeRunSt.unit (r : SeRunSt) (e : SeRef) (row : Nat) (u : Nat × Nat) : SeRunSt :=
  if r.going then r.orWait (r.move e (r.d.src row + u.1) (r.d.dst row + u.1) u.2) else r

/-- The size of a unit. -/
def SeDesc.step (d : SeDesc) : Nat :=
  match d.op with
  | some .reduce => (match d.red with | some (_, _, n) => n | none => 1)
  | _ => 256

/-- The units of one row. -/
def SeRunSt.row (r : SeRunSt) (e : SeRef) (done row : Nat) : SeRunSt :=
  (unitsOf r.d.rowBytes r.d.step (row * r.d.rowBytes) done).foldl (fun t u => t.unit e row u) r

/-- R535: run a descriptor from where it stands. -/
def SeRunSt.go (r : SeRunSt) (e : SeRef) : SeRunSt :=
  (upTo r.d.rows).foldl (fun t row => t.row e r.d.bytes row) r

/-! ## Fetch -/

/-- R532: whether the completion record's page translates to DRAM of this module. -/
def SeDesc.compBad (d : SeDesc) : Bool :=
  d.comp && (match findRun d.runs (d.compVa / 2 ^ 16) .write with
    | some p => decide (regionOf (p.pa + d.compVa % 2 ^ 16) ≠ .dram)
    | none => false)

/-- A descriptor joins the queue. -/
def State.seJoin (s : State) (e : SeRef) (d : SeDesc) : State :=
  let k := s.seSt e.ix
  s.putSe e { k with queue := k.queue ++ [d], fetching := none }

/-- The runs the queue holds. -/
def SeSt.used (k : SeSt) : Nat := (k.queue.map (fun d => runCount d.runs)).sum

/-- Pages whose runs fit a store of `cap` runs. -/
def fitRuns (cap : Nat) (rs : List RunPage) : List RunPage :=
  rs.take ((upTo (rs.length + 1)).filter (fun n => decide (runCount (rs.take n) ≤ cap))).length.pred

/-- R530 to R533: a descriptor that has been read is translated and joins the queue, or waits on a fault. -/
def State.seQueue (s : State) (e : SeRef) (d : SeDesc) : State :=
  match s.seTranslateAll e d.pages d.runs with
  | (s1, rs, none) =>
    let d1 := { d with runs := rs }
    let k := s1.seSt e.ix
    if d1.compBad then s1.seJoin e { d with runs := [], status := some 3 }
    else if k.used + runCount rs ≤ 16384 then s1.seJoin e d1
    else if k.queue.isEmpty then s1.seJoin e { d with runs := fitRuns 16384 rs }
    else s1.wait
  | (s1, _, some (_, _, .status n)) => s1.seJoin e { d with runs := [], status := some n, errVa := d.dst 0 }
  | (s1, rs, some (p, acc, .fault f)) =>
    let k := s1.seSt e.ix
    ((s1.setSeSt e.ix { k with fetching := some { d with runs := rs } }).seFault e (p * 2 ^ 16) acc f).seShow e
  | (s1, rs, some (_, _, .ok _ _)) => s1.seJoin e { d with runs := rs }

/-- DESCRIPTOR_FETCH (R527, R530). -/
def descriptorFetch (e : SeRef) (s : State) : State :=
  s.commit fun s =>
    let k := s.seSt e.ix
    let fetch := s.fld e.db F.seDb_fetch
    if !s.seFetches e then s.answer .refused
    else match k.fetching with
      | some d => (s.seQueue e d).answer .ok
      | none =>
        if fetch = s.fld e.db F.seDb_prod ∨ 256 ≤ k.queue.length then s.answer .refused
        else
          let va := s.fld e.ring F.seRing_ring * 64 + 64 * (fetch % 2 ^ s.fld e.ctrl F.seCtrl_ringLog2)
          let blank : SeDesc := { idx := fetch, words := [], fetched := s.tick }
          let next (t : State) : State := t.setFld e.db F.seDb_fetch (fetch + 1)
          match s.seTranslate e va .read with
          | (s1, .fault f) => ((s1.seFault e va .read f).seShow e).answer .ok
          | (s1, .status n) => ((next s1).seJoin e { blank with status := some n }).answer .ok
          | (s1, .ok pa _) =>
            match s1.seReadLine e pa with
            | (s2, .error n) => ((next s2).seJoin e { blank with status := some n }).answer .ok
            | (s2, .ok l) =>
              if l.poison.getLsbD (pa % 128 / 64) then
                let s3 := s2.rasWrite { det 1 6 e.site 0 1 with consumed := true, arg0 := 7 }
                ((next s3).seJoin e { blank with status := some 6 }).answer .ok
              else
                let d := { blank with words := wordsOf 8 (bits l.data.toNat (8 * (pa % 128)) 512) }
                if d.bad then ((next s2).seJoin e { d with status := some 3 }).answer .ok
                else ((next s2).seQueue e d).answer .ok

/-! ## Running -/

/-- Replace a descriptor of the queue. -/
def SeSt.put (k : SeSt) (d : SeDesc) : SeSt := { k with queue := k.queue.map (fun x => if x.idx = d.idx then d else x) }

/-- R541: an expiry before the present tick has won. -/
def State.seLate (s : State) (e : SeRef) (d : SeDesc) : State × SeDesc :=
  if d.deadline ≠ 0 ∧ !d.late ∧ d.fetched + d.deadline < s.tick then
    (s.seFlag e F.seEvent_deadline (some d.idx), { d with late := true })
  else (s, d)

/-- COPY, PATTERN, REDUCE and NOTE (R535): the front descriptor runs until its data writes have ended, or until a
fault. -/
def seRun (e : SeRef) (op : SeOp) (s : State) : State :=
  s.commit fun s =>
    let k := s.seSt e.ix
    match k.front with
    | none => s.answer .refused
    | some d =>
      let stopped := (!s.flag e.ctrl F.seCtrl_enable || k.paused) && d.start.isNone
      let faulted := match s.unitFault (seUnit e.ix) with
        | some f => decide (f.stand = .held) || d.start.isSome
        | none => false
      if stopped || faulted || k.error || !s.up e.site || decide (d.op ≠ some op) || d.status.isSome then s.answer .refused
      else
        let d0 := { d with start := d.start.orElse (fun _ => some s.tick), runs := if d.marked then [] else d.runs, marked := false }
        let r := ({ s := s, d := d0 } : SeRunSt).go e
        let moved := r.d.bytes - d.bytes
        let s1 := r.s.count e.cntBytes F.seCntBytes_bytes moved
        match r.stop with
        | some (n, va) =>
          let (s2, d2) := s1.seLate e { r.d with status := some n, errVa := va, ended := some s1.tick }
          (s2.putSe e ((s2.seSt e.ix).put d2)).answer .ok
        | none =>
          if r.fault then (s1.putSe e ((s1.seSt e.ix).put r.d)).answer .ok
          else
            let (s2, d2) := s1.seLate e { r.d with status := some 0, ended := some s1.tick }
            (s2.putSe e ((s2.seSt e.ix).put d2)).answer .ok

/-! ## Completion -/

/-- R538: the image of a completion record. -/
def SeDesc.record (d : SeDesc) (e : SeRef) (sig : Nat) : List Byte :=
  let st := d.status.getD 0
  let eng := match e with | .cd _ k => k.val | .hub k => k.val
  toBytes 8 (1 + st * 2 + b2n d.late * 2 ^ 5 + e.site * 2 ^ 8 + eng * 2 ^ 12 + bits (d.w 0) 32 32 * 2 ^ 32)
    ++ toBytes 8 d.bytes
    ++ toBytes 8 (d.start.getD 0 % 2 ^ 32 + d.ended.getD 0 % 2 ^ 32 * 2 ^ 32)
    ++ toBytes 8 ((if st = 0 then 0 else d.errVa) + sig * 2 ^ 48)

/-- R537 step 3: the completion record is written where COMP_VA translates to DRAM. -/
def State.seRecord (s : State) (e : SeRef) (d : SeDesc) (sig : Nat) : State :=
  if !d.comp ∨ d.compVa % 32 ≠ 0 then s
  else
    match (match findRun d.runs (d.compVa / 2 ^ 16) .write with
      | some p => (s, SeXl.ok (p.pa + d.compVa % 2 ^ 16) p.host)
      | none => s.seTranslate e d.compVa .write) with
    | (s1, .ok pa _) =>
      if regionOf pa = .dram then
        (s1.uncached e.site (s1.seTag e) (pa / 128) (.wrP (placed pa (d.record e sig)) (spanOf pa 32)) true).1
      else s1
    | (s1, _) => s1

/-- DESCRIPTOR_COMPLETE (R537, R540): steps 3 to 5, in ring order. -/
def descriptorComplete (e : SeRef) (s : State) : State :=
  s.commit fun s =>
    let k := s.seSt e.ix
    match k.queue with
    | [] => s.answer .refused
    | d :: rest =>
      if d.status = none ∨ !s.up e.site then s.answer .refused
      else
        let (s0, d0) := s.seLate e { d with ended := d.ended.orElse (fun _ => some s.tick), start := d.start.orElse (fun _ => some s.tick) }
        let obj := bits (d0.w 6) 0 14
        let amount := bits (d0.w 6) 32 32
        let part := some (s.sePart e)
        let sig := if d0.sig then (s0.signal obj part amount).2.num else 0
        let s1 := s0.seRecord e d0 sig
        let s2 := if d0.sig then (s1.signal obj part amount).1 else s1
        let bad := d0.status ≠ some 0
        let s3 := if d0.irq then s2.seFlag e F.seEvent_done (some d0.idx) else s2
        let s4 := if bad then s3.seFlag e F.seEvent_error (some d0.idx) else s3
        let s5 := (s4.count e.cntDesc F.seCntDesc_descriptors 1).setFld e.stat F.seStat_doneIdx (d0.idx + 1)
        let k5 := s5.seSt e.ix
        (s5.putSe e { k5 with queue := rest, error := k5.error || decide (d0.status = some 7) }).answer .ok

/-- DESCRIPTOR_DEADLINE (R541): the expiry wins. -/
def descriptorDeadline (e : SeRef) (idx : Nat) (s : State) : State :=
  let k := s.seSt e.ix
  match (k.queue ++ k.fetching.toList).find? (fun d => decide (d.idx = idx)) with
  | none => s.answer .refused
  | some d =>
    if d.deadline = 0 ∨ d.late ∨ d.ended ≠ none then s.answer .refused
    else
      let s1 := (s.until (d.fetched + d.deadline)).seFlag e F.seEvent_deadline (some idx)
      let d1 := { d with late := true }
      (s1.putSe e { k.put d1 with fetching := k.fetching.map (fun x => if x.idx = idx then d1 else x) }).answer .ok

/-! ## Commands -/

/-- PAUSE (R542). -/
def State.sePause (s : State) (e : SeRef) : State := s.putSe e { s.seSt e.ix with paused := true }

/-- RESUME (R542). -/
def State.seResume (s : State) (e : SeRef) : State := s.putSe e { s.seSt e.ix with paused := false }

/-- The address of the first byte a descriptor has not done. -/
def SeDesc.nextVa (d : SeDesc) : Nat :=
  let row := d.bytes / d.rowBytes
  (match d.op with | some .pattern => d.dst row | _ => d.src row) + d.bytes % d.rowBytes

/-- ABORT (R542). -/
def State.seAbort (s : State) (e : SeRef) : State :=
  let k := s.seSt e.ix
  let end_ (d : SeDesc) : SeDesc := if d.ended = none then { d with status := some 1, errVa := d.nextVa } else d
  (s.withdraw (seUnit e.ix)).putSe e { k with queue := (k.queue ++ k.fetching.toList).map end_, fetching := none, paused := true }

/-- R540, R542: a write of ENABLE. -/
def State.seEnable (s : State) (e : SeRef) (en : Bool) : State :=
  let was := s.flag e.ctrl F.seCtrl_enable
  let s1 := s.setFld e.ctrl F.seCtrl_enable (b2n en)
  let k := s1.seSt e.ix
  if en && !was then s1.putSe e { k with error := false, paused := false } else s1.seShow e

/-! ## Resolution of faults -/

/-- A command ring beyond its registers. -/
def State.ring (s : State) (r : Nat) : RingSt := Sparse.get (fun _ => {}) s.rings r

/-- Store a command ring. -/
def State.setRing (s : State) (r : Nat) (k : RingSt) : State :=
  { s with rings := Sparse.set (fun _ => {}) s.rings r k }

/-- A waiter of a resolved fault goes on: a core or a ring translates again; an engine does so too, or under ABORT
ends its descriptor with FAULT (R553). -/
def State.resolveUnit (s : State) (u : Nat) (f : XlFault) (abort : Bool) : State :=
  let s1 := s.setUnitFault u none
  if u < 1024 then s1.wakeCore u f
  else if u < 2048 then
    let e := seRefOf (u - 1024)
    let k := s1.seSt e.ix
    if !abort then s1.seShow e
    else
      match k.fetching with
      | some d => s1.putSe e { k with fetching := none, queue := k.queue ++ [{ d with status := some 2, errVa := f.va, runs := [] }] }
      | none =>
        match k.front with
        | some d =>
          if d.start.isSome then s1.putSe e (k.put { d with status := some 2, errVa := f.va, ended := some s1.tick })
          else s1.seShow e
        | none =>
          -- the fault was the ring fetch's: the descriptor it would have read ends
          let fetch := s1.fld e.db F.seDb_fetch
          (s1.setFld e.db F.seDb_fetch (fetch + 1)).seJoin e { idx := fetch, words := [], fetched := s1.tick, status := some 2, errVa := f.va }
  else if abort then s1.setRing (u - 2048) { s1.ring (u - 2048) with aborted := true }
  else s1

/-- R552: a RESOLVE of an entry. -/
def State.fqResolve (s : State) (p idx : Nat) (abort : Bool) : State :=
  let q := s.fqueue p
  let a := R.fqResStat
  match q.pend.find? (fun x => decide (x.idx = idx)) with
  | none => (s.setFld a F.fqResStat_done 1).setFld a F.fqResStat_notPending 1
  | some x =>
    let s1 := ((s.setFld a F.fqResStat_done 1).setFld a F.fqResStat_notPending 0).setFld a F.fqResStat_count (min x.count 0xFFFF)
    let s2 := s1.setFq p { q with pend := q.pend.filter (fun y => decide (y.idx ≠ idx)) }
    let waiters := s2.ufault.filterMap (fun u => match u.2 with
      | some f => if f.key.part = p ∧ f.stand = .pending idx then some (u.1, f) else none
      | none => none)
    (waiters.foldl (fun (t : State) w => t.resolveUnit w.1 w.2 abort) s2).fqRelease p

/-- R555: a write of CONS. -/
def State.fqCons (s : State) (p v : Nat) : State :=
  let cons := s.fld (R.fqCons p) F.fqCons_cons
  let prod := s.fld (R.fqProd p) F.fqProd_prod
  if (v + 2 ^ 32 - cons) % 2 ^ 32 ≤ (prod + 2 ^ 32 - cons) % 2 ^ 32 then
    let s1 := s.setFld (R.fqCons p) F.fqCons_cons v
    (s1.setFq p (s1.fqueue p)).fqRelease p
  else s

/-- R555: a write of FQ_BASE: while ENABLE is 1 only ENABLE changes; a reserved size keeps its field. -/
def State.fqBaseWrite (s : State) (p : Nat) (data : Word) : State :=
  let a := R.fqBase p
  let en := F.fqBase_enable.get data
  let s1 := if s.flag a F.fqBase_enable then s
    else
      let size := F.fqBase_sizeLog2.get data
      let t := if F.fqBase_sizeLog2.legal size then s.setFld a F.fqBase_sizeLog2 size else s
      t.setFld a F.fqBase_base (F.fqBase_base.get data)
  let s2 := s1.setFld a F.fqBase_enable en
  let s3 := s2.setFq p (s2.fqueue p)
  if en = 1 then s3.fqRelease p else s3

/-! ## Meanings -/

/-- DESCRIPTOR_FETCH (R530). -/
def execDescriptorFetch (e : SeRef) (s : State) : Out := s.run fun s => descriptorFetch e s
/-- COPY (R535). -/
def execCopy (e : SeRef) (s : State) : Out := s.run fun s => seRun e .copy s
/-- PATTERN (R535). -/
def execPattern (e : SeRef) (s : State) : Out := s.run fun s => seRun e .pattern s
/-- REDUCE (R535). -/
def execReduce (e : SeRef) (s : State) : Out := s.run fun s => seRun e .reduce s
/-- NOTE (R535). -/
def execNote (e : SeRef) (s : State) : Out := s.run fun s => seRun e .note s
/-- DESCRIPTOR_COMPLETE (R537). -/
def execDescriptorComplete (e : SeRef) (s : State) : Out := s.run fun s => descriptorComplete e s
/-- DESCRIPTOR_DEADLINE (R541). -/
def execDescriptorDeadline (e : SeRef) (idx : BitVec 32) (s : State) : Out := s.run fun s => descriptorDeadline e idx.toNat s

end Sys2Proof.Machine
end

