-- ==== Sys2Proof/Machine/WeaveImage.lean ====
section
/-!
DEFINITION. The weave image (R560 to R578): its fields read from bytes, and the checks of the loader.
-/

namespace Sys2Proof.Machine

/-! ## Bytes -/

/-- A little-endian field of `n` bytes at an offset of an image. -/
def fieldAt (img : List Byte) (off n : Nat) : Nat := ofBytes ((img.drop off).take n)

/-- A doubleword of an image. -/
def wordAt (img : List Byte) (off : Nat) : Nat := fieldAt img off 8

/-- Whether `n` bytes at an offset are 0. -/
def zeroAt (img : List Byte) (off n : Nat) : Bool := ((img.drop off).take n).all (fun b => decide (b = 0))

/-- The reasons of R580. -/
inductive WvReason where
  | badHeader | badLayout | badSignature | wrongPredecessor | badSection | capacity | rangeRule | zeroBusy | readError
  | loadFault | timeout | cmdAbort
  deriving DecidableEq, Repr

/-- R580: the code of a reason. -/
def WvReason.code : WvReason → Nat
  | .badHeader => 1 | .badLayout => 2 | .badSignature => 3 | .wrongPredecessor => 4 | .badSection => 5 | .capacity => 6
  | .rangeRule => 7 | .zeroBusy => 8 | .readError => 9 | .loadFault => 10 | .timeout => 0x10 | .cmdAbort => 0x11

/-! ## Header and sections -/

/-- The most bytes of an image. -/
def imageMax : Nat := 32 * 2 ^ 20

/-- FULL. -/
def imgFull (img : List Byte) : Bool := decide (bits (wordAt img 0) 56 1 = 1)

/-- SCOPE. -/
def imgScope (img : List Byte) : Nat := wordAt img 16

/-- R561: the header is sound; `len` is the length the loader was given. -/
def headerOk (img : List Byte) (len : Nat) : Bool :=
  let w0 := wordAt img 0
  let w1 := wordAt img 8
  decide (bits w0 0 32 = 0x5657_5848) && decide (bits w0 32 16 = 1) && decide (bits w0 48 8 = 1)
    && decide (bits w0 57 7 = 0) && decide (bits w1 0 32 = len) && decide (len % 64 = 0) && decide (128 ≤ len)
    && decide (2 ≤ bits w1 32 12) && decide (bits w1 44 20 = 0) && zeroAt img 80 48
    && (!imgFull img || (decide (imgScope img = 2 ^ 64 - 1) && zeroAt img 32 48))

/-- A section: its type, offset and length (R562). -/
structure Sect where
  typ : Nat
  off : Nat
  len : Nat
  deriving DecidableEq, Repr

/-- The section table. -/
def sectionsOf (img : List Byte) : List Sect :=
  (upTo (bits (wordAt img 8) 32 12)).map (fun i =>
    let w1 := wordAt img (136 + 16 * i)
    ⟨wordAt img (128 + 16 * i), bits w1 0 32, bits w1 32 32⟩)

/-- The bytes of a section. -/
def Sect.body (q : Sect) (img : List Byte) : List Byte := (img.drop q.off).take q.len

/-- The TARGET mask of a per-cluster section. -/
def Sect.target (q : Sect) (img : List Byte) : Nat := wordAt img q.off

/-- R563: whether a type is a per-cluster section. -/
def Sect.perCluster (q : Sect) : Bool :=
  decide (q.typ = 1) || decide (q.typ = 2) || decide (q.typ = 5) || decide (q.typ = 6) || decide (q.typ = 8)

/-- R563: the length of a section is that of its type. -/
def Sect.lenOk (q : Sect) (img : List Byte) : Bool :=
  match q.typ with
  | 0x01 => decide (q.len = 1032)
  | 0x02 => decide (q.len = 32)
  | 0x03 => decide (q.len = 792)
  | 0x04 => decide (q.len = 1024)
  | 0x05 => decide (64 ≤ q.len) && decide (q.len = 64 + bits (wordAt img (q.off + 32)) 32 32)
  | 0x06 => decide (64 ≤ q.len) && decide (q.len = 64 + 4160 * ((upTo 16).filter (fun i => (wordAt img (q.off + 8)).testBit i)).length)
  | 0x07 => decide (16 ≤ q.len) && decide (q.len = 16 + 16 * bits (wordAt img q.off) 0 32)
  | 0x08 => decide (q.len = 136)
  | 0x0F => decide (q.len = 160)
  | _ => false

/-- Whether no two ranges of a list meet. -/
def disjointAll : List Rng → Bool
  | [] => true
  | r :: rs => rs.all (fun q => decide (r.1 + r.2 ≤ q.1) || decide (q.1 + q.2 ≤ r.1)) && disjointAll rs

/-- How many sections of a type name a cluster. -/
def naming (qs : List Sect) (img : List Byte) (typ cl : Nat) : Nat :=
  (qs.filter (fun q => decide (q.typ = typ) && (q.target img).testBit cl)).length

/-- How many sections have a type. -/
def ofType (qs : List Sect) (typ : Nat) : Nat := (qs.filter (fun q => decide (q.typ = typ))).length

/-- R562 to R564: the layout is sound. A SIGN section of 160 B that ends at a LENGTH divisible by 64 cannot begin at a
multiple of 64; R564 lists no refusal for an OFFSET, and the model holds SIGN's to none (DEDUCED). -/
def layoutOk (img : List Byte) : Bool :=
  let qs := sectionsOf img
  let len := img.length
  let full := imgFull img
  let scope := imgScope img
  let table : Rng := (0, 128 + 16 * qs.length)
  decide (table.2 ≤ len)
    && qs.all (fun q => (decide (q.typ = 0xF) || decide (q.off % 64 = 0)) && decide (q.off + q.len ≤ len) && q.lenOk img)
    && disjointAll (table :: qs.map (fun q => (q.off, q.len)))
    && qs.all (fun q => !q.perCluster || decide (q.target img &&& scope = q.target img))
    && (upTo 64).all (fun cl => !scope.testBit cl || [1, 2, 6, 8].all (fun t => decide (naming qs img t cl = 1)))
    && [3, 4].all (fun t => decide (ofType qs t = 1) || (!full && decide (ofType qs t = 0)))
    && decide (ofType qs 7 ≤ 1) && decide (ofType qs 0xF = 1)
    && (match qs.getLast? with
        | some q => decide (q.typ = 0xF) && decide (q.off + q.len = len)
        | none => false)

/-! ## Sections of a cluster -/

/-- R565, R566: the link words of a ROUTE section are sound. -/
def routeOk (ws : List Word) : Bool :=
  let vs := ws.filter (fun w => decide (F.route_valid.get w = 1))
  let src (w : Word) : Rng := (F.route_srcOff.get w, F.route_lenM1.get w + 1)
  let dst (w : Word) : Rng := (F.route_dstOff.get w, F.route_lenM1.get w + 1)
  ws.all (fun w => decide (bits w.toNat 10 6 = 0) && decide (bits w.toNat 49 15 = 0))
    && vs.all (fun w => decide (F.route_srcCore.get w ≠ F.route_dstCore.get w)
        && decide ((src w).1 + (src w).2 ≤ 1536) && decide ((dst w).1 + (dst w).2 ≤ 1536))
    && (upTo 16).all (fun m =>
        let ss := (vs.filter (fun w => decide (F.route_srcCore.get w = m))).map src
        let ds := (vs.filter (fun w => decide (F.route_dstCore.get w = m))).map dst
        disjointAll (ss ++ ds))

/-- R568: an ENGINE section is sound. -/
def engineOk (b : List Byte) : Bool :=
  let w := wordAt b 8
  decide (bits w 34 2 ≠ 3) && decide (bits w 36 5 ≤ 16) && decide (bits w 44 3 ≤ 6) && zeroAt b 24 8

/-- R570: the slots of a TABLE section with their words. -/
def tablesOf (b : List Byte) : List (Nat × List Word) :=
  ((upTo 16).filter (fun i => (wordAt b 8).testBit i)).zipIdx.map (fun e =>
    (e.1, wordsOf 520 (fieldAt b (64 + 4160 * e.2) 4160)))

/-- R570: a TABLE section is sound. -/
def tableOk (b : List Byte) : Bool := decide (bits (wordAt b 8) 16 48 = 0) && zeroAt b 16 48

/-- R571: the kernel of a CODE section. -/
def kernelIn (b : List Byte) : Kernel where
  id := bits (wordAt b 8) 0 16
  width := 8 * 2 ^ bits (wordAt b 8) 16 2
  regs := bits (wordAt b 8) 18 9
  unif := bits (wordAt b 8) 27 7
  block := bits (wordAt b 8) 34 5
  prio := bits (wordAt b 8) 39 3
  cert := decide (bits (wordAt b 8) 42 1 = 1)
  entry := bits (wordAt b 16) 0 48
  loadVa := bits (wordAt b 24) 0 48
  ctx := bits (wordAt b 32) 0 8
  code := b.drop 64

/-- R155, R571: a CODE section is sound. -/
def codeOk (b : List Byte) : Bool :=
  let k := kernelIn b
  decide (k.id ≠ 0) && decide (k.regs % 8 = 0) && decide (8 ≤ k.regs) && decide (k.regs ≤ 256)
    && decide (1 ≤ k.unif) && decide (k.unif ≤ 64) && decide (1 ≤ k.block) && decide (k.block ≤ 16)
    && decide (bits (wordAt b 8) 43 21 = 0) && decide (bits (wordAt b 16) 48 16 = 0) && decide (bits (wordAt b 24) 48 16 = 0)
    && decide (bits (wordAt b 32) 8 24 = 0) && zeroAt b 40 24 && decide (k.loadVa % 64 = 0) && decide (k.entry % 8 = 0)
    && decide (k.loadVa ≤ k.entry) && decide (k.entry < k.loadVa + k.code.length) && decide (k.code.length % 8 = 0)
    && decide (k.code.length ≤ 16 * 2 ^ 20)

/-- R573: the entries of a SCHED section. -/
def schedOf (b : List Byte) : List SchedEnt :=
  (upTo (bits (wordAt b 0) 0 32)).map (fun i =>
    let w0 := wordAt b (16 + 16 * i)
    let w1 := wordAt b (24 + 16 * i)
    ⟨bits w0 0 16, bits w0 16 3, bits w0 19 45, bits w1 0 45, decide (bits w1 45 1 = 1), decide (bits w1 46 1 = 1)⟩)

/-- The order of SCHED entries. -/
def SchedEnt.before (a b : SchedEnt) : Bool :=
  decide (a.kernel < b.kernel) || (decide (a.kernel = b.kernel) && (decide (a.pc < b.pc) || (decide (a.pc = b.pc) && decide (a.kind < b.kind))))

/-- Whether each neighbour of a list stands in an order. -/
def chained {α : Type} (lt : α → α → Bool) : List α → Bool
  | a :: b :: rest => lt a b && chained lt (b :: rest)
  | _ => true

/-- R573: a SCHED section is sound. -/
def schedOk (b : List Byte) : Bool :=
  let es := schedOf b
  decide (bits (wordAt b 0) 32 32 = 0) && zeroAt b 8 8
    && (upTo es.length).all (fun i => decide (bits (wordAt b (24 + 16 * i)) 47 17 = 0))
    && es.all (fun e => decide (e.kind ≤ 3) && (decide (e.kind ≠ 1) || decide (e.arg = 0))
        && (decide (e.kind ≠ 3) || (decide (e.pc = 0) && decide (e.arg < 2 ^ 16))))
    && chained SchedEnt.before es

/-! ## Package sections -/

/-- R575: the fields of a PART section. -/
def partOf (b : List Byte) : PartSect where
  enable := (upTo 8).map (fun p => decide (bits (wordAt b (16 * p)) 0 1 = 1))
  cls := (upTo 8).map (fun p => decide (bits (wordAt b (16 * p)) 1 1 = 1))
  clusters := (upTo 64).map (fun cl =>
    ((upTo 8).find? (fun p => decide (bits (wordAt b (16 * p)) 0 1 = 1) && (wordAt b (16 * p + 8)).testBit cl)).getD 0)
  ranges := wordsOf 64 (fieldAt b 128 512)
  sePart := (upTo 136).map (fun j => fieldAt b (640 + j) 1)

/-- R575: a PART section is sound. -/
def partOk (b : List Byte) : Bool :=
  let q := partOf b
  let on (p : Nat) : Bool := q.enable.getD p false
  (upTo 8).all (fun p => decide (bits (wordAt b (16 * p)) 2 62 = 0))
    && (upTo 64).all (fun cl => decide (((upTo 8).filter (fun p => on p && (wordAt b (16 * p + 8)).testBit cl)).length = 1))
    && q.sePart.all (fun p => decide (p < 8) && on p) && zeroAt b 776 16
    && (upTo 32).all (fun i =>
        let lo := (q.ranges.getD (2 * i) 0).toNat
        let hi := (q.ranges.getD (2 * i + 1) 0).toNat
        decide (bits lo 5 16 = 0) && decide (bits lo 40 24 = 0) && decide (bits hi 0 21 = 0) && decide (bits hi 40 24 = 0))

/-- R577: the words of a REGU section, in the order n, c, p, are sound. -/
def reguOk (ws : List Word) : Bool :=
  ws.all (fun w => F.mcReg_rate.legal (F.mcReg_rate.get w) && F.mcReg_burst.legal (F.mcReg_burst.get w)
    && decide (bits w.toNat 12 4 = 0) && decide (bits w.toNat 38 26 = 0))

/-- The ranges that the words of a table hold (R406). -/
def rangesIn (ws : List Word) : List OwnedRange :=
  (upTo 32).filterMap (fun i =>
    let b := ws.getD (2 * i) 0
    let l := ws.getD (2 * i + 1) 0
    if F.rangeBase_valid.get b = 1 then
      some ⟨F.rangeBase_base.get b * 2 ^ 21, (F.rangeLimit_limit.get l + 1) * 2 ^ 21, F.rangeBase_owner.get b,
        decide (F.rangeBase_host.get b = 1)⟩
    else none)

/-- Insert a number in a rising list without repeats. -/
def insertRising (x : Nat) : List Nat → List Nat
  | [] => [x]
  | y :: ys => if x < y then x :: y :: ys else if x = y then y :: ys else y :: insertRising x ys

/-- The intervals between the bounds of some ranges, over all of DRAM: the owners are constant in each. -/
def intervalsOf (rs : List OwnedRange) (more : List FreedRange) : List Rng :=
  let pts := (rs.flatMap (fun r => [r.lo, r.hi]) ++ more.flatMap (fun r => [r.lo, r.hi])).foldl (fun l x =>
    if x < dramSize then insertRising x l else l) [0]
  (pts.zip (pts.drop 1 ++ [dramSize])).map (fun e => (e.1, e.2 - e.1))

/-- Owner and HOST bit of an address under a table (R576). -/
def ownedBy (rs : List OwnedRange) (pa : Nat) : Option (Nat × Bool) := (rangeAt rs pa).map (fun r => (r.owner, r.host))

/-- R576: the PART section keeps the range rule, or why not. -/
def State.rangeRule (s : State) (q : PartSect) : Option WvReason :=
  let cur := s.ranges
  let new := rangesIn q.ranges
  let verdict (b : Nat) : Option WvReason :=
    let c := ownedBy cur b
    match ownedBy new b with
    | none => none
    | some o =>
      if !q.enable.getD o.1 false then some .rangeRule
      else if c = some o then none
      else if c ≠ none then some .rangeRule
      else if s.wv.freed.any (fun f => decide (f.lo ≤ b) && decide (b < f.hi)) then some .zeroBusy
      else none
  let vs := ((intervalsOf (cur ++ new) s.wv.freed).map (fun i => verdict i.1)).filterMap id
  if vs.contains .rangeRule then some .rangeRule else vs.head?

/-! ## The whole image -/

/-- The body of the section of a type that names a cluster. -/
def sectFor (qs : List Sect) (img : List Byte) (typ cl : Nat) : List Byte :=
  match qs.find? (fun q => decide (q.typ = typ) && (q.target img).testBit cl) with
  | some q => q.body img
  | none => []

/-- The configuration an image gives a cluster. -/
def confOf (qs : List Sect) (img : List Byte) (sched : List SchedEnt) (part cl : Nat) : ClConf :=
  let eng := sectFor qs img 2 cl
  let kernels := (qs.filter (fun q => decide (q.typ = 5) && (q.target img).testBit cl)).map (fun q => kernelIn (q.body img))
  { routes := wordsOf 128 (fieldAt (sectFor qs img 1 cl) 8 1024)
    engine := Word.of (wordAt eng 8)
    thresholds := Word.of (wordAt eng 16)
    seeds := wordsOf 16 (fieldAt (sectFor qs img 8 cl) 8 128)
    tables := tablesOf (sectFor qs img 6 cl)
    kernels := kernels
    sched := sched.filter (fun e => kernels.any (fun k => decide (k.id = e.kernel)))
    part := part }

/-- Whether two kernels have one shape (R574, R590). -/
def Kernel.sameShape (a b : Kernel) : Bool :=
  decide (a.width = b.width) && decide (a.regs = b.regs) && decide (a.unif = b.unif) && decide (a.block = b.block)

/-- R572: segments that overlap are byte-identical over the overlap. -/
def Kernel.apartOrSame (a b : Kernel) : Bool :=
  let lo := max a.loadVa b.loadVa
  let hi := min (a.loadVa + a.code.length) (b.loadVa + b.code.length)
  decide (a.ctx ≠ b.ctx) || decide (hi ≤ lo)
    || decide ((a.code.drop (lo - a.loadVa)).take (hi - lo) = (b.code.drop (lo - b.loadVa)).take (hi - lo))

/-- The kernels that the committed configuration holds, with their clusters. -/
def State.heldKernels (s : State) : List (Nat × Kernel) := s.clConf.flatMap (fun e => e.2.kernels.map (fun k => (e.1, k)))

/-- R565 to R577: every section is sound. -/
def State.sectionsOk (s : State) (img : List Byte) : Bool :=
  let qs := sectionsOf img
  let scope := imgScope img
  let codes := (qs.filter (fun q => decide (q.typ = 5))).map (fun q => q.body img)
  let ks := codes.map kernelIn
  let held := s.heldKernels
  let scheds := (qs.filter (fun q => decide (q.typ = 7))).map (fun q => q.body img)
  qs.all (fun q =>
      let b := q.body img
      match q.typ with
      | 0x01 => routeOk (wordsOf 128 (fieldAt b 8 1024))
      | 0x02 => engineOk b
      | 0x03 => partOk b
      | 0x04 => reguOk (wordsOf 128 (fieldAt b 0 1024))
      | 0x05 => codeOk b
      | 0x06 => tableOk b
      | 0x07 => schedOk b
      | 0x0F => decide (bits (wordAt b 0) 0 16 = 1) && zeroAt b 2 6 && zeroAt b 152 8
      | _ => true)
    && decide ((ks.map Kernel.id).Nodup)
    && ks.all (fun k => held.all (fun h => k.apartOrSame h.2
        && (scope.testBit h.1 || decide (h.2.id ≠ k.id)
            || (h.2.sameShape k && decide (h.2.loadVa = k.loadVa) && decide (h.2.ctx = k.ctx) && decide (h.2.code = k.code)))))
    && scheds.all (fun b => (schedOf b).all (fun e => decide (e.kind ≠ 2)
        || ks.any (fun k => decide (k.id = e.kernel) && held.any (fun h => decide (h.2.id = k.id) && h.2.sameShape k))))

/-- R563: the bytes that a configuration takes in the loader's store, code segments apart. -/
def ClConf.size (c : ClConf) : Nat := 1024 + 24 + 128 + 4160 * c.tables.length + 16 * c.sched.length

/-- R580, R581: whether an image with its configuration fits. -/
def State.capacityOk (s : State) (scope : Nat) (scheds : Nat) (conf : List (Nat × ClConf)) : Bool :=
  let kept := s.clConf.filter (fun e => !scope.testBit e.1)
  let all := kept ++ conf
  let ks := (all.flatMap (fun e => e.2.kernels)).eraseDups
  decide (scheds ≤ 65536) && conf.all (fun e => decide (e.2.kernels.length ≤ 256))
    && decide ((all.map (fun e => e.2.size)).sum + (ks.map (fun k => 64 + k.code.length)).sum + 792 + 1024 ≤ imageMax)

/-- The digest of an image (R578): SHA-384 over the bytes before its SIGN section. -/
def imageDigest (img : List Byte) : List Byte :=
  match (sectionsOf img).getLast? with
  | some q => sha384 (img.take q.off)
  | none => sha384 img

/-- The bytes of WV_DIGEST. -/
def State.wvDigest (s : State) : List Byte := (upTo 6).flatMap (fun i => toBytes 8 (s.reg (R.wvDigest i)).toNat)

/-- R579 step 3: the image as the loader reads it, or the reason of its refusal. -/
def State.checkImage (s : State) (img : List Byte) (len : Nat) : Except WvReason Image :=
  if !headerOk img len then .error .badHeader
  else if !layoutOk img then .error .badLayout
  else
    let qs := sectionsOf img
    let scope := imgScope img
    let bodyOf (t : Nat) : Option (List Byte) := (qs.find? (fun q => decide (q.typ = t))).map (fun q => q.body img)
    let sched := match bodyOf 7 with | some b => schedOf b | none => []
    let part := (bodyOf 3).map partOf
    let partOfCl (cl : Nat) : Nat := match part with
      | some q => q.clusters.getD cl 0
      | none => (s.conf cl).part
    let conf := ((upTo 64).filter (fun cl => scope.testBit cl)).map (fun cl => (cl, confOf qs img sched (partOfCl cl) cl))
    let epoch := s.fld R.wvEpoch F.wvEpoch_epoch
    let digest := imageDigest img
    let sign := (bodyOf 0xF).getD []
    let pred := imgFull img || (decide (epoch ≠ 0) && decide ((img.drop 32).take 48 = s.wvDigest))
    let range := match part with | some q => (if epoch = 0 then none else s.rangeRule q) | none => none
    let verifies := decide (s.fld R.secStat F.secStat_state ≠ 2)
      && s.signed ((sign.drop 8).take 48) .weave digest ((sign.drop 56).take 48) ((sign.drop 104).take 48)
    if !s.capacityOk scope sched.length conf then .error .capacity
    else if !s.sectionsOk img then .error .badSection
    else if !pred then .error .wrongPredecessor
    else match range with
    | some r => .error r
    | none =>
      if !verifies then .error .badSignature
      else .ok {
        full := imgFull img
        scope := BitVec.ofNat 64 scope
        digest := digest
        conf := conf
        part := part
        regu := (bodyOf 4).map (fun b => wordsOf 128 (fieldAt b 0 1024)) }

end Sys2Proof.Machine
end

