-- ==== Sys2Proof/Machine/Weave.lean ====
section
/-!
DEFINITION. The weave loader: loading and staging, the commit with its vote, and the swap of the clusters
(R579 to R593, R662).
-/

namespace Sys2Proof.Machine

/-! ## Keys (R435, R662) -/

/-- A new key for a slot is drawn; its identity is one that no key has had. -/
def State.drawKey (s : State) (i : Nat) : State :=
  { s with keys := Sparse.set (fun _ => 0) s.keys i s.onyx.nextKey, onyx := { s.onyx with nextKey := s.onyx.nextKey + 1 } }

/-- A die's controllers take the key of partition p. -/
def State.loadKeyAt (s : State) (cd p : Nat) : State :=
  (s.setFld (R.mcPart cd p) F.mcPart_keyLoaded 1).setFld (R.mcPart cd p) F.mcPart_keyGen
    (s.fld (R.mcPart cd p) F.mcPart_keyGen + 1)

/-- Do something for every compute die in service. -/
def State.eachCd (s : State) (f : State → Nat → State) : State :=
  (upTo 8).foldl (fun (t : State) n => if t.cdUp n then f t n else t) s

/-- KEY_GEN of a partition, as the lowest-numbered die in service counts it. -/
def State.keyGen (s : State) (p : Nat) : Nat :=
  match (upTo 8).find? (fun n => s.cdUp n) with
  | some n => s.fld (R.mcPart n p) F.mcPart_keyGen
  | none => 0

/-- R662, R673: a key is drawn for a partition and loaded into every controller. -/
def State.loadKey (s : State) (p : Nat) : State :=
  let s1 := (s.drawKey p).eachCd (fun t n => t.loadKeyAt n p)
  s1.audit 0x0014 0 0 (Word.of (p * 2)) (Word.of (s1.keyGen p))

/-- R662, R673: the key of a partition is cleared from Onyx and from every slot. -/
def State.eraseKey (s : State) (p : Nat) : State :=
  let s1 := ({ s with keys := Sparse.set (fun _ => 0) s.keys p 0 } : State).eachCd (fun t n => t.setFld (R.mcPart n p) F.mcPart_keyLoaded 0)
  s1.audit 0x0014 0 0 (Word.of (p * 2 + 1)) (Word.of (s1.keyGen p))

/-! ## Registers of the loader -/

/-- STATE. -/
def State.wvState (s : State) : Nat := s.fld R.wvStat F.wvStat_state

/-- Set STATE. -/
def State.setWvState (s : State) (v : Nat) : State := s.setFld R.wvStat F.wvStat_state v

/-- Set NEXT. -/
def State.setNext (s : State) (v : Nat) : State := s.setFld R.wvEpoch F.wvEpoch_next v

/-- R582: the epoch after an epoch. -/
def epochAfter (e : Nat) : Nat := if e = 0xFFFF_FFFF then 1 else e + 1

/-- A digest's low 64 bits. -/
def digestLow (d : List Byte) : Word := Word.of (ofBytes (d.take 8))

/-! ## Loading -/

/-- R580: the load ends with a reason; a digest that was never formed is a free value in the log. -/
def State.refuseImage (s : State) (why : WvReason) (digest : Option (List Byte)) : State :=
  let (s0, low) := match digest with
    | some d => (s, digestLow d)
    | none => (s.draw, Word.of s.free)
  let s1 := ((s0.setWvState 0).setFld R.wvStat F.wvStat_reason why.code).count R.wvCntRefused F.wvCntRefused_refused 1
  let s2 := if why = .badSignature then
      (s1.count R.secCntLog F.secCntLog_verifyFails 1).secEvent F.secEvent_verifyFail
    else s1
  ((s2.audit 0x0012 0 0 (Word.of why.code) low).raise 0 33)

/-- The effect of STAGE (R579, R581). -/
def State.wvStage (s : State) : State :=
  if s.wvState = 0 then s.setWvState 1 else s.setFld R.wvStat F.wvStat_cmdRefused 1

/-- What the loader takes of the answer to its read of a line (R579). -/
def State.copyTake (s : State) (lo hi line : Nat) (st : MemSt) : Option Line → State × Option (List Byte)
  | none => (s, none)
  | some l =>
    let off := if line * 128 < lo then 64 else 0
    let stop := if hi < line * 128 + 128 then 64 else 128
    let bad := (l.poison.getLsbD 0 && decide (off = 0)) || (l.poison.getLsbD 1 && decide (stop = 128))
    if st = .error then (s, none)
    else if bad then (s.rasWrite { det 1 6 0 0 1 with consumed := true, arg0 := 8 }, none)
    else (s, some (((toBytes 128 l.data.toNat).take stop).drop off))

/-- The loader's read of one line of its image: the bytes of it that the image has, or none (R579). -/
def State.copyLine (s : State) (lo hi line : Nat) : State × Option (List Byte) :=
  if 2 ^ 33 ≤ line then (s, none)
  else
    let r := s.uncached 0 .host line .rdNC false
    r.1.copyTake lo hi line r.2.st r.2.val

/-- R579 step 2: the loader reads the lines of the image; nothing when a read is refused or poisoned. -/
def State.copyLines (s : State) (lo hi : Nat) : List Nat → List (List Byte) → State × Option (List Byte)
  | [], acc => (s, some acc.reverse.flatten)
  | line :: rest, acc =>
    let got := s.copyLine lo hi line
    got.2.elim (got.1, none) (fun bs => got.1.copyLines lo hi rest (bs :: acc))

/-- R579 step 2. -/
def State.copyImage (s : State) : State × Option (List Byte) :=
  let lo := s.fld R.wvImgAddr F.wvImgAddr_addr * 64
  let len := s.fld R.wvImgLen F.wvImgLen_len / 64 * 64
  if len = 0 then (s, some [])
  else s.copyLines lo (lo + len) ((upTo ((lo + len - 1) / 128 - lo / 128 + 1)).map (fun i => lo / 128 + i)) []

/-- The partition of a context, as the hub's walker keeps it. -/
def State.ctxPart (s : State) (ctx : Nat) : Nat :=
  match (s.walker 72).ctxs.find? (fun e => decide (e.ctx = ctx)) with
  | some e => e.part
  | none => 0

/-- R572: write one kernel's segment, by pieces of lines. -/
def State.loadSegment (s : State) (k : Kernel) : State × Bool :=
  (linePieces k.loadVa k.code.length).foldl (fun (t : State × Bool) p =>
    if !t.2 then t
    else
      match t.1.translate 72 none k.ctx none (k.loadVa + p.1) .write false with
      | (s1, .ok pa) =>
        let bs := (k.code.drop p.1).take p.2
        if regionOf pa = .dram then
          match s1.uncached 0 (.part (BitVec.ofNat 3 (s1.ctxPart k.ctx))) (pa / 128)
              (if p.2 = 128 then .wrF (placed pa bs) else .wrP (placed pa bs) (spanOf pa p.2)) false with
          | (s2, a) => (s2, decide (a.st = .ok))
        else (s1, false)
      | (s1, _) => (s1, false)) (s, true)

/-- R572: write the segments of an image. -/
def State.loadSegments (s : State) (im : Image) : State × Bool :=
  ((im.conf.flatMap (fun e => e.2.kernels)).eraseDups).foldl (fun (t : State × Bool) k => if t.2 then t.1.loadSegment k else t) (s, true)

/-- R579 step 4: the image is staged. -/
def State.wvStaged (s : State) (im : Image) : State :=
  let s1 := (s.setNext (epochAfter (s.fld R.wvEpoch F.wvEpoch_epoch))).setWvState 2
  { s1 with wv := { s1.wv with cand := some im } }

/-- IMAGE_STAGED (R579, R580): steps 2 to 4. -/
def wvLoad (s : State) : State :=
  s.commit fun s =>
    if s.wvState ≠ 1 then s.answer .refused
    else if imageMax < s.fld R.wvImgLen F.wvImgLen_len then (s.refuseImage .capacity none).answer .ok
    else
      match s.copyImage with
      | (s1, none) => (s1.refuseImage .readError none).answer .ok
      | (s1, some img) =>
        match s1.checkImage img (s1.fld R.wvImgLen F.wvImgLen_len) with
        | .error .badHeader => (s1.refuseImage .badHeader none).answer .ok
        | .error r => (s1.refuseImage r (some (imageDigest img))).answer .ok
        | .ok im =>
          match s1.loadSegments im with
          | (s2, false) => (s2.refuseImage .loadFault (some im.digest)).answer .ok
          | (s2, true) => (s2.wvStaged im).answer .ok

/-! ## The vote -/

/-- R584: whether a group stands at a quiesce point. -/
def State.quiesced (s : State) (c : Nat) (x : Group) : Bool :=
  x.halt.isSome || (match x.wait with
    | .parked => true
    | .none => s.quiesceAt c x
    | .counter _ _ => s.quiesceAt c x
    | .barrier _ => s.quiesceAt c x
    | _ => false)

/-- The resident groups of a cluster, with their cores. -/
def State.groupsOf (s : State) (cl : Nat) : List (Nat × Nat × Group) :=
  (upTo 16).flatMap (fun m =>
    ((s.core (cl * 16 + m)).groups.filter (fun e => e.2.resident)).map (fun e => (cl * 16 + m, e.1, e.2)))

/-- Whether a cluster sleeps: in I3, or its die in I4. -/
def State.clAsleep (s : State) (cl : Nat) : Bool :=
  s.inI4 (cl / 8) || s.inI3 cl

/-- R585: whether a cluster is parked under a candidate. -/
def State.clParked (s : State) (im : Image) (cl : Nat) : Bool :=
  let gs := s.groupsOf cl
  let moves := match im.part with
    | some q => decide (q.clusters.getD cl 0 ≠ s.fld (R.l2Stat cl) F.l2Stat_part)
    | none => false
  (s.clAsleep cl || (gs.all (fun g => s.quiesced g.1 g.2.2)
    && (upTo 16).all (fun m => let k := s.core (cl * 16 + m); k.tblLoad.isNone && k.mbuf.isEmpty)))
    && (!moves || gs.isEmpty)

/-- R585: whether a shuttle engine is ready. -/
def State.seReady (s : State) (e : SeRef) : Bool :=
  decide (s.fld e.db F.seDb_fetch = s.fld e.db F.seDb_prod) && decide (s.fld e.stat F.seStat_queued = 0)
    && decide (s.fld e.stat F.seStat_state ≠ 2)

/-- R585: the engines of the vote set: those in service whose SE_PART changes. -/
def State.voteEngines (s : State) (im : Image) : List Nat :=
  match im.part with
  | none => []
  | some q => (upTo 136).filter (fun j =>
      let e := seRefOf j
      s.up e.site && decide (q.sePart.getD j 0 ≠ s.fld e.ctrl F.seCtrl_part))

/-- Whether an engine has reported. -/
def State.seVoted (s : State) (j : Nat) : Bool := (s.reg (R.wvSeWait (j / 64))).getLsbD (j % 64)

/-- The vote closes when every member has reported (R587 step 3). -/
def State.voteCheck (s : State) : State :=
  let scope := s.reg R.wvScope
  if s.wvState = 3 ∧ scope &&& s.reg R.wvVote = scope ∧ s.wv.engines.all (fun j => s.seVoted j) then s.setWvState 4 else s

/-- Set the state CSTATE of a cluster. -/
def State.setCstate (s : State) (cl v : Nat) : State := s.setFld (R.wvClEpoch cl) F.wvClEpoch_cstate v

/-- The effect of COMMIT (R587 step 1). -/
def State.wvCommit (s : State) : State :=
  match s.wvState, s.wv.cand with
  | 2, some im =>
    let members := (upTo 64).filter (fun cl => im.scope.getLsbD cl && s.cdUp (cl / 8))
    let scope : Word := members.foldl (fun w cl => w ||| BitVec.twoPow 64 cl) 0
    let s1 := (((s.setWvState 3).setReg R.wvScope scope).setReg R.wvVote 0)
    let s2 := (upTo 3).foldl (fun (t : State) i => t.setReg (R.wvSeWait i) 0) s1
    let s3 : State := { s2 with wv := { s2.wv with
      deadline := s.tick + 1000 * s.fld R.wvCtrl F.wvCtrl_timeoutUs, engines := s.voteEngines im } }
    (members.foldl (fun t cl => t.setCstate cl 1) s3).voteCheck
  | _, _ => s

/-- R589: groups that parked go on. -/
def State.unpark (s : State) (cl : Nat) : State :=
  (s.groupsOf cl).foldl (fun (t : State) g =>
    if g.2.2.wait = .parked then t.setGrp (groupAt g.1 g.2.1) { g.2.2 with wait := .none } else t) (s.setCstate cl 0)

/-- R589: the commit aborts. -/
def State.wvAbortVote (s : State) (why : WvReason) : State :=
  let s1 := ((upTo 64).filter (fun cl => (s.reg R.wvScope).getLsbD cl)).foldl State.unpark s
  let s2 : State := { s1 with wv := { s1.wv with cand := none, engines := [] } }
  (((s2.setNext 0).setWvState 0).setFld R.wvStat F.wvStat_reason why.code).count R.wvCntCommit F.wvCntCommit_aborts 1
    |>.raise 0 33

/-- The effect of ABORT (R581, R588). -/
def State.wvAbort (s : State) : State :=
  match s.wvState with
  | 2 =>
    let s1 : State := { s with wv := { s.wv with cand := none } }
    ((s1.setNext 0).setWvState 0).setFld R.wvStat F.wvStat_reason WvReason.cmdAbort.code
  | 3 => s.wvAbortVote .cmdAbort
  | 4 => s.setFld R.wvStat F.wvStat_cmdRefused 1
  | 5 => s.setFld R.wvStat F.wvStat_cmdRefused 1
  | _ => s

/-- R586: a parking cluster cleans the ways that its L2 will give to tile memory, and keeps the lines. -/
def State.parkClean (s : State) (cl : Nat) : State :=
  match s.wv.cand.bind (fun im => im.conf.find? (fun e => decide (e.1 = cl))) with
  | none => s
  | some e =>
    let t := bits e.2.engine.toNat 44 3
    if t ≤ s.fld (R.l2Ctrl cl) F.l2Ctrl_tilePairs then s
    else ((s.heldBy cl).filter (fun x => decide (16 - 2 * t ≤ x.2.way))).foldl (fun (u : State) x => u.leafClean cl x.1) s

/-- A member's bit is set. -/
def State.setVote (s0 : State) (v : Voter) : State :=
  let s := match v with | .cluster cl => s0.parkClean cl.val | .se _ => s0
  match v with
  | .cluster cl => (s.setReg R.wvVote (s.reg R.wvVote ||| BitVec.twoPow 64 cl.val)).setCstate cl.val 2
  | .se e => s.setReg (R.wvSeWait (e.ix / 64)) (s.reg (R.wvSeWait (e.ix / 64)) ||| BitVec.twoPow 64 (e.ix % 64))

/-- Whether a voter belongs to the vote set. -/
def State.inVote (s : State) : Voter → Bool
  | .cluster cl => (s.reg R.wvScope).getLsbD cl.val
  | .se e => s.wv.engines.contains e.ix

/-- Whether a voter has reported. -/
def State.hasVoted (s : State) : Voter → Bool
  | .cluster cl => (s.reg R.wvVote).getLsbD cl.val
  | .se e => s.seVoted e.ix

/-- Whether a voter is parked or ready. -/
def State.voterReady (s : State) (im : Image) : Voter → Bool
  | .cluster cl => s.clParked im cl.val
  | .se e => s.seReady e

/-- VOTE_REPORT (R587 step 2, R588): a report that comes after the deadline's tick has lost the race. -/
def wvReport (v : Voter) (s : State) : State :=
  match s.wvState, s.wv.cand with
  | 3, some im =>
    if !s.inVote v || s.hasVoted v || !s.voterReady im v then s.answer .refused
    else if s.wv.deadline < s.tick then
      ((s.wvAbortVote .timeout).count R.wvCntFence F.wvCntFence_lateVotes 1).answer .ok
    else (s.setVote v).voteCheck.answer .ok
  | 0, _ =>
    if s.fld R.wvStat F.wvStat_reason = WvReason.timeout.code ∧ s.inVote v ∧ !s.hasVoted v then
      (s.count R.wvCntFence F.wvCntFence_lateVotes 1).answer .ok
    else s.answer .refused
  | _, _ => s.answer .refused

/-- VOTE_DEADLINE (R588): the deadline wins. -/
def wvDeadline (s : State) : State :=
  if s.wvState = 3 then ((s.until s.wv.deadline).wvAbortVote .timeout).answer .ok else s.answer .refused

/-! ## Applying (R575, R577, R662) -/

/-- R436, R664: Onyx zeroizes a range on every die in service, under its owners' keys or a key it names. -/
def State.zeroAll (s : State) (r : Rng) (named : Option Nat) : State :=
  let s1 := s.audit 0x0015 0 0 (Word.of r.1) (Word.of (r.2 / 2 ^ 21))
  let s2 := s1.eachCd (fun t n => (t.zeroStart n r.1 (r.1 + r.2) named).zeroEnd n)
  s2.audit 0x0015 0 0 (Word.of r.1) (Word.of (r.2 / 2 ^ 21))

/-- The registers of a PART section are written. -/
def State.applyPartRegs (s : State) (q : PartSect) : State :=
  let s1 := (upTo 8).foldl (fun (t : State) p =>
    let put (x : Word) : Word := F.mcPart_enable.set (b2n (q.enable.getD p false)) (F.mcPart_class.set (b2n (q.cls.getD p false)) x)
    let t1 := t.eachCd (fun u n => u.setReg (R.mcPart n p) (put (u.reg (R.mcPart n p))))
    t1.setPk (R.mcPart 0 p) (put (t1.pk (R.mcPart 0 p)))) s
  let s2 := (upTo 32).foldl (fun (t : State) i =>
    (t.broadcast (fun n => R.rangeBase n i) (q.ranges.getD (2 * i) 0)).broadcast (fun n => R.rangeLimit n i) (q.ranges.getD (2 * i + 1) 0)) s1
  (upTo 136).foldl (fun (t : State) j =>
    let e := seRefOf j
    if t.up e.site then t.setFld e.ctrl F.seCtrl_part (q.sePart.getD j 0) else t) s2

/-- R576, R593: what a PART section releases, with the old owners. -/
def freedBy (cur new : List OwnedRange) (dies : List Nat) : List FreedRange :=
  (intervalsOf (cur ++ new) []).filterMap (fun i =>
    match ownedBy cur i.1, ownedBy new i.1 with
    | some o, none => some ⟨i.1, i.1 + i.2, o.1, dies, []⟩
    | _, _ => none)

/-- R587 step 4: a PART section is applied, with its keys; at epoch 0 changed blocks are zeroized. -/
def State.applyPart (s : State) (q : PartSect) : State :=
  let first := decide (s.fld R.wvEpoch F.wvEpoch_epoch = 0)
  let cur := s.ranges
  let new := rangesIn q.ranges
  let was (p : Nat) : Bool := decide (F.mcPart_enable.get (s.pk (R.mcPart 0 p)) = 1)
  let on (p : Nat) : Bool := q.enable.getD p false
  let s1 := s.applyPartRegs q
  let s2 := ((upTo 8).filter (fun p => on p && (!was p || (first && decide (p ≠ 0))))).foldl State.loadKey s1
  let off := (upTo 8).filter (fun p => was p && !on p)
  let dies := (upTo 8).filter s2.cdUp
  if first then
    let changed := (intervalsOf (cur ++ new) []).filter (fun i => decide (ownedBy cur i.1 ≠ ownedBy new i.1))
    let s3 := changed.foldl (fun (t : State) i =>
      t.zeroAll i (match ownedBy new i.1, ownedBy cur i.1 with | none, some o => some o.1 | _, _ => none)) s2
    { s3 with wv := { s3.wv with disabled := off } }
  else { s2 with wv := { s2.wv with disabled := off, freed := s2.wv.freed ++ freedBy cur new dies } }

/-- R577: a REGU section is applied. -/
def State.applyRegu (s : State) (ws : List Word) : State :=
  (upTo 128).foldl (fun (t : State) j =>
    let a := R.mcReg (j / 16) (j / 8 % 2) (j % 8)
    let w := ws.getD j 0
    (if t.cdUp (j / 16) then t.setReg a w else t).setPk a w) s

/-- APPLY_DONE (R587 steps 4 and 5). -/
def wvApply (s : State) : State :=
  match s.wvState, s.wv.cand with
  | 4, some im =>
    -- the zeroization of epoch 0 has to find the engines free
    if s.fld R.wvEpoch F.wvEpoch_epoch = 0 ∧ im.part.isSome ∧ !s.zero.isEmpty then s.answer .held else
    let s1 := match im.part with | some q => s.applyPart q | none => s
    let s2 := match im.regu with | some ws => s1.applyRegu ws | none => s1
    let e := s.fld R.wvEpoch F.wvEpoch_next
    let s3 := (((s2.setWvState 5).setNext 0).setFld R.wvEpoch F.wvEpoch_epoch e).setMeas 6 im.digest
    let s4 := (upTo 6).foldl (fun (t : State) i => t.setReg (R.wvDigest i) (Word.of (ofBytes ((im.digest.drop (8 * i)).take 8)))) s3
    let coming := (upTo 64).filter (fun cl => s4.cdUp (cl / 8))
    let s5 := coming.foldl (fun (t : State) cl => if im.scope.getLsbD cl then t.setCstate cl 3 else t) s4
    ({ s5 with wv := { s5.wv with coming := coming } } : State).answer .ok
  | _, _ => s.answer .refused

/-! ## The swap -/

/-- R568, R569, R570: a core takes the ENGINE fields, its seed and the tables. -/
def State.installCore (s : State) (k : ClConf) (c : Nat) : State :=
  let w := k.engine.toNat
  let ts := R.tsCtrl c
  let s1 := ((s.setFld (R.mxCtrl c) F.mxCtrl_srThresh (bits w 0 32)).setFld (R.mxCtrl c) F.mxCtrl_srForceRne (bits w 32 1)).setFld
    (R.veCtrl c) F.veCtrl_srForceRne (bits w 33 1)
  let s2 := ((((s1.setFld (R.nsCtrl c) F.nsCtrl_action (bits w 34 2)).setFld ts F.tsCtrl_k (bits w 36 5)).setFld
    ts F.tsCtrl_enable (bits w 41 1)).setFld ts F.tsCtrl_warnInt (bits w 42 1)).setFld ts F.tsCtrl_alarmInt (bits w 43 1)
  let s3 := ((s2.setFld (R.tsThr c) F.tsThr_warn (k.thresholds.toNat % 2 ^ 32)).setFld (R.tsThr c) F.tsThr_alarm
    (k.thresholds.toNat / 2 ^ 32)).setReg (R.srSeed c) (k.seeds.getD (c % 16) 0)
  let s4 := s3.setReg (R.srTestOut c) (Word.of (srDraw (s3.reg (R.srSeed c)) (s3.reg (R.srTestK1 c)) (s3.reg (R.srTestK2 c))))
  let y : CoreSt := { s4.core c with tbl := [], tblLoad := none }
  let put (y : CoreSt) (bank : Bool) : CoreSt :=
    k.tables.foldl (fun (y : CoreSt) t => t.2.zipIdx.foldl (fun (y : CoreSt) e => y.setTblWord bank t.1 e.2 e.1) y) y
  s4.setCore c (put (put y false) true)

/-- A cluster writes its active configuration into its registers (R590, R591). -/
def State.installConf (s : State) (cl : Nat) : State :=
  let k := s.conf cl
  let s1 := (upTo 128).foldl (fun (t : State) j => t.setReg (R.route cl j) (k.routes.getD j 0)) s
  let s2 := (upTo 16).foldl (fun (t : State) m => t.installCore k (cl * 16 + m)) s1
  (s2.setFld (R.l2Ctrl cl) F.l2Ctrl_tileHost (bits k.engine.toNat 47 1)).tileChange cl (bits k.engine.toNat 44 3)

/-- A group's waits at objects and barriers are given up. -/
def State.dropWaits (s : State) (g : GroupRef) : State :=
  let x := s.grp g
  let b := s.block g.core.val x.unit
  let s1 := match x.wait with
    | .barrier _ => s.setBlock g.core.val x.unit { b with waiting := b.waiting.filter (fun w => decide (w.slot ≠ g.slot.val)) }
    | _ => s
  { s1 with sync := s1.sync.map (fun e => (e.1, { e.2 with queue := e.2.queue.filter (fun w => decide (w.who ≠ .group g)) })) }

/-- R590: what becomes of a resident group at the swap. -/
def State.swapGroup (s : State) (old : ClConf) (cl : Nat) (g : GroupRef) : State :=
  let x := s.grp g
  let new := s.conf cl
  let go (t : State) (y : Group) : State := t.setGrp g (if y.wait = .parked then { y with wait := .none } else y)
  match new.sched.find? (fun e => decide (e.kind = 2) && decide (e.kernel = x.kernel.toNat) && decide (e.pc * 8 = x.pc.toNat)) with
  | some e =>
    let t := s.dropWaits g
    go t { t.grp g with pc := BitVec.ofNat 48 (e.arg * 8), wait := .none }
  | none =>
    match old.kernels.find? (fun k => decide (k.id = x.kernel.toNat)), new.kernels.find? (fun k => decide (k.id = x.kernel.toNat)) with
    | some a, some b => if b.sameShape a then go s x else (s.killGroup g).count R.wvCntRefused F.wvCntRefused_killed 1
    | _, _ => (s.killGroup g).count R.wvCntRefused F.wvCntRefused_killed 1

/-- R590: a cluster that changes its partition gives its lines up and zeroes its tile ways. -/
def State.movePart (s : State) (cl p : Nat) : State :=
  if s.fld (R.l2Stat cl) F.l2Stat_part = p then s
  else
    let s1 := (s.heldBy cl).foldl (fun (t : State) e => t.leafEvict cl e.1) s
    (s1.tileClear cl).setFld (R.l2Stat cl) F.l2Stat_part p

/-- Store the active configuration of a cluster. -/
def State.setConf (s : State) (cl : Nat) (k : ClConf) : State :=
  { s with clConf := Sparse.set (fun _ => {}) s.clConf cl k }

/-- The clusters a TARGET names. -/
def targetsOf (t : Word) : List Nat := (upTo 64).filter (fun cl => t.getLsbD cl)

/-- R607: a launch whose kernel no target cluster holds any longer offers nothing more. -/
def State.markGone (s : State) : State :=
  { s with launches := s.launches.map (fun l =>
      if l.next < l.blocks ∧ (targetsOf l.target).all (fun cl => !(s.conf cl).kernels.any (fun k => decide (k.id = l.kernel))) then
        { l with gone := true }
      else l) }

/-- R590: the swap of a cluster in SCOPE. -/
def State.swap (s : State) (cl : Nat) (new : ClConf) : State :=
  let old := s.conf cl
  let s1 := (s.movePart cl new.part).setConf cl new
  let s2 := s1.installConf cl
  ((s2.groupsOf cl).foldl (fun (t : State) g => t.swapGroup old cl (groupAt g.1 g.2.1)) s2).markGone

/-- R593: the engines of the dies go over the freed ranges in turn; at the end of a range, the key of a disabled
partition with nothing left is erased. -/
def State.zeroFreed : List FreedRange → State → State
  | [], s => ({ s with wv := { s.wv with freed := [] } } : State).setFld R.wvStat F.wvStat_zeroPending 0
  | r :: rest, s =>
    let ready := r.left.filter (fun n => s.cdUp n && s.zero.all (fun z => decide (z.cd ≠ n)))
    let later := r.left.filter (fun n => s.cdUp n && !s.zero.all (fun z => decide (z.cd ≠ n)))
    let going := (r.going.filter s.cdUp) ++ ready
    if going.isEmpty ∧ later.isEmpty then
      let s1 := s.audit 0x0015 0 0 (Word.of r.lo) (Word.of ((r.hi - r.lo) / 2 ^ 21))
      let s2 := if rest.any (fun f => decide (f.owner = r.owner)) || decide (F.mcPart_enable.get (s.pk (R.mcPart 0 r.owner)) = 1) then s1
        else s1.eraseKey r.owner
      State.zeroFreed rest s2
    else
      let s1 := ready.foldl (fun (t : State) n => t.zeroStart n r.lo r.hi (some r.owner)) s
      { s1 with wv := { s1.wv with freed := { r with left := later, going := going } :: rest } }

/-- R593: zeroization of the freed ranges starts. -/
def State.zeroBegin (s : State) : State :=
  if s.wv.freed.isEmpty then s
  else
    let s1 := s.wv.freed.foldl (fun (t : State) r => t.audit 0x0015 0 0 (Word.of r.lo) (Word.of ((r.hi - r.lo) / 2 ^ 21))) s
    State.zeroFreed s1.wv.freed (s1.setFld R.wvStat F.wvStat_zeroPending 1)

/-- A die's engine has ended a run: Onyx goes on with the freed ranges. -/
def State.zeroDone (s : State) (cd : Nat) : State :=
  match s.wv.freed with
  | [] => s
  | r :: rest => State.zeroFreed ({ r with going := r.going.filter (fun n => decide (n ≠ cd)) } :: rest) s

/-- R587 step 7, R593: the commit is complete. -/
def State.wvFinish (s : State) : State :=
  match s.wv.cand with
  | none => s
  | some im =>
    let s1 := im.conf.foldl (fun (t : State) e => t.setConf e.1 e.2) s
    let s2 := match im.part with
      | some q => (upTo 64).foldl (fun (t : State) cl => t.setConf cl { t.conf cl with part := q.clusters.getD cl 0 }) s1
      | none => s1
    let s3 : State := { s2 with wv := { s2.wv with cand := none, engines := [], coming := [] } }
    let s4 := (s3.setWvState 0).count R.wvCntCommit F.wvCntCommit_commits 1
    let s5 := s4.audit 0x0013 0 0 (Word.of (s4.fld R.wvEpoch F.wvEpoch_epoch)) (digestLow im.digest)
    let gone := s5.wv.disabled.filter (fun p => !s5.wv.freed.any (fun f => decide (f.owner = p)))
    let s6 := gone.foldl State.eraseKey s5
    (({ s6 with wv := { s6.wv with disabled := [] } } : State).raise 0 32).zeroBegin

/-- A cluster takes the new epoch (R582). -/
def State.takeEpoch (s : State) (cl : Nat) : State :=
  (s.setFld (R.wvClEpoch cl) F.wvClEpoch_epoch (s.fld R.wvEpoch F.wvEpoch_epoch)).setCstate cl 0

/-- EPOCH_ARRIVAL (R587 steps 5 to 7, R590). -/
def wvArrival (cl : Nat) (s : State) : State :=
  match s.wvState, s.wv.cand with
  | 5, some im =>
    if !s.wv.coming.contains cl then s.answer .refused
    else
      let part := match im.part with | some q => q.clusters.getD cl 0 | none => s.fld (R.l2Stat cl) F.l2Stat_part
      let s1 := match im.conf.find? (fun e => decide (e.1 = cl)) with
        | some e => s.swap cl e.2
        | none => s.movePart cl part
      let s2 := (s1.takeEpoch cl).tileRetry
      let left := s2.wv.coming.filter (fun x => decide (x ≠ cl))
      let s3 : State := { s2 with wv := { s2.wv with coming := left } }
      (if left.isEmpty then s3.wvFinish else s3).answer .ok
  | _, _ => s.answer .refused

/-! ## Dies that leave and return (R591) -/

/-- R591: a die that leaves service leaves the vote set, and its clusters are out of service. -/
def State.wvDieGone (s : State) (cd : Nat) : State :=
  let mine (cl : Nat) : Bool := decide (cl / 8 = cd)
  let s1 := (upTo 8).foldl (fun (t : State) k => t.setReg (R.wvClEpoch (cd * 8 + k)) (F.wvClEpoch_cstate.set 4 0)) s
  let scope := s1.reg R.wvScope &&& ~~~ Word.of (0xFF * 2 ^ (8 * cd))
  let s2 : State := { s1 with wv := { s1.wv with
    engines := s1.wv.engines.filter (fun j => !(decide (j < 128) && decide (j / 16 = cd)))
    coming := s1.wv.coming.filter (fun cl => !mine cl) } }
  match s.wvState with
  | 3 => (s2.setReg R.wvScope scope).voteCheck
  | 5 => if s2.wv.coming.isEmpty then s2.wvFinish else s2
  | _ => s2

/-- R591: the clusters of a die that returns take the active configuration and EPOCH from the store. -/
def State.wvDieBack (s : State) (cd : Nat) : State :=
  (upTo 8).foldl (fun (t : State) k =>
    let cl := cd * 8 + k
    ((t.setFld (R.l2Stat cl) F.l2Stat_part (t.conf cl).part).installConf cl).takeEpoch cl) s

/-! ## Meanings -/

/-- IMAGE_STAGED (R579). -/
def execImageStaged (s : State) : Out := s.run fun s => wvLoad s
/-- VOTE_REPORT (R587). -/
def execVoteReport (v : Voter) (s : State) : Out := s.run fun s => wvReport v s
/-- VOTE_DEADLINE (R588). -/
def execVoteDeadline (s : State) : Out := s.run fun s => wvDeadline s
/-- APPLY_DONE (R587). -/
def execApplyDone (s : State) : Out := s.run fun s => wvApply s
/-- EPOCH_ARRIVAL (R590). -/
def execEpochArrival (cl : ClIx) (s : State) : Out := s.run fun s => wvArrival cl.val s

end Sys2Proof.Machine
end

