-- ==== Sys2Proof/Machine/HostIf.lean ====
section
/-!
DEFINITION. Command rings: doorbells, commands, launches and the admission of blocks, and completions (R603 to R610,
R641).
-/

namespace Sys2Proof.Machine

/-! ## Rings -/

/-- The fault unit of a ring. -/
def ringUnit (r : Nat) : Nat := 2048 + r

/-- The wait of a ring at a counter: 0 none, 1 waiting, otherwise 2 plus the status. -/
def State.ringWaits (s : State) (r : Nat) : Nat := Sparse.get (fun _ => 0) s.ringWait r

/-- Store the wait of a ring. -/
def State.setRingWait (s : State) (r v : Nat) : State := { s with ringWait := Sparse.set (fun _ => 0) s.ringWait r v }

/-- R643: STATE of a ring follows the ring. -/
def State.ringShow (s : State) (r : Nat) : State :=
  let a := R.ringCtrl r
  let q := (s.ring r).queue
  let st := if !s.flag a F.ringCtrl_enable then 0
    else if q.any (fun c => c.waits) then 3
    else if !q.isEmpty then 2
    else if s.flag a F.ringCtrl_pause then 4 else 1
  s.setFld a F.ringCtrl_state st

/-- Store a ring and show it. -/
def State.putRing (s : State) (r : Nat) (k : RingSt) : State := (s.setRing r k).ringShow r

/-- R527, R604: a write of PROD. -/
def State.ringDoorbell (s : State) (r prod : Nat) : State :=
  let fetch := s.fld (R.ringCtrl r) F.ringCtrl_fetch
  let size := 2 ^ s.fld (R.ringCtrl r) F.ringCtrl_sizeLog2
  let old := Sparse.get (fun _ => []) s.bells r
  let s : State := { s with bells := Sparse.set (fun _ => []) s.bells r ((s.tick :: old).take 9) }
  if (prod + 2 ^ 32 - fetch) % 2 ^ 32 ≤ size then s.setFld (R.hostDb r) F.hostDb_prod prod
  else s.setFld (R.ringCtrl r) F.ringCtrl_badDoorbell 1

/-! ## Fields of a command (R605) -/

/-- Word `i` of a command. -/
def RingCmd.w (c : RingCmd) (i : Nat) : Nat := (c.words.getD i 0).toNat
/-- OP. -/
def RingCmd.op (c : RingCmd) : Nat := bits (c.w 0) 0 4
/-- BARRIER; SIGNAL and WAIT act as barriers (R608). -/
def RingCmd.barrier (c : RingCmd) : Bool := decide (bits (c.w 0) 4 1 = 1) || decide (c.op = 2) || decide (c.op = 3)
/-- COMP. -/
def RingCmd.comp (c : RingCmd) : Bool := decide (bits (c.w 0) 5 1 = 1)
/-- SIG. -/
def RingCmd.sig (c : RingCmd) : Bool := decide (bits (c.w 0) 6 1 = 1)
/-- IRQ. -/
def RingCmd.irq (c : RingCmd) : Bool := decide (bits (c.w 0) 7 1 = 1)
/-- DCHECK of a LAUNCH. -/
def RingCmd.dcheck (c : RingCmd) : Bool := decide (bits (c.w 0) 8 1 = 1) && decide (c.op = 1)
/-- TAG. -/
def RingCmd.tag (c : RingCmd) : Nat := bits (c.w 0) 32 32
/-- OBJ. -/
def RingCmd.obj (c : RingCmd) : Nat := bits (c.w 4) 0 14
/-- AMOUNT. -/
def RingCmd.amount (c : RingCmd) : Nat := bits (c.w 4) 32 32
/-- COMP_VA. -/
def RingCmd.compVa (c : RingCmd) : Nat := bits (c.w 5) 0 48

/-- R605, R608, R610: a reserved field or encoding. -/
def RingCmd.bad (c : RingCmd) : Bool :=
  decide (3 < c.op) || decide (bits (c.w 0) 9 7 ≠ 0) || decide (bits (c.w 2) 40 24 ≠ 0) || decide (bits (c.w 4) 14 18 ≠ 0)
    || decide (bits (c.w 5) 48 16 ≠ 0) || decide (bits (c.w 6) 32 32 ≠ 0) || decide (c.w 7 ≠ 0)
    || (c.comp && decide (c.compVa % 16 ≠ 0)) || (decide (c.op = 1) && decide (bits (c.w 2) 0 32 = 0))
    || (c.sig && (decide (c.op = 2) || decide (c.op = 3)))

/-! ## Fetch -/

/-- What a fetch gives: a command, a command that ends with BAD_CMD, or a fault. -/
inductive RingFetch where
  | cmd (c : RingCmd)
  | bad (c : RingCmd)
  | fault
  deriving DecidableEq, Repr

/-- The partition of a ring. -/
def State.ringPart (s : State) (r : Nat) : Nat := s.fld (R.ringCtrl r) F.ringCtrl_part

/-- A ring's fault; a ring with a fault outstanding waits until that one is resolved. -/
def State.ringFault (s : State) (r va : Nat) (acc : XAcc) (f : WalkFault) : State :=
  if (s.unitFault (ringUnit r)).isSome then s.wait
  else
  let ctx := s.fld (R.ringCtrl r) F.ringCtrl_ctx
  s.setUnitFault (ringUnit r) (some ⟨⟨s.ringPart r, ctx, va / 2 ^ 16, acc.code⟩, va, f.cause, f.level, f.hint, f.seq,
    s.tick, 0, .arising⟩)

/-- R603, R734: the processor reads the command at FETCH. A fetch that fails in a way the spec gives no status for
ends the command with BAD_CMD. -/
def State.ringFetch (s : State) (r : Nat) : State × RingFetch :=
  let ctl := s.reg (R.ringCtrl r)
  let fetch := F.ringCtrl_fetch.get ctl
  let va := s.fld (R.ringBase r) F.ringBase_ring * 64 + 64 * (fetch % 2 ^ F.ringCtrl_sizeLog2.get ctl)
  let blank : RingCmd := { idx := fetch, words := [] }
  if (s.ring r).aborted then (s.setRing r { s.ring r with aborted := false }, .bad blank)
  else
    match s.translate 72 none (F.ringCtrl_ctx.get ctl) (some (s.ringPart r)) va .read false with
    | (s1, .fault f) => (s1.ringFault r va .read f, .fault)
    | (s1, .context) => (s1, .bad blank)
    | (s1, .ok pa) =>
      if regionOf pa ≠ .dram then (s1, .bad blank)
      else
        let (s2, a) := s1.uncached 0 (.part (BitVec.ofNat 3 (s1.ringPart r))) (pa / 128) .rdNC false
        match a.st, a.val with
        | .error, _ => (s2, .bad blank)
        | _, some l =>
          if l.poison.getLsbD (pa % 128 / 64) then
            (s2.rasWrite { det 1 6 0 0 1 with consumed := true, arg0 := 7 }, .bad blank)
          else
            let c : RingCmd := { blank with words := wordsOf 8 (bits l.data.toNat (8 * (pa % 128)) 512) }
            (s2, if c.bad then .bad c else .cmd c)
        | _, none => (s2, .bad blank)

/-- R533: whether a ring's fault is of its fetch (`fetch`), or of a completion record. -/
def State.ringFaulted (s : State) (r : Nat) (fetch : Bool) : Bool :=
  match s.unitFault (ringUnit r) with
  | some f => decide (f.key.acc = XAcc.read.code) == fetch
  | none => false

/-- Whether a ring may start a command. A fault of a completion record stops no fetch. -/
def State.ringRuns (s : State) (r : Nat) : Bool :=
  let a := R.ringCtrl r
  s.flag a F.ringCtrl_enable && !s.flag a F.ringCtrl_pause && !s.ringFaulted r true
    && decide (s.fld a F.ringCtrl_fetch ≠ s.fld (R.hostDb r) F.hostDb_prod) && !(s.ring r).queue.any (fun c => c.waits)

/-- A command starts: it joins the ring's commands in progress and FETCH advances. -/
def State.ringStart (s : State) (r : Nat) (c : RingCmd) : State :=
  let k := s.ring r
  ((s.setFld (R.ringCtrl r) F.ringCtrl_fetch (c.idx + 1)).putRing r { k with queue := k.queue ++ [c] }).answer .ok

/-- R603 to R610: the next command of a ring starts, when it is of operation `op`. -/
def ringCommand (r : BitVec 6) (op : Nat) (go : RingCmd → State → State) (s : State) : State :=
  s.commit fun s =>
    let n := r.toNat
    if !s.ringRuns n then s.answer .refused
    else
      match s.ringFetch n with
      | (s1, .fault) => s1.answer .ok
      | (s1, .bad c) => s1.ringStart n { c with status := some 2 }
      | (s1, .cmd c) =>
        if c.op ≠ op ∨ (c.barrier && !(s.ring n).queue.isEmpty) then s.answer .refused
        else go c s1

/-! ## Launches -/

/-- The kernel of an id in the kernel set of a cluster that is in service. -/
def State.kernelAt (s : State) (cl id : Nat) : Option Kernel :=
  if s.cdUp (cl / 8) then (s.conf cl).kernels.find? (fun k => decide (k.id = id)) else none

/-- R504: whether a context is valid with a partition. -/
def State.ctxValid (s : State) (ctx part : Nat) : State × Bool :=
  if !s.flag R.ctxBase F.ctxBase_enable then (s, false)
  else match s.ctxEntry 72 ctx false with
    | (s1, .ent e) => (s1, decide (e.part = part))
    | (s1, _) => (s1, false)

/-- R606 step 1: a LAUNCH is checked; it is offered, or ends with BAD_LAUNCH. -/
def State.launchStart (s : State) (r : Nat) (c : RingCmd) : State :=
  let target : Word := Word.of (c.w 1)
  let kernel := bits (c.w 0) 16 16
  let ctx := bits (c.w 2) 32 8
  let part := s.ringPart r
  let cls := targetsOf target
  let (s1, ok) := s.ctxValid ctx part
  if ok && cls.all (fun cl => (s1.kernelAt cl kernel).isSome && decide (s1.fld (R.l2Stat cl) F.l2Stat_part = part)) then
    let l : Launch := ⟨BitVec.ofNat 6 r, BitVec.ofNat 32 c.idx, kernel, ctx, Word.of (c.w 3), target, bits (c.w 2) 0 32, 0, none,
      false, 0⟩
    ({ s1 with launches := s1.launches ++ [l] } : State).ringStart r c
  else s1.ringStart r { c with status := some 3 }

/-- R568, R606: the cores a launch offers its blocks to, in order. -/
def State.coresFor (s : State) (l : Launch) : List Nat :=
  (targetsOf l.target).flatMap (fun cl =>
    if (s.kernelAt cl l.kernel).isSome then
      ((upTo 16).filter (fun m => (s.conf cl).engine.getLsbD (48 + m))).map (fun m => cl * 16 + m)
    else [])

/-- The resident groups of a core. -/
def CoreSt.residents (k : CoreSt) : List Group := (k.groups.filter (fun e => e.2.resident)).map Prod.snd

/-- R157: the registers of the lanes that the groups covering a slice hold, and how many groups cover it. -/
def sliceLoad (gs : List Group) (slice : Nat) : Nat × Nat :=
  let on := gs.filter (fun x => decide (x.slice ≤ slice) && decide (slice < x.slice + x.width / 8))
  ((on.map (fun x => x.regs)).sum, on.length)

/-- R156, R157: the first slices at which one more group of a kernel fits. -/
def fitSlices (gs : List Group) (k : Kernel) : List Nat :=
  let n := k.width / 8
  (upTo 8).filter (fun i => decide (i % n = 0) && (upTo n).all (fun j =>
    let (regs, cnt) := sliceLoad gs (i + j)
    decide (regs + k.regs ≤ 1024) && decide (cnt < 32)))

/-- R156, R157: places for `n` more groups of a kernel, each taken where the free values say among those that fit. -/
def placeGroups (k : Kernel) : Nat → Nat → List Group → Option (List Nat)
  | 0, _, _ => some []
  | n + 1, drawn, gs =>
    let fits := fitSlices gs k
    match fits with
    | [] => none
    | _ =>
      let i := fits.getD (Config.free drawn % fits.length) 0
      (placeGroups k n (drawn + 1) (({ width := k.width, regs := k.regs, slice := i } : Group) :: gs)).map (fun l => i :: l)

/-- R157: whether a core has room for the groups, threads, uniform registers and barrier unit of one more block. -/
def CoreSt.hasRoom (c : CoreSt) (k : Kernel) : Bool :=
  let gs := c.residents
  decide (gs.length + k.block ≤ 256) && decide ((gs.map (fun x => x.width)).sum + k.block * k.width ≤ 2048)
    && decide ((gs.map (fun x => x.unif)).sum + k.block * k.unif ≤ 2048)
    && (upTo 16).any (fun u => !(Sparse.get (fun _ => {}) c.blocks u).used)

/-- R157, R586: the slices at which a core admits a block of a launch. -/
def State.admits (s : State) (l : Launch) (c : Nat) : Option (Kernel × List Nat) :=
  match s.kernelAt (coreCl c) l.kernel with
  | none => none
  | some k =>
    if (s.core c).hasRoom k && !s.parking c && s.coreAwake c then
      (placeGroups k k.block s.drawn (s.core c).residents).map (fun l => (k, l))
    else none

/-- The entries of a list after the first one equal to x, then those up to it. -/
def rotateAfter (x : Option Nat) (l : List Nat) : List Nat :=
  match x with
  | none => l
  | some y =>
    let i := (l.findIdx (fun z => decide (z = y))) + 1
    if l.length < i then l else l.drop i ++ l.take i

/-- R606 step 2: the core that takes the next block of a launch. -/
def State.taker (s : State) (l : Launch) : Option Nat :=
  (rotateAfter l.last (s.coresFor l)).find? (fun c => (s.admits l c).isSome)

/-- R606 step 3: a group as it starts. -/
def Launch.group (l : Launch) (k : Kernel) (unit index slice : Nat) : Group :=
  let lanes : BitVec 64 := BitVec.ofNat 64 (2 ^ k.width - 1)
  let x : Group := {
    resident := true, ring := l.ring, launch := l.idx, kernel := BitVec.ofNat 16 k.id, ctx := BitVec.ofNat 8 l.ctx
    unit := unit, blockNo := l.next, index := index, width := k.width, regs := k.regs, unif := k.unif
    prio := BitVec.ofNat 3 k.prio, slice := slice, pc := BitVec.ofNat 48 k.entry, active := lanes, full := lanes }
  (x.setUni 0 l.arg).setUni 1 (Word.of (l.next + index * 2 ^ 32))

/-- The slots of a core that are free, in order. -/
def CoreSt.freeSlots (c : CoreSt) : List Nat := (upTo 256).filter (fun i => !(c.grp i).resident)

/-- R606: a block enters a core: each group takes a free slot and the block a barrier unit, of free choice. -/
def State.enterBlock (s : State) (l : Launch) (c : Nat) (k : Kernel) (slices : List Nat) : State :=
  let s0 := s.drawN k.block
  let core := s0.core c
  let units := (upTo 16).filter (fun u => !(Sparse.get (fun _ => {}) core.blocks u).used)
  let unit := units.getD (s0.free % units.length) 0
  let s1 := s0.draw
  let put (t : State × List Nat) (e : Nat × Nat) : State × List Nat :=
    let free := (t.1.core c).freeSlots
    let slot := free.getD (t.1.free % free.length) 0
    (t.1.draw.setGrp (groupAt c slot) (l.group k unit e.2 e.1), t.2 ++ [slot])
  let (s2, slots) := slices.zipIdx.foldl put (s1, [])
  s2.setBlock c unit { used := true, ring := l.ring, launch := l.idx, blockNo := l.next, members := slots }

/-- R157: the first launch, in the order of launching, that offers a waiting block to a core. -/
def State.offered (s : State) (c : Nat) : Option Launch :=
  s.launches.find? (fun l => decide (l.next < l.blocks) && !l.gone && (s.coresFor l).contains c)

/-- BLOCK_ADMIT (R157, R606). -/
def blockAdmit (c : Nat) (s : State) : State :=
  match s.offered c with
  | none => s.answer .refused
  | some l =>
    if s.taker l ≠ some c ∨ !s.up (coreSite c) then s.answer .refused
    else match s.admits l c with
    | none => s.answer .refused
    | some (k, slices) =>
      let s1 := s.enterBlock l c k slices
      let next (x : Launch) : Launch := if x.ring = l.ring ∧ x.idx = l.idx then { x with next := x.next + 1, last := some c } else x
      ({ s1 with launches := s1.launches.map next } : State).answer .ok

/-- Whether a launch has a resident group. -/
def State.hasGroup (s : State) (l : Launch) : Bool :=
  s.cores.any (fun e => e.2.groups.any (fun x => x.2.resident && decide (x.2.ring = l.ring) && decide (x.2.launch = l.idx)))

/-! ## NOP, SIGNAL and WAIT -/

/-- NOP (R605). -/
def cmdNop (r : BitVec 6) (s : State) : State :=
  ringCommand r 0 (fun c s => s.ringStart r.toNat { c with status := some 0 }) s

/-- LAUNCH (R606). -/
def cmdLaunch (r : BitVec 6) (s : State) : State := ringCommand r 1 (fun c s => s.launchStart r.toNat c) s

/-- SIGNAL (R608, R610). -/
def cmdSignalRun (r : BitVec 6) (s : State) : State :=
  ringCommand r 2 (fun c s =>
    let (s1, st) := s.signal c.obj (some (s.ringPart r.toNat)) c.amount
    s1.ringStart r.toNat { c with status := some (if st = .ok then 0 else 8) }) s

/-- WAIT (R608). -/
def cmdWaitRun (r : BitVec 6) (s : State) : State :=
  ringCommand r 3 (fun c s =>
    let n := r.toNat
    let s1 := (s.setRingWait n 1).waitObj c.obj (some (s.ringPart n)) (.ring r) c.amount (bits (c.w 6) 0 32)
    s1.ringStart n { c with waits := true }) s

/-! ## Completion -/

/-- R641: a duplex record is captured while none stands. -/
def State.dcCapture (s : State) (late : Bool) (ring : BitVec 6) (idx tag : Nat) (mine theirs : Word) : State :=
  if (s.reg (R.dcRec 0)).getLsbD 0 then s
  else
    ((((s.setReg (R.dcRec 0) (Word.of (1 + b2n late * 2 + ring.toNat * 4 + idx * 2 ^ 8))).setReg (R.dcRec 1) (Word.of tag)).setReg
      (R.dcRec 2) mine).setReg (R.dcRec 3) theirs).raise 0 41

/-- R641: a local digest meets the partner's. -/
def State.dcCompare (s : State) (c : RingCmd) (ring : BitVec 6) (mine theirs : Word) : State × Nat :=
  let s1 := s.count R.twnCntDc F.twnCntDc_compared 1
  if mine = theirs then (s1, 0)
  else ((s1.count R.twnCntDc F.twnCntDc_mismatches 1).dcCapture false ring c.idx c.tag mine theirs, 6)

/-- The launch of a command. -/
def State.launchOf (s : State) (ring : BitVec 6) (idx : Nat) : Option Launch :=
  s.launches.find? (fun l => decide (l.ring = ring) && decide (l.idx.toNat = idx))

/-- How the command at the front of a ring stands. -/
inductive CmdEnd where
  | running
  | asks (c : RingCmd)
  | done (status : Nat)
  deriving DecidableEq, Repr

/-- R606 to R610, R641: whether a command has completed, and its status; a checked launch in DUPLEX first asks for the
partner's digest. The status of a WAIT that ended in another way than R610 names is a free value. -/
def State.cmdEnd (s : State) (ring : BitVec 6) (c : RingCmd) : CmdEnd :=
  match c.status with
  | some n => .done n
  | none =>
    if c.waits then
      match s.ringWaits ring.toNat with
      | 0 => .running
      | 1 => .running
      | 2 => .done 0
      | 3 => .done 1
      | _ => .done (s.free % 16)
    else if c.op = 1 then
      match s.launchOf ring c.idx with
      | none => .running
      | some l =>
        if (l.next < l.blocks ∧ !l.gone) ∨ s.hasGroup l then .running
        else if s.killed.contains (ring, l.idx) then .done 5
        else if l.gone ∧ l.next < l.blocks then .done 4
        else if c.dcheck ∧ s.fld R.twnCtrl F.twnCtrl_mode = 2 then
          match c.dc with
          | some _ => .running
          | none => .asks { c with dc := some (l.sum, s.tick + 1000 * s.fld R.dcCtrl F.dcCtrl_dcTimeoutUs) }
        else .done 0
    else .done 0

/-- R610: the image of a completion. -/
def RingCmd.record (c : RingCmd) (ring : BitVec 6) (status tick : Nat) : List Byte :=
  toBytes 8 (1 + status * 2 + ring.toNat * 2 ^ 5 + c.tag * 2 ^ 32) ++ toBytes 8 (c.idx + tick % 2 ^ 32 * 2 ^ 32)

/-- R609 step 1: the completion is written; `true` says that a fault has to be resolved first. -/
def State.ringRecord (s : State) (ring : BitVec 6) (c : RingCmd) (status : Nat) : State × Bool :=
  let r := ring.toNat
  if !c.comp ∨ c.compVa % 16 ≠ 0 then (s, false)
  else if (s.ring r).aborted then (s.setRing r { s.ring r with aborted := false }, false)
  else
    match s.translate 72 none (s.fld (R.ringCtrl r) F.ringCtrl_ctx) (some (s.ringPart r)) c.compVa .write false with
    | (s1, .fault f) => (s1.ringFault r c.compVa .write f, true)
    | (s1, .context) => (s1, false)
    | (s1, .ok pa) =>
      if regionOf pa = .dram then
        ((s1.uncached 0 (.part (BitVec.ofNat 3 (s1.ringPart r))) (pa / 128)
          (.wrP (placed pa (c.record ring status s1.tick)) (spanOf pa 16)) true).1, false)
      else (s1, false)

/-- R609: a completed command at the front of its ring writes its completion, signals, interrupts and leaves. -/
def State.cmdDone (s : State) (ring : BitVec 6) (c : RingCmd) (status : Nat) : State :=
  let r := ring.toNat
  match s.ringRecord ring c status with
  | (s1, true) => s1
  | (s1, false) =>
    let s2 := if c.sig ∧ c.op < 2 then (s1.signal c.obj (some (s1.ringPart r)) c.amount).1 else s1
    let s3 := if c.irq then s2.msiEntry (R.ringMsiAddr r) (R.ringMsiCtrl r) true else s2
    let k := s3.ring r
    let s4 : State := { s3 with
      launches := s3.launches.filter (fun l => !(decide (l.ring = ring) && decide (l.idx.toNat = c.idx)))
      killed := s3.killed.filter (fun e => decide (e ≠ (ring, BitVec.ofNat 32 c.idx))) }
    let s5 := if c.waits then s4.setRingWait r 0 else s4
    let s6 := s5.putRing r { k with queue := k.queue.drop 1 }
    (s6.setFld R.hostCntCmd F.hostCntCmd_commands (s6.fld R.hostCntCmd F.hostCntCmd_commands + 1)).setFld (R.hostDb r)
      F.hostDb_done (c.idx + 1)

/-- COMMAND_COMPLETE (R609, R641). -/
def commandComplete (ring : BitVec 6) (s : State) : State :=
  s.commit fun s =>
    let r := ring.toNat
    match (s.ring r).queue with
    | [] => s.answer .refused
    | c :: rest =>
      if s.ringFaulted r false then s.answer .refused
      else match s.cmdEnd ring c with
      | .running => s.answer .refused
      | .done n => ((if c.waits then s.draw else s).cmdDone ring c n).answer .ok
      | .asks c1 =>
        let mine := (c1.dc.getD (0, 0)).1
        match s.triples.find? (fun t => decide (t.ring = ring) && decide (t.index.toNat = c.idx)) with
        | some t =>
          let (s1, n) := s.dcCompare c ring mine t.digest
          (({ s1 with triples := s1.triples.filter (fun x => decide (x ≠ t)) } : State).cmdDone ring c n).answer .ok
        | none => (s.putRing r { s.ring r with queue := c1 :: rest }).answer .ok

/-- R641: a triple of the partner arrives. -/
def duplexTriple (t : Triple) (s : State) : State :=
  let r := t.ring.toNat
  match s.dcLate.find? (fun l => decide (l.ring = t.ring) && decide (l.idx = t.index)) with
  | some l =>
    (({ s with dcLate := s.dcLate.filter (fun x => decide (x ≠ l)) } : State).count R.twnCntDc F.twnCntDc_compared 1).count
      R.twnCntDc F.twnCntDc_mismatches 1 |>.answer .ok
  | none =>
    match (s.ring r).queue.find? (fun c => decide (c.idx = t.index.toNat) && c.dc.isSome && c.status.isNone) with
    | some c =>
      let (s1, n) := s.dcCompare c t.ring (c.dc.getD (0, 0)).1 t.digest
      let k := s1.ring r
      (s1.putRing r { k with queue := k.queue.map (fun x => if x.idx = c.idx then { x with status := some n } else x) }).answer .ok
    | none => ({ s with triples := s.triples ++ [t] } : State).answer .ok

/-- R641: the duplex wait of a ring's command times out. -/
def dcTimeout (ring : BitVec 6) (s : State) : State :=
  let r := ring.toNat
  match (s.ring r).queue.find? (fun c => c.dc.isSome && c.status.isNone) with
  | none => s.answer .refused
  | some c =>
    let (mine, due) := c.dc.getD (0, 0)
    let k := s.ring r
    let s1 := (s.until due).putRing r { k with queue := k.queue.map (fun x => if x.idx = c.idx then { x with status := some 7 } else x) }
    let s2 := s1.dcCapture true ring c.idx c.tag mine 0
    ({ s2 with dcLate := s2.dcLate ++ [⟨ring, BitVec.ofNat 32 c.idx, mine⟩] } : State).answer .ok

/-! ## Meanings -/

/-- NOP (R605). -/
def execNop (r : BitVec 6) (s : State) : Out := s.run fun s => cmdNop r s
/-- LAUNCH (R606). -/
def execLaunch (r : BitVec 6) (s : State) : Out := s.run fun s => cmdLaunch r s
/-- BLOCK_ADMIT (R606). -/
def execBlockAdmit (c : CoreIx) (s : State) : Out := s.run fun s => blockAdmit c.val s
/-- SIGNAL (R608). -/
def execCmdSignal (r : BitVec 6) (s : State) : Out := s.run fun s => cmdSignalRun r s
/-- WAIT (R608). -/
def execCmdWait (r : BitVec 6) (s : State) : Out := s.run fun s => cmdWaitRun r s
/-- COMMAND_COMPLETE (R609). -/
def execCommandComplete (r : BitVec 6) (s : State) : Out := s.run fun s => commandComplete r s
/-- DUPLEX_TRIPLE (R641). -/
def execDuplexTriple (t : Triple) (s : State) : Out := s.run fun s => duplexTriple t s
/-- DC_TIMEOUT (R641). -/
def execDcTimeout (r : BitVec 6) (s : State) : Out := s.run fun s => dcTimeout r s

end Sys2Proof.Machine
end

