-- ==== Sys2Proof/Machine/Snap.lean ====
section
/-!
DEFINITION. Snapshots of a die's counters, and the package snapshot (R86 to R90).
-/

namespace Sys2Proof.Machine

/-- The snapshot a die has in progress. -/
def State.snap (s : State) (site : Nat) : SnapSt := Sparse.get (fun _ => {}) s.snaps site

/-- Whether a register of a die is a counter. -/
def isCounter (a : Nat) : Bool :=
  match regRow a with
  | some (r, false) => r.counter
  | _ => false

/-- Whether a register is a holding copy. -/
def isHold (a : Nat) : Bool :=
  match regRow a with
  | some (_, true) => true
  | _ => false

/-- R88 step 3: the holding registers of a die take the values of its counters. -/
def State.snapCopy (s : State) (site : Nat) : State :=
  let mine (a : Nat) : Bool := decide (a / 0x1_0000_0000 = site)
  let counted := s.regs.filter (fun e => mine e.1 && isCounter e.1)
  let s1 : State := { s with regs := s.regs.filter (fun e => !(mine e.1 && isHold e.1)) }
  let s2 := counted.foldl (fun (t : State) e => t.setReg (e.1 + 0x2000) e.2) s1
  if site = 0 then
    let s3 := (upTo 8).foldl (fun (t : State) cd => (upTo 5).foldl (fun (t : State) st =>
      t.setReg (R.idleRes cd st + 0x2000) (Word.of (s.residency cd st))) t) s2
    (s3.setReg (R.pwrCntEnergy + 0x2000) (Word.of s3.free)).draw
  else s2

/-- R88 step 1: a die begins a snapshot at tick `t`. -/
def State.snapBegin (s : State) (site t : Nat) (pkg : Bool) : State :=
  { s.setFld (R.snapCtrl site) F.snapCtrl_busy 1 with snaps := Sparse.set (fun _ => {}) s.snaps site ⟨t, pkg⟩ }

/-- R90: DIES is written once every die that took part has completed or left service. -/
def State.snapCheck (s : State) : State :=
  match s.pkgSnap with
  | none => s
  | some p =>
    let part := p.part.filter s.up
    if part.isEmpty ∧ (p.coming.filter s.up).isEmpty then
      { s.setFld (R.snapTime 0) F.snapTime_dies (p.done.foldl (fun n site => n ||| 2 ^ site) 0) with pkgSnap := none }
    else s

/-- A write of TAKE (R88, R89). -/
def State.snapTake (s : State) (site : Nat) : State :=
  if s.flag (R.snapCtrl site) F.snapCtrl_busy then s else s.snapBegin site (s.tick + 1) false

/-- A write of TAKE_ALL (R90). -/
def State.takeAll (s : State) : State :=
  let t := s.tick + 2000
  let busy := s.flag (R.snapCtrl 0) F.snapCtrl_busy
  let s1 := if busy then s else s.snapBegin 0 t true
  { s1 with pkgSnap := some {
      tick := t, coming := (upTo 11).filter (fun d => decide (d ≠ 0) && s.up d), part := if busy then [] else [0], done := [] } }

/-- SNAP_COMMAND_ARRIVAL (R90). -/
def snapArrival (site : Nat) (s : State) : State :=
  match s.pkgSnap with
  | none => s.answer .refused
  | some p =>
    if !p.coming.contains site then s.answer .refused
    else
      let coming := p.coming.filter (fun d => decide (d ≠ site))
      if s.up site ∧ !s.flag (R.snapCtrl site) F.snapCtrl_busy then
        ({ s.snapBegin site p.tick true with
          pkgSnap := some { p with coming := coming, part := p.part ++ [site] } } : State).answer .ok
      else (({ s with pkgSnap := some { p with coming := coming } } : State).snapCheck).answer .ok

/-- R88 steps 2 to 4: a snapshot of a die at its tick. -/
def State.snapRun (s : State) (site : Nat) : State :=
  let x := s.snap site
  let s1 := (s.until x.tick).snapCopy site
  let a := R.snapCtrl site
  let s2 := (s1.setFld a F.snapCtrl_seq (s1.fld a F.snapCtrl_seq + 1)).setFld (R.snapTime site) F.snapTime_tick x.tick
  let s3 : State := { s2.setFld a F.snapCtrl_busy 0 with snaps := Sparse.set (fun _ => {}) s2.snaps site {} }
  let s4 := s3.raise site 4
  match s4.pkgSnap with
  | some p =>
    if x.pkg ∧ p.part.contains site ∧ p.tick = x.tick then
      ({ s4 with pkgSnap := some { p with part := p.part.filter (fun d => decide (d ≠ site)), done := p.done ++ [site] } } : State).snapCheck
    else s4
  | none => s4

/-- SNAPSHOT_TICK (R88). -/
def snapshotTick (site : Nat) (s : State) : State :=
  if s.up site ∧ s.flag (R.snapCtrl site) F.snapCtrl_busy then (s.snapRun site).answer .ok else s.answer .refused

/-- A die that enters reset abandons its snapshot (R90). -/
def State.snapGone (s : State) (site : Nat) : State :=
  ({ s with snaps := Sparse.set (fun _ => {}) s.snaps site {} } : State).snapCheck

/-- R701 step 3: the package snapshot, carried through on every die in service. -/
def State.snapAll (s : State) : State :=
  let s1 := (upTo 11).foldl (fun (t : State) d => if t.up d ∧ t.flag (R.snapCtrl d) F.snapCtrl_busy then t.snapRun d else t) s
  let s2 := s1.takeAll
  let s3 := (upTo 11).foldl (fun (t : State) d => if d ≠ 0 then snapArrival d t else t) s2
  (upTo 11).foldl (fun (t : State) d => if t.up d ∧ t.flag (R.snapCtrl d) F.snapCtrl_busy then t.snapRun d else t) s3

/-! ## Meanings -/

/-- SNAPSHOT_TICK (R88). -/
def execSnapshotTick (site : Site) (s : State) : Host.Outcome State Fault Refusal := s.run fun s => snapshotTick site.val s
/-- SNAP_COMMAND_ARRIVAL (R90). -/
def execSnapCommandArrival (site : Site) (s : State) : Host.Outcome State Fault Refusal := s.run fun s => snapArrival site.val s

end Sys2Proof.Machine
end

