-- ==== Sys2Proof/Machine/LinkBase.lean ====
section
/-!
DEFINITION. What a link's fall and a die's reset do at once (R47 to R49, R104, R616, R731), and the lines of holders
that are lost (R617, R731).
-/

namespace Sys2Proof.Machine

/-! ## Links -/

/-- A link's number: 0 to 7 the edge links, 8 to 17 the optical ones. -/
def LinkId.ix : LinkId → Nat
  | .edge n => n.val
  | .oc n => 8 + n.val
  | .oh n => 16 + n.val

/-- The site of an end of a link: end a is CDn of En or the spindle, end b CD((n+1) mod 8) or the far die (R23). -/
def linkSite (l : Nat) (b : Bool) : Nat :=
  if l < 8 then (if b then (l + 1) % 8 + 1 else l + 1) else if b then l - 7 else 0

/-- The registers of an end of an edge link: east (1) of CDn, west (0) of CD((n+1) mod 8). -/
def edgeAt (l : Nat) (b : Bool) : Nat × Nat := if b then ((l + 1) % 8, 0) else (l, 1)

/-- R47: STATE of a link changes, and the dies that hold it raise their link event. -/
def State.linkState (s : State) (l v : Nat) : State :=
  if l < 8 then
    [false, true].foldl (fun (t : State) b =>
      let (cd, e) := edgeAt l b
      let a := R.edgeStat cd e
      if t.fld a F.edgeStat_state = v then t else (t.setFld a F.edgeStat_state v).raise (cd + 1) 0) s
  else
    let a := R.olStat (l - 8)
    if s.fld a F.olStat_state = v then s else (s.setFld a F.olStat_state v).raise 0 0

/-- R49: what an end shows of a link's active set is discarded. -/
def State.linkForget (s : State) (l : Nat) : State :=
  if l < 8 then
    [false, true].foldl (fun (t : State) b =>
      let (cd, e) := edgeAt l b
      let a := R.edgeStat cd e
      ((((t.setFld a F.edgeStat_groupsActive 0).setFld a F.edgeStat_width 0).setFld a F.edgeStat_localGood 0).setFld a
        F.edgeStat_peerGood 0).setFld a F.edgeStat_spareUsed 0) s
  else ((s.setFld (R.olStat (l - 8)) F.olStat_wgGood 0).setReg (R.olWg (l - 8)) 0).setReg (R.olSpare (l - 8)) 0

/-- R37, R48, R49: a link goes DOWN; `kick` says that it waits for an event of R39 or R41 before it trains again, and
`up` that it has been up since its ends were last reset. -/
def State.linkFall (s : State) (l : Nat) (kick up : Bool) : State :=
  ((s.setLnk l { kick := kick, upSinceReset := up }).linkForget l).linkState l 0

/-- The links of a site. -/
def linksOf (site : Nat) : List Nat :=
  if site = 0 then [] else if site ≤ 8 then [site + 7, site - 1, (site + 6) % 8] else [site + 7]

/-! ## A die enters reset -/

/-- HD_IN_SERVICE follows the host dies (R643). -/
def State.showHosts (s : State) : State :=
  s.setFld R.hostCtrl F.hostCtrl_hdInService (b2n (s.up 9) + 2 * b2n (s.up 10))

/-- A die enters reset: its links go DOWN, it leaves service, its registers and interrupt files take their reset
values, and pending messages are evaluated again (R48, R104). -/
def State.dieReset (s : State) (site : Nat) : State :=
  let d := s.die site
  let base := site * 0x1_0000_0000
  let s1 := s.setDie site { d with released := false, accepted := false, admitted := false, inService := false }
  let s2 := (linksOf site).foldl (fun (t : State) l => t.linkFall l false false) s1
  let s3 := s2.resetRegs base (base + 0x1_0000_0000)
  ((({ s3 with imsic := s3.imsic.filter (fun e => decide (e.1 < base) || decide (base + 0x1_0000_0000 ≤ e.1)) } : State).showHosts).snapGone site).msiAll

/-! ## Lost lines -/

/-- How a line of lost holders was resolved. -/
inductive Resolved where
  | dropped | recovered | poisoned
  deriving DecidableEq, Repr

/-- The bit of a directory entry that stands for a holder at a home: its own, or the far cache's. -/
def agentBitOf (n h : Nat) : BitVec 28 := agentBit ((agentOf n h).getD 27)

/-- R617: the line of holders that are lost: their copies go; a dirty line is written from a surviving copy, or its
home poisons it. -/
def State.resolveLine (s : State) (gone : List Nat) (line : Nat) : State × Resolved :=
  let n := s.home line
  let dirty := gone.any (fun h => (s.cline h line).st.dirty)
  let others := (upTo 75).filter (fun h => !gone.contains h && decide ((s.cline h line).st ≠ .i))
  let e := s.sub line
  let mask := gone.foldl (fun (m : BitVec 74) h => if h < 74 then m &&& ~~~ subBit h else m) e.mask
  let s1 := gone.foldl (fun (t : State) h => t.setCline h line {}) s
  if 2 ^ 33 ≤ line ∨ !s.cdUp n then (s1.setSub line { e with mask := mask }, .dropped)
  else if !dirty then
    let d := s1.dirEnt line
    let bits := gone.foldl (fun (m : BitVec 28) h => match agentOf n h with | some a => m &&& ~~~ agentBit a | none => m) d.sharers
    let s2 := s1.setSub line { e with mask := mask }
    (if d.st = .u then s2 else { s2 with dir := Sparse.set (fun _ => {}) s2.dir line (if d.st = .s ∧ bits = 0 then {} else { d with sharers := bits }) }, .dropped)
  else
    match others with
    | [] =>
      let pa := linePa line
      let s2 := ((s1.cwPoison pa).cwPoison (pa + 64)).setSub line {}
      (s2.setDir line .p 0 0, .poisoned)
    | o :: _ =>
      let s2 := (s1.writeBack line (s1.cline o line).val).setSub line (if mask = 0 ∧ (s1.cline xlIx line).st = .i then {} else { e with st := .s, owner := none, mask := mask })
      let s3 := others.foldl (fun (t : State) h => t.setCline h line { t.cline h line with st := .s }) s2
      (s3.setDir line .s 0 (others.foldl (fun (m : BitVec 28) h => m ||| agentBitOf n h) 0), .recovered)

/-- R617, R731: every line of holders that are lost is resolved: the poisoned lines, and how many were recovered. -/
def State.resolveLost (s : State) (gone : List Nat) : State × List Nat × Nat :=
  let lines := (gone.flatMap (fun h => (s.heldBy h).map Prod.fst)).eraseDups
  let s0 : State := { s with miss := s.miss.filter (fun m => !gone.contains m.holder) }
  lines.foldl (fun (t : State × List Nat × Nat) line =>
    match t.1.resolveLine gone line with
    | (s1, .dropped) => (s1, t.2.1, t.2.2)
    | (s1, .recovered) => (s1, t.2.1, t.2.2 + 1)
    | (s1, .poisoned) => (s1, t.2.1 ++ [line], t.2.2)) (s0, [], 0)

/-! ## Writes of many bytes -/

/-- Bytes written at a physical address by a requester at a site, cut at lines; a request that is refused leaves its
bytes unwritten. -/
def State.putBytes (s : State) (site : Nat) (tag : ReqTag) (pa : Nat) (bs : List Byte) : State :=
  (linePieces pa bs.length).foldl (fun (t : State) p =>
    let a := pa + p.1
    let part := (bs.drop p.1).take p.2
    (t.uncached site tag (a / 128) (if p.2 = 128 then .wrF (placed a part) else .wrP (placed a part) (spanOf a p.2)) true).1) s

/-- Bytes read at a physical address by a requester at a site: the bytes, or nothing when a read is refused; and
whether a codeword of them is poisoned. -/
def State.getBytes (s : State) (site : Nat) (tag : ReqTag) (pa n : Nat) : State × Option (List Byte) × Bool :=
  (linePieces pa n).foldl (fun (t : State × Option (List Byte) × Bool) p =>
    match t.2.1 with
    | none => t
    | some bs =>
      let a := pa + p.1
      match t.1.uncached site tag (a / 128) .rdNC false with
      | (s1, r) =>
        match r.st, r.val with
        | .error, _ => (s1, none, t.2.2)
        | _, some l =>
          let off := a % 128
          let lo := l.poison.getLsbD 0 && decide (off < 64)
          let hi := l.poison.getLsbD 1 && decide (64 < off + p.2)
          (s1, some (bs ++ ((toBytes 128 l.data.toNat).drop off).take p.2), t.2.2 || lo || hi)
        | _, none => (s1, none, t.2.2)) (s, some [], false)

/-- Tell Beryl. -/
def State.tell (s : State) (n : Notice) : State := { s with told := s.told ++ [n] }

end Sys2Proof.Machine
end

