-- ==== Sys2Proof/Machine/HostReset.lean ====
section
/-!
DEFINITION. Host reset and its journal, host absence and fall-back, and the PCIe root ports (R602, R611 to R624,
R643 to R645).
-/

namespace Sys2Proof.Machine

/-! ## Host absence and fall-back -/

/-- Whether FILE names an interrupt file of a host die that is not in service (R622). -/
def State.lostFile (s : State) (file : Nat) : Bool :=
  let pa := file * 0x1000
  decide (regSpace ≤ pa) && (match filePage (pa - regSpace) with
    | some site => decide (9 ≤ site) && !s.up site
    | none => false)

/-- Registers that hold a FILE: the source entries of every die and the entries of the command rings (R101, R609). -/
def isFileReg (a : Nat) : Bool :=
  let off := a % 0x1_0000_0000
  (decide (0x3000 ≤ off) && decide (off < 0x4000) && decide (off % 0x10 = 0))
    || (decide (a < 0x1_0000_0000) && decide (0xB1000 ≤ off) && decide (off < 0xB1800) && decide (off % 0x20 = 0x10))

/-- R622 step 2: interrupts of absent host dies go to the interrupt file of a die's B0. -/
def State.retarget (s : State) (cd : Nat) : State :=
  let new := (regSpace + cdBase cd + 0x61000) / 0x1000
  let t := s.regs.foldl (fun (t : State) e =>
    if isFileReg e.1 && t.lostFile (t.fld e.1 F.msiAddr_file) then t.setFld e.1 F.msiAddr_file new else t) s
  t.msiAll

/-- R622: the dies that may be chosen, in order. -/
def State.fbDies (s : State) : List Nat := (upTo 8).filter (fun n => s.cdUp n && s.flag (R.bobCtrl n 0) F.bobCtrl_fbEligible)

/-- R622: fall-back is due: it begins on the lowest eligible die, or FB_NONE is set. A runtime that has not passed
verification is not started (R657). -/
def State.fbBegin (s : State) : State :=
  if s.onyx.fbOff then s
  else match s.fbDies with
  | [] => if s.flag R.hostFb F.hostFb_fbNone then s else (s.setFld R.hostFb F.hostFb_fbNone 1).tell .fallbackNone
  | n :: _ =>
    let s1 := (s.setFld R.hostFb F.hostFb_fbDie (n + 1)).retarget n
    let s2 := ((s1.setFld R.hostFb F.hostFb_fbNone 0).setFld R.hostFb F.hostFb_fbActive 1).count R.hostCnt F.hostCnt_fallbacks 1
    (s2.setFld (R.bobCtrl n 0) F.bobCtrl_role 2).setFld (R.bobCtrl n 1) F.bobCtrl_role 1

/-- R622: a change of a compute die's service or of an FB_ELIGIBLE bit while fall-back is due. -/
def State.fbRecheck (s : State) : State := if s.flag R.hostFb F.hostFb_fbNone then s.fbBegin else s

/-- R621: host absence follows the host dies in service and the watchdog. -/
def State.absence (s : State) : State :=
  let out := (!s.up 9 && !s.up 10) || s.host.lapsed
  let h := s.host
  if out then
    (match h.since with
      | some _ => s
      | none => { s with host := { h with since := some s.tick } } : State).setFld R.hostFb F.hostFb_absent 1
  else ((({ s with host := { h with since := none } } : State).setFld R.hostFb F.hostFb_absent 0).setFld R.hostFb
    F.hostFb_fbNone 0)

/-- A heartbeat (R621). -/
def State.heartbeat (s : State) (v : Word) : State :=
  let s1 : State := { s with host := { s.host with beat := s.tick, lapsed := false } }
  (s1.setReg R.hostHb v).absence

/-- A millisecond in ticks (R114). -/
def ms : Nat := 1_000_000

/-- HEARTBEAT_TIMEOUT (R621). -/
def heartbeatTimeout (s : State) : State :=
  let period := s.fld R.hostFb F.hostFb_hbPeriodMs
  if period = 0 ∨ s.host.lapsed then s.answer .refused
  else
    let s1 := s.until (s.host.beat + period * ms)
    (({ s1 with host := { s1.host with lapsed := true } } : State).absence).answer .ok

/-- FALLBACK_DEADLINE (R621, R622): the deadline wins against the end of absence. -/
def fallbackDeadline (s : State) : State :=
  let limit := s.fld R.hostFb F.hostFb_fbTimeoutMs
  match s.host.since with
  | none => s.answer .refused
  | some t =>
    if limit = 0 ∨ s.flag R.hostFb F.hostFb_fbActive ∨ s.flag R.hostFb F.hostFb_fbNone then s.answer .refused
    else ((s.until (t + limit * ms)).fbBegin).answer .ok

/-- R624: HANDBACK. -/
def State.handback (s : State) : State :=
  if s.flag R.hostFb F.hostFb_fbActive then
    let n := s.fld R.hostFb F.hostFb_fbDie - 1
    (s.setFld R.hostFb F.hostFb_fbActive 0).setFld (R.bobCtrl n 0) F.bobCtrl_role 1
  else s

/-! ## The reset journal -/

/-- R618: whether an engine holds a queued or running descriptor with a run on a HOST-owned page. -/
def State.seHostRun (s : State) (j : Nat) : Bool :=
  (s.seSt j).queue.any (fun d => decide (d.ended = none) && d.runs.any RunPage.host)

/-- The bytes done of the descriptor an engine runs; 0 when it is paused (R620). -/
def State.seRunBytes (s : State) (j : Nat) : Nat :=
  match (s.seSt j).front with
  | some d => if s.fld (seRefOf j).stat F.seStat_state = 4 ∨ d.start = none then 0 else d.bytes
  | none => 0

/-- An engine's entry of the journal (R620). -/
def State.journalEngine (s : State) (paused : List Nat) (j : Nat) : List Byte :=
  let a := (seRefOf j).stat
  toBytes 8 (b2n (paused.contains j) + s.fld a F.seStat_state * 2 + s.fld a F.seStat_doneIdx * 2 ^ 32)
    ++ toBytes 8 (s.seRunBytes j % 2 ^ 33)

/-- R620: the journal of a reset of HDn. -/
def State.journal (s : State) (hd cause start : Nat) (paused lines : List Nat) (recovered : Nat) : State :=
  let a := R.hostRj hd
  if !s.flag a F.hostRj_enable then s
  else
    let base := s.fld a F.hostRj_base * 2 ^ 22
    let head := toBytes 8 (0x4A52_5848 + 2 ^ 32 + (9 + hd) * 2 ^ 48 + cause * 2 ^ 52)
      ++ toBytes 8 ((s.host.resets.getD hd 0) % 2 ^ 32 + start % 2 ^ 32 * 2 ^ 32)
      ++ toBytes 8 (lines.length % 2 ^ 32 + paused.length % 2 ^ 8 * 2 ^ 32)
      ++ toBytes 8 (recovered % 2 ^ 32) ++ toBytes 32 0
    let engines := (upTo 136).flatMap (s.journalEngine paused)
    let entries := lines.flatMap (fun l => toBytes 8 (1 + l * 128))
    ((s.putBytes 0 .host base (head ++ engines)).putBytes 0 .host (base + 0x1000) entries).setFld a F.hostRj_valid 1

/-! ## Host reset -/

/-- The links of HDn's root ports are down (R616). -/
def State.portsDown (s : State) (hd : Nat) : State :=
  [0, 1].foldl (fun (t : State) i => t.setReg (R.pcieStat hd i) 0) s

/-- R616: a reset of HDn with its cause: 0 an action, 1 the die's own, 2 the link. -/
def State.hostReset (s : State) (hd cause : Nat) : State :=
  let h := s.host
  let s1 : State := { s with host := { h with resets := h.resets.set hd (h.resets.getD hd 0 + 1) } }
  let s2 := (((s1.dieReset (9 + hd)).portsDown hd).absence).releaseOwned
    (fun o => decide (o.kind = 1) && decide (o.die.toNat = 9 + hd))
  let paused := (upTo 136).filter s2.seHostRun
  let s3 := paused.foldl (fun (t : State) j => t.sePause (seRefOf j)) s2
  let (s4, lines, recovered) := s3.resolveLost [72 + hd]
  let s5 := (s4.journal hd cause s.tick paused lines recovered).count R.hostCnt F.hostCnt_hostResets 1
  let s6 := s5.rasWrite { det (if lines.isEmpty then 0 else 1) 9 (9 + hd) 0 1 with
    arg0 := Word.of lines.length, arg1 := Word.of recovered }
  s6.tell (.hostReset hd)

/-- HOST_SELF_RESET (R616). -/
def hostSelfReset (hd : Nat) (s : State) : State :=
  if s.up (9 + hd) then (s.hostReset hd 1).answer .ok else s.answer .refused

/-- HOST_LINK_TIMEOUT (R602): a retrain of OHn has not returned the link to service in time. -/
def hostLinkTimeout (hd : Nat) (s : State) : State :=
  if s.up (9 + hd) && s.moving (16 + hd) then (s.hostReset hd 2).answer .ok else s.answer .refused

/-! ## PCIe root ports -/

/-- R645: a flag of PCIE_EVENT; a change from 0 to 1 raises source 8 of the host die for PCIE0, 9 for PCIE1. -/
def State.pcieEvent (s : State) (hd i : Nat) (f : Fld) : State :=
  let a := R.pcieEvent hd i
  if s.flag a f then s else (s.setFld a f 1).raise (9 + hd) (8 + i)

/-- R613: whether a valid window of a port holds a whole range with the right asked for. -/
def State.dmaOpen (s : State) (hd i addr len : Nat) (write : Bool) : Bool :=
  (upTo 8).any (fun j =>
    let b := R.dmaWinBase hd i j
    s.flag b F.dmaWinBase_valid && s.flag b (if write then F.dmaWinBase_w else F.dmaWinBase_r)
      && decide (s.fld b F.dmaWinBase_base * 2 ^ 21 ≤ addr)
      && decide (addr + len ≤ (s.fld (R.dmaWinLimit hd i j) F.dmaWinLimit_limit + 1) * 2 ^ 21))

/-- R613: a request that is not admitted. -/
def State.dmaRefuse (s : State) (hd i : Nat) (r : DeviceRequest) : State :=
  let a := R.pcieViol hd i
  let s1 := s.count (R.pcieCnt hd i) F.pcieCnt_viol 1
  let s2 := if s.reg a ≠ 0 then s1
    else (s1.setFld a F.pcieViol_addr r.addr.toNat).setFld a F.pcieViol_reqId r.reqId.toNat
  (s2.pcieEvent hd i F.pcieEvent_winViol).answer .error

/-- Bytes of a device's write, with the poison of EP (R734), to a line. -/
def dmaLine (a : Nat) (bs : List Byte) (ep : Bool) : Line :=
  let lo := decide (a % 128 < 64)
  let hi := decide (64 < a % 128 + bs.length)
  { placed a bs with poison := if ep then BitVec.ofNat 2 (b2n lo + 2 * b2n hi) else 0 }

/-- R613, R734: an admitted write. -/
def State.dmaWrite (s : State) (hd addr : Nat) (bs : List Byte) (ep : Bool) : State :=
  (linePieces addr bs.length).foldl (fun (t : State) p =>
    let a := addr + p.1
    let l := dmaLine a ((bs.drop p.1).take p.2) ep
    let whole := ep && decide (l.poison = 3)
    (t.uncached (9 + hd) .host (a / 128) (if p.2 = 128 ∨ whole then .wrF l
      else .wrP l (if ep then poisonSpan l.poison else spanOf a p.2)) false).1) s
where
  /-- All bytes of the codewords that are poisoned. -/
  poisonSpan (p : BitVec 2) : Nat := (if p.getLsbD 0 then 2 ^ 64 - 1 else 0) + (if p.getLsbD 1 then (2 ^ 64 - 1) * 2 ^ 64 else 0)

/-- DEVICE_REQUEST (R613, R614). -/
def deviceRequest (hd i : Nat) (r : DeviceRequest) (s : State) : State :=
  s.commit fun s =>
    let a := r.addr.toNat
    let len := match r.write with | some bs => bs.length | none => r.len
    let file := decide (regSpace ≤ a) && decide (a < 0xF00_0000_0000) && (filePage (a - regSpace)).isSome
    if !s.up (9 + hd) ∨ s.fld (R.pcieStat hd i) F.pcieStat_speed = 0 then s.answer .refused
    else match r.write with
      | some bs =>
        if file then
          let t := match filePage (a - regSpace) with
            | some site => if s.up site ∧ a % 0x1000 = 0 ∧ len = 4 then s.setIp (a - regSpace) (ofBytes bs) else s
            | none => s
          t.answer .ok
        else if s.dmaOpen hd i a len true then (s.dmaWrite hd a bs r.ep).answer .ok
        else s.dmaRefuse hd i r
      | none =>
        if s.dmaOpen hd i a len false then
          match s.getBytes (9 + hd) .host a len with
          | (s1, none, _) => s1.answer .error
          | (s1, some bs, poison) =>
            let s2 := if poison then s1.rasWrite { det 1 6 (9 + hd) 0 1 with consumed := true, arg0 := 4 } else s1
            s2.answerData poison (wordsOf ((bs.length + 7) / 8) (ofBytes bs))
        else s.dmaRefuse hd i r

/-- R645: a port's link stands otherwise than it did. -/
def State.pcieLink (s : State) (hd i : Nat) (l : PcieLink) : State :=
  let a := R.pcieStat hd i
  let held := !s.flag (R.pcieCtrl hd i) F.pcieCtrl_enable
  let speed := if held ∨ l.dpc then 0 else l.speed.val
  let width := if speed = 0 then 0 else l.width.val
  let v := F.pcieStat_dpc.set (b2n l.dpc) (F.pcieStat_width.set width (F.pcieStat_speed.set speed 0))
  if s.reg a = v then s else (s.setReg a v).pcieEvent hd i F.pcieEvent_linkChange

/-- PCIE_LINK_CHANGE (R645). -/
def pcieLinkChange (hd i : Nat) (l : PcieLink) (s : State) : State :=
  if s.up (9 + hd) then (s.pcieLink hd i l).answer .ok else s.answer .refused

/-- R645: a write of RETRAIN: the link state changes, and its speed and width stay until they are found again. -/
def State.pcieRetrain (s : State) (hd i : Nat) : State :=
  if s.fld (R.pcieStat hd i) F.pcieStat_speed = 0 then s else s.pcieEvent hd i F.pcieEvent_linkChange

/-- R645: a write of ENABLE: 0 holds the link down. -/
def State.pcieEnable (s : State) (hd i : Nat) (en : Bool) : State :=
  let s1 := s.setFld (R.pcieCtrl hd i) F.pcieCtrl_enable (b2n en)
  if en then s1 else s1.pcieLink hd i ⟨0, 0, false⟩

/-- AER_ERROR_MESSAGE (R645). -/
def aerErrorMessage (hd i : Nat) (uncorr : Bool) (s : State) : State :=
  if s.up (9 + hd) then (s.pcieEvent hd i (if uncorr then F.pcieEvent_aerUncorr else F.pcieEvent_aerCorr)).answer .ok
  else s.answer .refused

/-! ## Meanings -/

/-- HOST_SELF_RESET (R616). -/
def execHostSelfReset (hd : Fin 2) (s : State) : Out := s.run fun s => hostSelfReset hd.val s
/-- HOST_LINK_TIMEOUT (R602). -/
def execHostLinkTimeout (hd : Fin 2) (s : State) : Out := s.run fun s => hostLinkTimeout hd.val s
/-- HEARTBEAT_TIMEOUT (R621). -/
def execHeartbeatTimeout (s : State) : Out := s.run fun s => heartbeatTimeout s
/-- FALLBACK_DEADLINE (R622). -/
def execFallbackDeadline (s : State) : Out := s.run fun s => fallbackDeadline s
/-- DEVICE_REQUEST (R613). -/
def execDeviceRequest (hd port : Fin 2) (r : DeviceRequest) (s : State) : Out := s.run fun s => deviceRequest hd.val port.val r s
/-- PCIE_LINK_CHANGE (R645). -/
def execPcieLinkChange (hd port : Fin 2) (l : PcieLink) (s : State) : Out := s.run fun s => pcieLinkChange hd.val port.val l s
/-- AER_ERROR_MESSAGE (R645). -/
def execAerErrorMessage (hd port : Fin 2) (uncorr : Bool) (s : State) : Out :=
  s.run fun s => aerErrorMessage hd.val port.val uncorr s

end Sys2Proof.Machine
end

