-- ==== Sys2Proof/Machine/Twin.lean ====
section
/-!
DEFINITION. The twin link: training and authentication, exported windows, mirror, witness and takeover, and its
session keys (R625 to R639, R646, R647, R667 to R670).
-/

namespace Sys2Proof.Machine

/-! ## What the link shows -/

/-- R626: STATE changes, and spindle source 40 is raised. -/
def State.twnState (s : State) (v : Nat) : State :=
  if s.fld R.twnStat F.twnStat_state = v then s else (s.setFld R.twnStat F.twnStat_state v).raise 0 40

/-- R626: a flag of the status changes, and spindle source 40 is raised. -/
def State.twnFlag (s : State) (f : Fld) (v : Bool) : State :=
  if s.flag R.twnStat f = v then s else (s.setFld R.twnStat f (b2n v)).raise 0 40

/-- R626, R638: ROLE changes. -/
def State.twnRole (s : State) (v : Bool) : State :=
  if s.flag R.twnCtrl F.twnCtrl_role = v then s else (s.setFld R.twnCtrl F.twnCtrl_role (b2n v)).raise 0 40

/-- MODE. -/
def State.twnMode (s : State) : Nat := s.fld R.twnCtrl F.twnCtrl_mode

/-- R637, R638: whether both paths to the partner are lost, and since when; a return of either ends what a TAKEOVER
action has asked. -/
def State.paths (s : State) : State :=
  let t := s.twn
  if s.twinUp || s.flag R.twnStat F.twnStat_peerSeen then { s with twn := { t with lost := none, asked := false } }
  else match t.lost with
    | some _ => s
    | none => { s with twn := { t with lost := some s.tick } }

/-- R634: the link has left service: the primary stops recording when ON_LINK_LOSS is 1. -/
def State.mirLoss (s : State) : State :=
  if s.mirroring false && s.flag R.mirCtrl F.mirCtrl_onLinkLoss && !s.twinUp then
    s.setFld R.twnStat F.twnStat_resyncNeeded 1
  else s

/-- R634, R637: the link reaches a state that carries no requests; the session ends. -/
def State.twnFall (s : State) (v : Nat) : State :=
  let s1 := s.twnState v
  (({ s1 with twn := { s1.twn with keyed := none, rekey := false } } : State).mirLoss).paths

/-- R626: the link trains, as far as its good lanes allow, and stands before authentication. -/
def State.twnTrain (s : State) : State :=
  let s1 := s.twnFall 1
  let s2 := s1.setFld R.twnStat F.twnStat_lanes (min s1.twn.good 16)
  if s2.twn.good < s2.fld R.twnCtrl F.twnCtrl_minLanes then s2.twnFall 0 else s2.twnFall 2

/-- R626: the state of service for the good lanes. -/
def State.twnService (s : State) : Nat := if s.twn.good < 16 then 4 else 3

/-- R626: ENABLE is written. -/
def State.twnEnable (s : State) (en : Bool) : State :=
  let was := s.flag R.twnCtrl F.twnCtrl_enable
  let s1 := s.setFld R.twnCtrl F.twnCtrl_enable (b2n en)
  if en && !was then s1.twnTrain else if !en && was then (s1.twnFall 0).setFld R.twnStat F.twnStat_lanes 0 else s1

/-- R647: RETRAIN. -/
def State.twnRetrain (s : State) : State := if s.flag R.twnCtrl F.twnCtrl_enable then s.twnTrain else s

/-- R667: whether the peer is accepted. -/
def State.peerOk (s : State) (r : TwinAuth) : Bool :=
  let m := s.fld R.twinPolicy F.twinPolicy_matchSlots
  r.chain && !r.debug && r.peerAccepts && decide (s.fld R.secStat F.secStat_state = 1)
    && (upTo 16).all (fun i => !m.testBit i || decide (r.slots.getD i [] = s.meas i))

/-- TWIN_AUTH (R626, R667). -/
def twinAuth (r : TwinAuth) (s : State) : State :=
  if s.fld R.twnStat F.twnStat_state ≠ 2 then s.answer .refused
  else if s.peerOk r then
    let s1 := (s.draw.draw).audit 0x0020 0 0 (Word.of s.free) (Word.of s.draw.free)
    let s2 := ({ s1 with twn := { s1.twn with keyed := some s1.tick, rekey := false, fails := 0 } } : State).twnState s1.twnService
    let s3 := if s2.twnMode = 1 then s2.twnFlag F.twnStat_fenced false else s2
    s3.paths.answer .ok
  else
    let s1 := s.draw.audit 0x0021 0 0 (Word.of s.free) r.idk
    ((s1.twnFall 0).secEvent F.secEvent_twinAuthFail).answer .ok

/-- TWIN_LANE_LOSS (R626, R634): the number of good lanes changes. -/
def twinLaneLoss (good : Nat) (s : State) : State :=
  let s1 : State := { s with twn := { s.twn with good := good } }
  let st := s1.fld R.twnStat F.twnStat_state
  if !s1.flag R.twnCtrl F.twnCtrl_enable then s1.answer .ok
  else
    let s2 := s1.setFld R.twnStat F.twnStat_lanes (min good 16)
    if good < s2.fld R.twnCtrl F.twnCtrl_minLanes then (s2.twnFall 0).answer .ok
    else if st = 0 then s2.twnTrain.answer .ok
    else if 3 ≤ st then (s2.twnState s2.twnService).answer .ok
    else s2.answer .ok

/-! ## Modes (R636) -/

/-- R636: why a mode cannot be entered; 0 when it can. -/
def State.modeRefusal (s : State) (mode : Nat) : Nat :=
  let p := s.twn.peer
  if !s.twinUp then 1
  else if p.role = s.flag R.twnCtrl F.twnCtrl_role then 2
  else if p.mode.toNat ≠ mode then 3
  else if mode = 1 ∧ (!s.flag R.rxj F.rxj_enable ∨ !p.rxj) then 4
  else if mode = 2 ∧ p.digest ≠ (upTo 6).map (fun i => s.reg (R.wvDigest i)) then 5
  else 0

/-- R634, R636: MODE is written with another value. -/
def State.setMode (s : State) (mode : Nat) : State :=
  if mode = s.twnMode ∨ mode = 3 then s
  else
    let why := if mode = 0 then 0 else s.modeRefusal mode
    ((s.setFld R.twnCtrl F.twnCtrl_mode (if why = 0 then mode else 0)).setFld R.twnStat F.twnStat_modeRefused why).setFld
      R.twnStat F.twnStat_resyncNeeded 0

/-- R637: UNFENCE. -/
def State.unfence (s : State) : State := (s.twnFlag F.twnStat_fenced false).setFld R.twnCtrl F.twnCtrl_mode 0

/-! ## The primary -/

/-- The lines that a home records as dirty in mirrored regions (R632). -/
def State.mirDirty (s : State) : List Nat :=
  ((s.dir.filter (fun e => decide (e.2.st = .m) || decide (e.2.st = .o))).map Prod.fst).filter (fun l => s.mirrored (linePa l))

/-- R632: MARK on the primary. -/
def State.mark (s : State) : State :=
  if !s.recording then s
  else
    let s1 := s.mirDirty.foldl (fun (t : State) l => t.homeClean l) s
    let s2 := ((s1.red.map RedLine.line).filter (fun l => s1.mirrored (linePa l))).foldl (fun (t : State) l => t.redFlush l) s1
    let n := (s2.fld R.mirStat F.mirStat_markSent + 1) % 2 ^ 32
    (s2.mirSend (.mark n)).setFld R.mirStat F.mirStat_markSent n

/-- The tail after `n` codewords of it have been acknowledged. -/
def ackTail : Nat → List TwnRec → List TwnRec
  | _, [] => []
  | n, .mark _ :: rest => ackTail n rest
  | 0, t => t
  | n + 1, .word _ _ _ :: rest => ackTail n rest
  | n + 1, .zeros lo hi :: rest =>
    let k := (hi - lo) / 64
    if k ≤ n + 1 then ackTail (n + 1 - k) rest else .zeros (lo + 64 * (n + 1)) hi :: rest

/-- MIRROR_ACK (R631, R633). -/
def mirrorAck (a : MirrorAck) (s : State) : State :=
  if !s.mirroring false ∨ !s.twinUp then s.answer .refused
  else
    let s1 : State := { s with twn := { s.twn with tail := ackTail a.count s.twn.tail } }
    match a.markApplied with
    | some n => (s1.setFld R.mirStat F.mirStat_markApplied n.toNat).answer .ok
    | none => s1.answer .ok

/-! ## The secondary -/

/-- Whether a range lies in one valid exported window that covers the access (R627). -/
def State.exported (s : State) (pa len : Nat) (write : Bool) : Bool :=
  (upTo 8).any (fun i =>
    let b := R.exportBase i
    s.flag b F.exportBase_valid && s.flag b (if write then F.exportBase_w else F.exportBase_r)
      && decide (s.fld b F.exportBase_base * 2 ^ 21 ≤ pa)
      && decide (pa + len ≤ (s.fld (R.exportLimit i) F.exportLimit_limit + 1) * 2 ^ 21))

/-- R633: the apply engine stores a record at its address. -/
def State.applyRec (s : State) (r : TwnRec) : State :=
  match r with
  | .word pa v poison =>
    if !s.cdUp (s.place pa).cd then s.discardWrite .onyx pa
    else
      let s1 := ((s.settle (pa / 128)).redFlush (pa / 128)).recall (pa / 128)
      if poison then s1.setBad pa true else s1.cwStore pa v.toNat
  | _ => s

/-- Records that the receive journal holds, 72 B each. -/
def State.rxRoom (s : State) : Nat := s.fld R.rxj F.rxj_size * 2 ^ 26 / 72

/-- A refused request of the partner (R627). -/
def State.partnerRefuse (s : State) : State := (s.count R.twnCntErr F.twnCntErr_refused 1).answer .error

/-- MIRROR_RECORD (R633): stored, or applied as it comes when the receive journal is full. -/
def mirrorRecord (r : MirrorRecord) (s : State) : State :=
  s.commit fun s =>
    let pa := r.pa.toNat / 64 * 64
    let x : TwnRec := .word pa (BitVec.ofNat 512 (ofBytes (r.data.take 64))) r.poison
    if !s.mirroring true ∨ !s.twinUp ∨ !s.flag R.rxj F.rxj_enable then s.answer .refused
    else if !s.exported pa 64 true then s.partnerRefuse
    else if s.twn.rx.length < s.rxRoom then
      ({ s with twn := { s.twn with rx := s.twn.rx ++ [x] } } : State).answer .ok
    else
      let s1 := (s.twn.rx ++ [x]).foldl State.applyRec s
      (({ s1 with twn := { s1.twn with rx := [] } } : State).setFld R.twnStat F.twnStat_batchBroken 1).answer .ok

/-- MARK_RECORD (R633): the batch is applied in record order. -/
def markRecord (n : Nat) (s : State) : State :=
  s.commit fun s =>
    if !s.mirroring true ∨ !s.twinUp then s.answer .refused
    else
      let s1 := s.twn.rx.foldl State.applyRec s
      (({ s1 with twn := { s1.twn with rx := [] } } : State).setFld R.mirStat F.mirStat_markApplied n).answer .ok

/-! ## The partner's requests (R627, R628) -/

/-- A write of the partner reaches its home, line by line; whether one was refused. -/
def State.partnerWrite (s : State) (pa : Nat) (bs : List Byte) : State × Bool :=
  (linePieces pa bs.length).foldl (fun (t : State × Bool) p =>
    let a := pa + p.1
    let part := (bs.drop p.1).take p.2
    let (s1, r) := t.1.uncached 0 (t.1.ownerTag a) (a / 128)
      (if p.2 = 128 then .wrF (placed a part) else .wrP (placed a part) (spanOf a p.2)) false
    (s1, t.2 || decide (r.st = .error))) (s, false)

/-- PARTNER_REQUEST (R627). -/
def partnerRequest (r : PartnerRequest) (s : State) : State :=
  s.commit fun s =>
    let pa := r.pa.toNat
    if !s.twinUp then s.answer .refused
    else match r.write with
      | some bs =>
        if !s.exported pa bs.length true then s.partnerRefuse
        else
          let (s1, bad) := s.partnerWrite pa bs
          s1.answer (if bad then .error else .ok)
      | none =>
        if !s.exported pa r.len false then s.partnerRefuse
        else match s.getBytes 0 (s.ownerTag pa) pa r.len with
          | (s1, none, _) => s1.answer .error
          | (s1, some bs, poison) => s1.answerData poison (wordsOf ((bs.length + 7) / 8) (ofBytes bs))

/-! ## Witness and takeover -/

/-- WITNESS_HEARTBEAT (R634, R635). -/
def witnessHeartbeat (h : WitnessBeat) (s : State) : State :=
  let s1 := s.setFld R.twnStat F.twnStat_peerSeen 1
  let s2 := if s1.flag R.twnCtrl F.twnCtrl_role then s1.setFld R.twnStat F.twnStat_peerSuspended (b2n h.resync) else s1
  let t := s2.twn
  (({ s2 with twn := { t with beat := s2.tick, peer := { t.peer with role := h.role, mode := h.mode } } } : State).paths).answer .ok

/-- WITNESS_TIMEOUT (R635). -/
def witnessTimeout (s : State) : State :=
  if !s.flag R.twnStat F.twnStat_peerSeen then s.answer .refused
  else
    let s1 := s.until (s.twn.beat + s.fld R.twnWit F.twnWit_witnessMs * ms)
    (((s1.setFld R.twnStat F.twnStat_peerSeen 0).raise 0 42).paths).answer .ok

/-- LEASE_EXPIRY (R637). -/
def leaseExpiry (s : State) : State :=
  match s.twn.lost with
  | none => s.answer .refused
  | some t =>
    if !s.mirroring false ∨ s.flag R.twnStat F.twnStat_fenced then s.answer .refused
    else ((s.until (t + s.fld R.twnWit F.twnWit_leaseMs * ms)).twnFlag F.twnStat_fenced true).answer .ok

/-- R638: the secondary takes over. -/
def State.takeOver (s : State) : State :=
  let s1 : State := { s with twn := { s.twn with rx := [], asked := false } }
  ((s1.twnRole false).twnFlag F.twnStat_takenOver true).setFld R.twnCtrl F.twnCtrl_mode 0

/-- R638: the tick at which the secondary may take over. -/
def State.takeoverTick (s : State) : Option Nat :=
  if s.mirroring true then s.twn.lost.map (fun t => t + s.fld R.twnWit F.twnWit_takeoverMs * ms) else none

/-- R638: a TAKEOVER action takes effect while the conditions hold: at once, or when they have held for TAKEOVER_MS. -/
def State.takeoverAction (s : State) : State :=
  match s.takeoverTick with
  | none => s
  | some t => if t ≤ s.tick then s.takeOver else { s with twn := { s.twn with asked := true } }

/-- TAKEOVER_DEADLINE (R638). -/
def takeoverDeadline (s : State) : State :=
  match s.takeoverTick with
  | none => s.answer .refused
  | some t =>
    if s.flag R.twnCtrl F.twnCtrl_autoTakeover || s.twn.asked then ((s.until t).takeOver).answer .ok
    else s.answer .refused

/-- R639: TWN_WIT is written; LEASE_MS and TAKEOVER_MS keep their values when their margin would fall short. -/
def State.witWrite (s : State) (v : Word) : State :=
  let lease := F.twnWit_leaseMs.get v
  let take := F.twnWit_takeoverMs.get v
  let w := F.twnWit_witnessMs.get v
  let s1 := if take < lease + 100 then s
    else (s.setFld R.twnWit F.twnWit_leaseMs lease).setFld R.twnWit F.twnWit_takeoverMs take
  if w < 20 then s1 else s1.setFld R.twnWit F.twnWit_witnessMs w

/-! ## Session keys (R668 to R670) -/

/-- FLIT_TAG_FAIL (R670). -/
def flitTagFail (s : State) : State :=
  if !s.twinUp then s.answer .refused
  else
    let s1 := s.count R.secCntAuth F.secCntAuth_tagFail 1
    let win := s1.tick / ms
    let n := if s1.twn.failWin = win then s1.twn.fails + 1 else 1
    let s2 : State := { s1 with twn := { s1.twn with failWin := win, fails := n } }
    if n ≤ 16 then s2.answer .ok
    else
      let s3 : State := { s2 with twn := { s2.twn with fails := 0 } }
      (((s3.twnFall 0).audit 0x0003 0 0 (Word.of (s3.fld R.secCntAuth F.secCntAuth_tagFail)) 1).twnTrain).answer .ok

/-- KEY_UPDATE_DUE (R668). -/
def keyUpdateDue (s : State) : State :=
  if s.twinUp && !s.twn.rekey then ({ s with twn := { s.twn with rekey := true } } : State).answer .ok else s.answer .refused

/-- KEY_UPDATE (R669). -/
def keyUpdate (s : State) : State :=
  if s.twinUp && s.twn.rekey then
    ({ s with twn := { s.twn with rekey := false, keyed := some s.tick, phase := !s.twn.phase } } : State).answer .ok
  else s.answer .refused

/-! ## Meanings -/

/-- TWIN_AUTH (R667). -/
def execTwinAuth (r : TwinAuth) (s : State) : Out := s.run fun s => twinAuth r s
/-- TWIN_LANE_LOSS (R626). -/
def execTwinLaneLoss (good : Nat) (s : State) : Out := s.run fun s => twinLaneLoss good s
/-- MIRROR_ACK (R631). -/
def execMirrorAck (a : MirrorAck) (s : State) : Out := s.run fun s => mirrorAck a s
/-- MIRROR_RECORD (R633). -/
def execMirrorRecord (r : MirrorRecord) (s : State) : Out := s.run fun s => mirrorRecord r s
/-- MARK_RECORD (R633). -/
def execMarkRecord (n : BitVec 32) (s : State) : Out := s.run fun s => markRecord n.toNat s
/-- PARTNER_REQUEST (R627). -/
def execPartnerRequest (r : PartnerRequest) (s : State) : Out := s.run fun s => partnerRequest r s
/-- WITNESS_HEARTBEAT (R635). -/
def execWitnessHeartbeat (h : WitnessBeat) (s : State) : Out := s.run fun s => witnessHeartbeat h s
/-- WITNESS_TIMEOUT (R635). -/
def execWitnessTimeout (s : State) : Out := s.run fun s => witnessTimeout s
/-- LEASE_EXPIRY (R637). -/
def execLeaseExpiry (s : State) : Out := s.run fun s => leaseExpiry s
/-- TAKEOVER_DEADLINE (R638). -/
def execTakeoverDeadline (s : State) : Out := s.run fun s => takeoverDeadline s
/-- FLIT_TAG_FAIL (R670). -/
def execFlitTagFail (s : State) : Out := s.run fun s => flitTagFail s
/-- KEY_UPDATE_DUE (R668). -/
def execKeyUpdateDue (s : State) : Out := s.run fun s => keyUpdateDue s
/-- KEY_UPDATE (R669). -/
def execKeyUpdate (s : State) : Out := s.run fun s => keyUpdate s

end Sys2Proof.Machine
end

