-- ==== Sys2Proof/Machine/Service.lean ====
section
/-!
DEFINITION. Dies that leave service and return: the partial reset of a compute die, and entry into service (R32,
R401, R591, R643, R655, R657, R663, R725, R731, R732).
-/

namespace Sys2Proof.Machine

/-! ## Leaving service (R731) -/

/-- Every group resident on the cores of a die ends; their launches end with KILLED. -/
def State.endGroupsOf (s : State) (cd : Nat) : State :=
  let mine := s.cores.filter (fun e => decide (e.1 / 128 = cd))
  mine.foldl (fun (t : State) e =>
    e.2.groups.foldl (fun (t : State) x => t.killGroup (groupAt e.1 x.1)) t) s

/-- The caches, cores, engines, walkers and tile memory of a die lose their contents. -/
def State.dieForget (s : State) (cd : Nat) : State :=
  let s1 := (upTo 16).foldl (fun (t : State) k => t.withdraw (seUnit (cd * 16 + k))) s
  { s1 with
    cores := s1.cores.filter (fun e => decide (e.1 / 128 ≠ cd))
    se := s1.se.filter (fun e => decide (e.1 / 16 ≠ cd))
    walk := s1.walk.filter (fun e => decide (e.1 / 8 ≠ cd) && decide (e.1 ≠ 64 + cd))
    tile := s1.tile.filter (fun e => decide (e.1 / 2 ^ 32 ≠ cd + 1))
    tileBad := s1.tileBad.filter (fun e => decide (e.1 * 64 / 2 ^ 32 ≠ cd + 1))
    zero := s1.zero.filter (fun z => decide (z.cd ≠ cd)) }

/-- Lines of DRAM that caches hold and whose home is on a die, with whether a copy is dirty. -/
def State.copiesAt (s : State) (cd : Nat) : List (Nat × Bool) :=
  (s.lines.filter (fun e =>
    let line := e.1 % 2 ^ 34
    decide (line < 2 ^ 33) && decide (s.home line = cd))).map (fun e => (e.1 % 2 ^ 34, e.2.st.dirty))

/-- The lines a lost-line list holds (R732). -/
def lostRoom : Nat := 65536

/-- R731 step 4: every other agent drops its copies of lines homed on a die; dirty lines enter the lost-line list, and
a list that overflows sets LOST_NEAR. -/
def State.dropCopies (s : State) (cd : Nat) : State :=
  let mine (line : Nat) : Bool := decide (line < 2 ^ 33) && decide (s.home line = cd)
  let gone := ((s.copiesAt cd).filter (fun e => e.2)).map Prod.fst
  let list := (Sparse.get (fun _ => []) s.lost cd ++ gone).eraseDups
  let s1 : State := { s with
    lines := s.lines.filter (fun e => !mine (e.1 % 2 ^ 34))
    subs := s.subs.filter (fun e => !mine e.1)
    dir := s.dir.filter (fun e => !mine e.1)
    red := s.red.filter (fun r => !mine r.line)
    miss := s.miss.filter (fun m => !mine m.line)
    lost := Sparse.set (fun _ => []) s.lost cd (list.take lostRoom) }
  if lostRoom < list.length then
    s1.setFld R.rasStat F.rasStat_lostNear (s1.fld R.rasStat F.rasStat_lostNear ||| 2 ^ cd)
  else s1

/-- R731: CDn leaves service; `code` is the reason of the record. -/
def State.dieLost (s : State) (cd code : Nat) : State :=
  if !s.cdUp cd then s
  else
    let s0 := (s.settleIdle cd).idleClear cd
    let s1 := (s0.endGroupsOf cd).syncLost cd
    let s2 := s1.dieReset (cd + 1)
    let s3 := s2.setDie (cd + 1) { s2.die (cd + 1) with out := true }
    let s4 := (s3.resolveLost ((upTo 8).map (fun k => 8 * cd + k) ++ [64 + cd])).1
    let s5 := ((s4.dieForget cd).dropCopies cd).wvDieGone cd
    let n := (Sparse.get (fun _ => []) s5.lost cd).length
    let s6 := s5.rasWrite { det 2 7 (cd + 1) 0 code with arg0 := Word.of n }
    ((s6.count R.rasCnt F.rasCnt_dieLosses 1).tell (.dieLost cd)).fbRecheck

/-! ## Onyx verifies an image (R654, R657) -/

/-- The field of SEC_SVN of a role's version; weave images carry none (R654). -/
def Role.svnFld : Role → Option Fld
  | .onyxFw => some F.secSvn_onyxFw
  | .hostFw => some F.secSvn_hostFw
  | .bobbinFw => some F.secSvn_bobbinFw
  | .debugUnlock => some F.secSvn_debugUnlock
  | .weave => none

/-- R654: whether a version is at or above the fused version of a role. -/
def State.svnOk (s : State) (role : Role) (v : Nat) : Bool :=
  match role.svnFld with | some f => decide (f.get s.onyx.fused ≤ v) | none => true

/-- R654: the version of a role that runs is noted, for COMMIT_SVN. -/
def State.runs (s : State) (role : Role) (v : Nat) : State :=
  match role.svnFld with
  | some f => { s with onyx := { s.onyx with running := f.set v s.onyx.running } }
  | none => s

/-- R653, R654: whether an image passes for a role: a trusted key, a version not below the fused one, and a signature. -/
def State.verifies (s : State) (role : Role) (x : FwFacts) : Bool :=
  s.svnOk role x.version.toNat && s.signed x.keyId role x.digest x.sigR x.sigS

/-- R657: a failed verification is logged, shown and counted. -/
def State.verifyFailed (s : State) (role : Role) (keyId : List Byte) : State :=
  ((s.audit 0x0011 0 0 (Word.of role.bit) (Word.of (ofBytes (keyId.take 8)))).count R.secCntLog F.secCntLog_verifyFails 1).secEvent
    F.secEvent_verifyFail

/-- R656 step 8: the firmware of HDn is verified, its slot extended, and M_SECURE set; whether it passed. -/
def State.verifyHost (s : State) (hd : Nat) : State × Bool :=
  match (s.die (9 + hd)).facts.fw with
  | none => (s.verifyFailed .hostFw [], false)
  | some x =>
    if s.verifies .hostFw x then
      ((((s.runs .hostFw x.version.toNat).extendMeas (4 + hd) x.digest).setFld (R.secure hd) F.secure_mSecure 1), true)
    else (s.verifyFailed .hostFw x.keyId, false)

/-! ## Entering service -/

/-- R401, R144: a die takes the map, ranges, partitions and regulators of the package copy. -/
def State.takePkg (s : State) (cd : Nat) : State :=
  s.pkg.foldl (fun (t : State) e => t.setReg (e.1 - cdBase 0 + cdBase cd) e.2) s

/-- R663: a die takes every loaded partition key and the save-area key. -/
def State.takeKeys (s : State) (cd : Nat) : State :=
  let s1 := (upTo 8).foldl (fun (t : State) p => if t.key p ≠ 0 then t.loadKeyAt cd p else t) s
  if s1.key 8 ≠ 0 then { s1 with sak := Sparse.set (fun _ => false) s1.sak cd true } else s1

/-- R732: the home of a die that returns acts on its lost-line list: listed lines are poisoned, or its stacks are
zeroized when the list had overflowed. -/
def State.actOnLost (s : State) (cd : Nat) : State :=
  let list := Sparse.get (fun _ => []) s.lost cd
  let near := s.fld R.rasStat F.rasStat_lostNear
  let s1 : State := { s with lost := Sparse.set (fun _ => []) s.lost cd [] }
  if near.testBit cd then
    let s2 := ((s1.zeroStart cd 0 dramSize none).zeroEnd cd).setReg (R.zeroCtrl cd) 0
    let s3 := s2.rasWrite { det 1 7 (cd + 1) 0 6 with arg0 := Word.of list.length }
    s3.setFld R.rasStat F.rasStat_lostNear (near - 2 ^ cd)
  else list.foldl (fun (t : State) line =>
    ((t.cwPoison (linePa line)).cwPoison (linePa line + 64)).setDir line .p 0 0) s1

/-- The code segments that the clusters of a die hold are written again (R591). -/
def State.rewriteCode (s : State) (cd : Nat) : State :=
  (((upTo 8).flatMap (fun k => (s.conf (cd * 8 + k)).kernels)).eraseDups).foldl (fun (t : State) k => (t.loadSegment k).1) s

/-- R732, R591, R663: a compute die enters service when its optical link has come up. A die that returns while a
commit runs waits. -/
def State.cdJoin (s : State) (cd : Nat) : State :=
  if s.cdUp cd then s
  else if 3 ≤ s.wvState then s.wait
  else
    let s1 := ((s.takePkg cd).takeKeys cd)
    let s2 := (upTo 2).foldl (fun (t : State) c => t.setFld (R.mcStat cd c) F.mcStat_trained 1) s1
    let s3a : State := { s2 with idleSince := Sparse.set (fun _ => 0) s2.idleSince cd s2.tick }
    let s3 := s3a.setDie (cd + 1) { s3a.die (cd + 1) with inService := true }
    let s4 := (s3.actOnLost cd).wvDieBack cd
    (((s4.rewriteCode cd).msiAll).fbRecheck)

/-- A host die enters service when its link has come up and Onyx has verified its firmware; one that fails stays in
reset (R656, R657). -/
def State.hdJoin (s : State) (hd : Nat) : State :=
  if s.up (9 + hd) then s
  else
    match s.verifyHost hd with
    | (s1, true) =>
      let s2 := s1.setDie (9 + hd) { s1.die (9 + hd) with inService := true }
      ((s2.showHosts).msiAll).absence
    | (s1, false) => s1.dieReset (9 + hd)

/-- A die enters service on its optical port. -/
def State.join (s : State) (port : Nat) : State := if port < 8 then s.cdJoin port else s.hdJoin (port - 8)

/-! ## Actions (R731, R732) -/

/-- RESET_CD. -/
def State.rasReset (s : State) (site : Nat) : State := if 1 ≤ site ∧ site ≤ 8 then s.dieLost (site - 1) 2 else s

/-- RELEASE_CD: the die may leave reset. -/
def State.rasRelease (s : State) (site : Nat) : State :=
  if 1 ≤ site ∧ site ≤ 8 then s.setDie site { s.die site with out := false } else s

end Sys2Proof.Machine
end

