-- ==== Sys2Proof/Machine/Links.lean ====
section
/-!
DEFINITION. Straps and enumeration, training and retraining of the package links, resends and laser sources (R16 to
R55, R724).
-/

namespace Sys2Proof.Machine

/-! ## Straps and enumeration (R16 to R21, R52, R54) -/

/-- The site type and fused kind of a site: hub 0, compute 1, host 2. -/
def siteKind (site : Nat) : Nat := if site = 0 then 0 else if site ≤ 8 then 1 else 2

/-- SITE_ID as a die reads it. -/
def DieFacts.siteId (x : DieFacts) : Nat := bits x.straps.toNat 0 4

/-- R17, R738: the first condition that a die's straps break: 1 parity, 2 invalid id, 3 type mismatch, 4 kind mismatch;
0 when the die accepts them. -/
def DieFacts.strapFault (x : DieFacts) : Nat :=
  let ones := ((upTo 7).filter (fun i => x.straps.getLsbD i)).length
  let id := x.siteId
  let typ := bits x.straps.toNat 4 2
  if ones % 2 = 0 then 1
  else if 10 < id then 2
  else if typ ≠ siteKind id then 3
  else if typ ≠ x.kind.toNat then 4
  else 0

/-- R51: whether a stepping is shipped for a die kind: 0x1 A1, 0x4 B0; the hub only as B0. -/
def steppingOk (kind : Nat) (st : BitVec 4) : Bool := decide (st = 4) || (decide (st = 1) && decide (kind ≠ 0))

/-- R738: ARG0 of a STRAP record. -/
def DieFacts.raw (x : DieFacts) : Word :=
  Word.of (x.straps.toNat + x.kind.toNat * 2 ^ 8 + x.stepping.toNat * 2 ^ 12 + x.caps.toNat * 2 ^ 16)

/-- A die's bit in DIE_HELD is set. -/
def State.showHeld (s : State) (site : Nat) : State :=
  s.setFld R.dieHeld F.dieHeld_held (s.fld R.dieHeld F.dieHeld_held ||| 2 ^ site)

/-- R18 to R20, R52, R54: a die is held, with a STRAP record. -/
def State.hold_ (s : State) (site code : Nat) (raw : Word) : State :=
  let s1 := s.setDie site { s.die site with held := true, released := false, accepted := false, admitted := false }
  (s1.showHeld site).rasWrite { det 2 1 site 0 code with arg0 := raw }

/-- The spindle leaves reset, or every die stays in it (R21, R52, R724). -/
def State.hubRelease (s : State) (x : DieFacts) : State :=
  let d : DieSt := { facts := x, released := true }
  if x.strapFault = 0 ∧ x.siteId = 0 ∧ steppingOk 0 x.stepping ∧ x.selfTest then
    s.setDie 0 { d with accepted := true, admitted := true, inService := true }
  else (s.setDie 0 { facts := x }).tell .bootFailed

/-- R17, R18, R724: a die's reset is released; it reads its straps and runs self-test. -/
def State.dieRelease (s : State) (site : Nat) (x : DieFacts) : State :=
  if site = 0 then s.hubRelease x
  else
    let d : DieSt := { facts := x, held := (s.die site).held }
    if !x.answers then s.setDie site d
    else if x.strapFault ≠ 0 then s.setDie site { d with released := true }
    else if !x.selfTest then
      let s1 := s.setDie site { d with held := true }
      (s1.showHeld site).rasWrite (det 2 7 site 0 5)
    else s.setDie site { d with released := true, accepted := true, held := false }

/-- Whether a die's reset may be released (R18, R21, R32, R657, R678, R680, R684). -/
def State.mayRelease (s : State) (site : Nat) : Bool :=
  let d := s.die site
  let sec := s.fld R.secStat F.secStat_state
  !d.released && !d.mute && !d.out && !d.inService && decide (sec ≠ 3) && decide (sec ≠ 4)
    && (decide (site < 9) || decide (sec ≠ 2)) && (decide (site = 0) || s.up 0)
    && (decide (s.pwr.phase = .starting) || decide (s.pwr.phase = .on))

/-- DIE_RESET_RELEASE (R17). -/
def dieResetRelease (site : Nat) (x : DieFacts) (s : State) : State :=
  if s.mayRelease site then (s.dieRelease site x).answer .ok else s.answer .refused

/-- R19, R20, R52, R54: the spindle checks a die's answer on its port. -/
def State.enumerate (s : State) (port : Nat) : State :=
  let site := port + 1
  let d := s.die site
  let x := d.facts
  let caps := s.fld R.capsPkg F.capsPkg_caps
  if !d.accepted then s.hold_ site x.strapFault x.raw
  else if x.siteId ≠ site then s.hold_ site 5 x.raw
  else if !steppingOk (siteKind site) x.stepping then s.hold_ site 6 x.raw
  else if caps &&& x.caps.toNat ≠ caps then s.hold_ site 7 x.raw
  else
    let s1 := s.setDie site { d with admitted := true, held := false }
    s1.setFld R.dieHeld F.dieHeld_held (s1.fld R.dieHeld F.dieHeld_held &&& (2 ^ 11 - 1 - 2 ^ site))

/-- ENUMERATION_ANSWER (R19). -/
def enumerationAnswer (port : Nat) (s : State) : State :=
  let d := s.die (port + 1)
  if d.released && !d.admitted && s.up 0 then (s.enumerate port).answer .ok else s.answer .refused

/-- R18: a port whose die gives no answer; it stays held until the next package reset. -/
def State.noAnswer (s : State) (port : Nat) : State :=
  let s1 := s.hold_ (port + 1) 8 0
  s1.setDie (port + 1) { s1.die (port + 1) with mute := true }

/-- ENUM_RESPONSE_TIMEOUT (R18). -/
def enumResponseTimeout (port : Nat) (s : State) : State :=
  let d := s.die (port + 1)
  if s.up 0 && !d.released && !d.held && !d.out then (s.noAnswer port).answer .ok else s.answer .refused

/-! ## The ends of a link -/

/-- An end of a link: false end a, true end b. -/
def LinkSt.atEnd (k : LinkSt) (b : Bool) : EndSt := if b then k.endB else k.endA

/-- Store an end. -/
def LinkSt.setEnd (k : LinkSt) (b : Bool) (e : EndSt) : LinkSt := if b then { k with endB := e } else { k with endA := e }

/-- The failed units at the receivers of an end. -/
def LinkSt.faultsAt (k : LinkSt) (b : Bool) : List UnitFault := if b then k.faults.b else k.faults.a

/-- An end named by a command. -/
def LinkEnd.side : LinkEnd → Bool
  | .a => false
  | .b => true

/-- Groups or waveguides of a link (R23). -/
def linkUnits (l : Nat) : Nat := if l < 8 then 4 else if l < 16 then 32 else 16

/-- Whether a die may train its links: out of reset, its straps accepted, and admitted on its port. -/
def State.trains (s : State) (site : Nat) : Bool :=
  let d := s.die site
  d.released && d.accepted && d.admitted && !d.held && !d.out

/-- Whether ENABLE lets a link train, at both ends of an edge link (R60, R65). -/
def State.linkEnabled (s : State) (l : Nat) : Bool :=
  if l < 8 then [false, true].all (fun b => let (cd, e) := edgeAt l b; s.flag (R.edgeCtrl cd e) F.edgeCtrl_enable)
  else s.flag (R.olCtrl (l - 8)) F.olCtrl_enable

/-- Whether a link may start an attempt. -/
def State.mayTrain (s : State) (l : Nat) : Bool :=
  s.trains (linkSite l false) && s.trains (linkSite l true) && s.linkEnabled l
    && (decide (l < 8) || decide (s.fld R.linkCtrl F.linkCtrl_laserNone = 0))

/-! ## Attempts (R36 to R41) -/

/-- An attempt begins: STATE is TRAINING, and the ends send their hellos. -/
def State.attempt (s : State) (l : Nat) (k : LinkSt) : State :=
  let fresh (e : EndSt) : EndSt := { e with helloOk := false, commitOk := false, good := 0 }
  let s1 := (s.setLnk l { k with phase := .hello, kick := false, endA := fresh k.endA, endB := fresh k.endB }).linkState l 1
  if l < 8 then s1
  else s1.setFld (R.olStat (l - 8)) F.olStat_trainCount (min 255 (s1.fld (R.olStat (l - 8)) F.olStat_trainCount + 1))

/-- Full initial training starts (R36). -/
def State.trainFull (s : State) (l : Nat) (faults : LinkFaults) : State :=
  s.attempt l { s.lnk l with full := true, fromService := false, fails := 0, faults := faults }

/-- R37, R39, R41, R45: a retrain of a link in service, or another try of a link that waits for RETRAIN. -/
def State.retrain (s : State) (l : Nat) : State :=
  let k := s.lnk l
  match k.phase with
  | .service => s.attempt l { k with full := false, fromService := true, fails := 0 }
  | .down =>
    if k.kick && s.mayTrain l then s.attempt l { k with full := !k.upSinceReset, fromService := false, fails := 0 } else s
  | _ => s

/-- What training will find at a link's receivers. -/
def State.setFaults (s : State) (l : Nat) (f : LinkFaults) : State := s.setLnk l { s.lnk l with faults := f }

/-- R32, R602: a link goes DOWN, and an optical link takes its far die out of service. -/
def State.linkLost (s : State) (l : Nat) (kick : Bool) : State :=
  let s1 := s.linkFall l kick (s.lnk l).upSinceReset
  if l < 8 then s1
  else
    let s2 := s1.tell (.linkDown l)
    if l < 16 then s2.dieLost (l - 8) 1
    else if s2.up (l - 7) then s2.hostReset (l - 16) 2 else s2

/-- R41: an attempt fails; the third in a row leaves the link DOWN. -/
def State.attemptFails (s : State) (l : Nat) : State :=
  let k := s.lnk l
  if 2 ≤ k.fails then s.linkLost l true else s.attempt l { k with fails := k.fails + 1 }

/-! ## Tests and agreement (R28 to R31, R40, R42) -/

/-- Spares per group or waveguide that an end counts on (R28 to R30, R51). -/
def State.sparesAt (s : State) (l : Nat) (b : Bool) : Nat :=
  let both := (s.die (linkSite l b)).facts.caps &&& ((s.lnk l).atEnd b).peerCaps
  if l < 8 then
    b2n (both.getLsbD 1 && [false, true].all (fun b => let (cd, e) := edgeAt l b; s.flag (R.edgeCtrl cd e) F.edgeCtrl_spareAuto))
  else if s.flag (R.olCtrl (l - 8)) F.olCtrl_spareAuto then (if both.getLsbD 3 then 2 else 1)
  else 0

/-- The failed units of a group at an end. -/
def LinkSt.fault (k : LinkSt) (b : Bool) (g : Nat) : Nat × Nat :=
  match (k.faultsAt b).find? (fun u => decide (u.group.val = g)) with
  | some u => (u.failed, u.spares)
  | none => (0, 0)

/-- R28, R30: whether an end finds a group or waveguide good, and the spares it puts in place. -/
def State.unitAt (s : State) (l : Nat) (b : Bool) (g : Nat) : Bool × Nat :=
  let (failed, bad) := (s.lnk l).fault b g
  if failed ≤ s.sparesAt l b - bad then (true, failed) else (false, 0)

/-- The groups or waveguides an end finds good. -/
def State.goodAt (s : State) (l : Nat) (b : Bool) : BitVec 32 :=
  (upTo (linkUnits l)).foldl (fun (m : BitVec 32) g => if (s.unitAt l b g).1 then m ||| BitVec.twoPow 32 g else m) 0

/-- Lanes or wavelengths that an end finds failed. -/
def LinkSt.failCount (k : LinkSt) (b : Bool) : Nat := ((k.faultsAt b).map (fun u => u.failed + u.spares)).sum

/-- R36 steps 3 and 4: both directions are tested, spares take the place of failed units, and the ends report. -/
def State.testLink (s : State) (l : Nat) : State :=
  let ga := s.goodAt l false
  let gb := s.goodAt l true
  let k := s.lnk l
  let used (g : Nat) : Nat := max (s.unitAt l false g).2 (s.unitAt l true g).2
  let s1 := s.setLnk l { k with phase := .agree, endA := { k.endA with good := ga }, endB := { k.endB with good := gb } }
  if l < 8 then
    let mask := (upTo 4).foldl (fun m g => m + if 0 < used g then 2 ^ g else 0) 0
    [false, true].foldl (fun (t : State) b =>
      let (cd, e) := edgeAt l b
      let a := R.edgeStat cd e
      let own := if b then gb else ga
      let peer := if b then ga else gb
      ((((t.setFld a F.edgeStat_localGood own.toNat).setFld a F.edgeStat_peerGood peer.toNat).setFld a F.edgeStat_spareUsed mask).count
        (R.edgeErr cd e) F.edgeErr_laneFail (k.failCount b))) s1
  else
    let word := (upTo (linkUnits l)).foldl (fun m g => m + min 2 (used g) * 4 ^ g) 0
    (s1.setReg (R.olSpare (l - 8)) (Word.of word)).count (R.olErr (l - 8)) F.olErr_wlFail (k.failCount false + k.failCount true)

/-- R42: three groups become two where an end lacks EDGE_W48. -/
def dropHighest (m : Nat) : Nat := m - (if m.testBit 3 then 8 else if m.testBit 2 then 4 else 0)

/-- The number of members of a set of groups or waveguides. -/
def setSize (m n : Nat) : Nat := ((upTo n).filter (fun i => m.testBit i)).length

/-- R40, R42: the active set as an end computes it. -/
def State.activeAt (s : State) (l : Nat) (b : Bool) : Nat :=
  let k := s.lnk l
  let both := (k.endA.good &&& k.endB.good).toNat
  if l < 8 then
    let mask (b : Bool) : Nat := let (cd, e) := edgeAt l b; s.fld (R.edgeCtrl cd e) F.edgeCtrl_groupMask
    let m := both &&& mask false &&& mask true
    let w48 := ((s.die (linkSite l b)).facts.caps &&& (k.atEnd b).peerCaps).getLsbD 2
    if setSize m 4 = 3 ∧ !w48 then dropHighest m else m
  else both

/-- R41: whether an active set lets a link into service. -/
def State.activeOk (s : State) (l m : Nat) : Bool :=
  decide (m ≠ 0) && (decide (l < 8) || decide (s.fld (R.olCtrl (l - 8)) F.olCtrl_minWg ≤ setSize m 32))

/-- R42: whether the width of an edge link was reduced. -/
def State.reduced (s : State) (l m : Nat) : Bool :=
  let k := s.lnk l
  let mask (b : Bool) : Nat := let (cd, e) := edgeAt l b; s.fld (R.edgeCtrl cd e) F.edgeCtrl_groupMask
  decide ((k.endA.good &&& k.endB.good).toNat &&& mask false &&& mask true ≠ m)

/-- R31, R36 step 6: a link enters service with an active set. -/
def State.linkUp (s : State) (l m : Nat) : State :=
  let k := s.lnk l
  let open_ (e : EndSt) : EndSt := { e with resends := 0, windowStart := s.tick }
  let s1 := s.setLnk l { k with
    phase := .service, full := false, fromService := false, upSinceReset := true, fails := 0,
    active := BitVec.ofNat 32 m, endA := open_ k.endA, endB := open_ k.endB }
  let n := setSize m (linkUnits l)
  let st := if n = linkUnits l then 2 else 3
  if l < 8 then
    let red := b2n (s.reduced l m)
    ([false, true].foldl (fun (t : State) b =>
      let (cd, e) := edgeAt l b
      let a := R.edgeStat cd e
      ((t.setFld a F.edgeStat_groupsActive m).setFld a F.edgeStat_width n).setFld a F.edgeStat_peerNoW48 red) s1).linkState l st
  else
    let s2 := ((s1.setFld (R.olStat (l - 8)) F.olStat_wgGood n).setReg (R.olWg (l - 8)) (Word.of m)).linkState l st
    s2.join (l - 8)

/-! ## Commands of training -/

/-- LINK_TRAINING (R36). -/
def linkTraining (l : Nat) (faults : LinkFaults) (s : State) : State :=
  let k := s.lnk l
  if k.phase = .down ∧ !k.kick ∧ s.mayTrain l then (s.trainFull l faults).answer .ok else s.answer .refused

/-- R38: the site id that an end's peer sent is shown, and whether the end rejected it. -/
def State.showPeer (s : State) (l : Nat) (b : Bool) (id : Nat) (bad : Bool) : State :=
  if l < 8 then
    let (cd, e) := edgeAt l b
    (s.setFld (R.edgeStat cd e) F.edgeStat_peerSite id).setFld (R.edgeStat cd e) F.edgeStat_peerMismatch (b2n bad)
  else
    let a := R.olStat (l - 8)
    if b then (if bad then s.setFld a F.olStat_peerMismatch 1 else s)
    else (s.setFld a F.olStat_peerSite id).setFld a F.olStat_peerMismatch (b2n bad)

/-- R36 step 2, R38: a hello arrives at an end. -/
def State.helloAt (s : State) (l : Nat) (b : Bool) (h : Hello) : State :=
  let bad := decide (h.siteId.toNat ≠ linkSite l (!b))
  let s1 := s.showPeer l b h.siteId.toNat bad
  if bad then s1.linkLost l true
  else
    let s2 := if 8 ≤ l ∧ !b then s1.setFld (R.olStat (l - 8)) F.olStat_peerSpare1 (b2n (!h.caps.getLsbD 3)) else s1
    let k := (s2.lnk l).setEnd b { (s2.lnk l).atEnd b with helloOk := true, peerCaps := h.caps }
    let s3 := s2.setLnk l k
    if k.endA.helloOk ∧ k.endB.helloOk then s3.testLink l else s3

/-- HELLO (R38). -/
def hello (l : Nat) (b : Bool) (h : Hello) (s : State) : State :=
  s.commit fun s =>
    let k := s.lnk l
    if k.phase = .hello ∧ !(k.atEnd b).helloOk then (s.helloAt l b h).answer .ok else s.answer .refused

/-- R40, R43: the peer's commit arrives at an end. -/
def State.commitAt (s : State) (l : Nat) (b : Bool) (set : Nat) : State :=
  let mine := s.activeAt l b
  if set ≠ mine ∨ !s.activeOk l mine then s.attemptFails l
  else
    let k := (s.lnk l).setEnd b { (s.lnk l).atEnd b with commitOk := true }
    let s1 := s.setLnk l k
    if k.endA.commitOk ∧ k.endB.commitOk then s1.linkUp l mine else s1

/-- WIDTH_COMMIT (R40). -/
def widthCommit (l : Nat) (b : Bool) (set : Nat) (s : State) : State :=
  s.commit fun s =>
    let k := s.lnk l
    if k.phase = .agree ∧ !(k.atEnd b).commitOk then (s.commitAt l b set).answer .ok else s.answer .refused

/-- TRAINING_STEP_TIMEOUT (R41). -/
def trainingStepTimeout (l : Nat) (s : State) : State :=
  s.commit fun s => if s.moving l then (s.attemptFails l).answer .ok else s.answer .refused

/-- The whole training of a link whose hellos are true and whose commits agree. -/
def State.trainThrough (s : State) (l : Nat) (faults : LinkFaults) : State :=
  if !s.mayTrain l then s
  else
    let say (site : Nat) : Hello :=
      let x := (s.die site).facts
      ⟨BitVec.ofNat 4 site, BitVec.ofNat 2 (siteKind site), x.stepping, x.caps⟩
    let s1 := ((s.trainFull l faults).helloAt l false (say (linkSite l true))).helloAt l true (say (linkSite l false))
    let tryOnce (t : State) : State :=
      if (t.lnk l).phase ≠ .agree then t
      else
        let m := t.activeAt l false
        (t.commitAt l true m)
    let again (t : State) : State :=
      if (t.lnk l).phase = .hello then
        (t.helloAt l false (say (linkSite l true))).helloAt l true (say (linkSite l false))
      else t
    let both (t : State) : State :=
      let u := tryOnce t
      if (u.lnk l).phase = .agree then u.commitAt l false (u.activeAt l true) else u
    both (again (both (again (both s1))))

/-! ## ENABLE (R60, R65) -/

/-- A write of ENABLE of optical link n. -/
def State.olEnable (s : State) (n : Nat) (en : Bool) : State :=
  let was := s.flag (R.olCtrl n) F.olCtrl_enable
  let s1 := s.setFld (R.olCtrl n) F.olCtrl_enable (b2n en)
  if en && !was then s1.setLnk (n + 8) { s1.lnk (n + 8) with kick := false }
  else if !en && was then s1.linkLost (n + 8) false else s1

/-- The edge link of an end's register. -/
def edgeLink (cd e : Nat) : Nat := if e = 1 then cd else (cd + 7) % 8

/-- A write of ENABLE of an edge link's end. -/
def State.edgeEnable (s : State) (cd e : Nat) (en : Bool) : State :=
  let l := edgeLink cd e
  let was := s.flag (R.edgeCtrl cd e) F.edgeCtrl_enable
  let s1 := s.setFld (R.edgeCtrl cd e) F.edgeCtrl_enable (b2n en)
  if en && !was then s1.setLnk l { s1.lnk l with kick := false }
  else if !en && was then s1.linkLost l false else s1

/-- RETRAIN_ALL (R59). -/
def State.retrainEvery (s : State) : State :=
  (upTo 10).foldl (fun (t : State) n => if (t.lnk (n + 8)).phase = .service then t.retrain (n + 8) else t) s

/-! ## Resends (R44, R46) -/

/-- FLIT_CRC_FAIL (R44). -/
def flitCrcFail (l : Nat) (b : Bool) (s : State) : State :=
  let k := s.lnk l
  if k.phase ≠ .service then s.answer .refused
  else
    let e := k.atEnd b
    let s1 := s.setLnk l (k.setEnd b { e with resends := e.resends + 1 })
    let s2 := if l < 8 then
        (let (cd, i) := edgeAt l b; s1.count (R.edgeErr cd i) F.edgeErr_crcRetry 1)
      else if b then s1 else s1.count (R.olErr (l - 8)) F.olErr_crcRetry 1
    s2.answer .ok

/-- RETRY_WINDOW_CLOSE (R46). -/
def retryWindowClose (l : Nat) (b : Bool) (faults : LinkFaults) (s : State) : State :=
  let k := s.lnk l
  if k.phase ≠ .service then s.answer .refused
  else
    let e := k.atEnd b
    let s1 := s.until (e.windowStart + ms)
    if 2 ^ 16 < e.resends then
      let k1 : LinkSt := { k with endA := { k.endA with resends := 0 }, endB := { k.endB with resends := 0 }, faults := faults }
      ((s1.setLnk l k1).retrain l).answer .ok
    else (s1.setLnk l (k.setEnd b { e with resends := 0, windowStart := e.windowStart + ms })).answer .ok

/-! ## Laser sources (R33 to R35) -/

/-- ROLE of a source: 0 standby, 1 active, 2 failed, 3 off. -/
def State.laserRole (s : State) (k : Nat) : Nat := s.fld (R.laser k) F.laser_role

/-- R34: a standby source comes up to full output. -/
def State.laserSwap (s : State) : State :=
  if !s.flag R.laserThr F.laserThr_autoSwap then s
  else match (upTo 4).find? (fun k => decide (s.laserRole k = 0)) with
    | some k => s.setFld (R.laser k) F.laser_role 1
    | none => s

/-- R35: how many sources are usable. -/
def State.laserUsable (s : State) : Nat := ((upTo 4).filter (fun k => decide (s.laserRole k ≠ 2))).length

/-- R35: with one source left an alarm is raised; with none every optical link goes DOWN. -/
def State.laserCheck (s : State) (k : Nat) : State :=
  let n := s.laserUsable
  let s1 := s.setFld R.linkCtrl F.linkCtrl_laserSingle (b2n (decide (n = 1)))
  if n = 1 then (s1.raise 0 6).tell (.laser k)
  else if n = 0 then
    (upTo 10).foldl (fun (t : State) i => if (t.lnk (i + 8)).phase = .down then t else t.linkLost (i + 8) false)
      (s1.setFld R.linkCtrl F.linkCtrl_laserNone 1)
  else s1

/-- LASER_AGEING (R33, R34). -/
def laserAgeing (k : Nat) (bias power ageing : Nat) (s : State) : State :=
  let a := R.laser k
  let old := s.fld a F.laser_ageing
  let s1 := ((s.setFld a F.laser_bias bias).setFld a F.laser_power power).setFld a F.laser_ageing ageing
  if s1.laserRole k ≠ 1 then s1.answer .ok
  else
    let warn := s1.fld R.laserThr F.laserThr_warnPct
    let s2 := if old < warn ∧ warn ≤ ageing then (s1.raise 0 5).tell (.laser k) else s1
    let standby := (upTo 4).any (fun j => decide (s2.laserRole j = 0))
    if s2.fld R.laserThr F.laserThr_swapPct ≤ ageing ∧ s2.flag R.laserThr F.laserThr_autoSwap ∧ standby then
      (s2.laserSwap.setFld a F.laser_role 3).answer .ok
    else s2.answer .ok

/-- LASER_FAILURE (R34, R35). -/
def laserFailure (k : Nat) (s : State) : State :=
  s.commit fun s =>
    let was := s.laserRole k
    if was = 2 then s.answer .refused
    else
      let s1 := if was = 1 then s.laserSwap else s
      ((s1.setFld (R.laser k) F.laser_role 2).laserCheck k).answer .ok

/-! ## Meanings -/

/-- DIE_RESET_RELEASE (R17). -/
def execDieResetRelease (site : Site) (facts : DieFacts) (s : State) : Out := s.run fun s => dieResetRelease site.val facts s
/-- ENUMERATION_ANSWER (R19). -/
def execEnumerationAnswer (port : Port) (s : State) : Out := s.run fun s => enumerationAnswer port.val s
/-- ENUM_RESPONSE_TIMEOUT (R18). -/
def execEnumResponseTimeout (port : Port) (s : State) : Out := s.run fun s => enumResponseTimeout port.val s
/-- LINK_TRAINING (R36). -/
def execLinkTraining (link : LinkId) (faults : LinkFaults) (s : State) : Out := s.run fun s => linkTraining link.ix faults s
/-- HELLO (R38). -/
def execHello (link : LinkId) (atEnd : LinkEnd) (peer : Hello) (s : State) : Out := s.run fun s => hello link.ix atEnd.side peer s
/-- WIDTH_COMMIT (R40). -/
def execWidthCommit (link : LinkId) (atEnd : LinkEnd) (peerSet : BitVec 32) (s : State) : Out :=
  s.run fun s => widthCommit link.ix atEnd.side peerSet.toNat s
/-- TRAINING_STEP_TIMEOUT (R41). -/
def execTrainingStepTimeout (link : LinkId) (s : State) : Out := s.run fun s => trainingStepTimeout link.ix s
/-- FLIT_CRC_FAIL (R44): the flit is resent; neither lost nor duplicated. -/
def execFlitCrcFail (link : LinkId) (sender : LinkEnd) (_flit : Nat) (s : State) : Out :=
  s.run fun s => flitCrcFail link.ix sender.side s
/-- RETRY_WINDOW_CLOSE (R46). -/
def execRetryWindowClose (link : LinkId) (atEnd : LinkEnd) (faults : LinkFaults) (s : State) : Out :=
  s.run fun s => retryWindowClose link.ix atEnd.side faults s
/-- LASER_AGEING (R34). -/
def execLaserAgeing (k : Fin 4) (bias power : BitVec 16) (ageing : BitVec 8) (s : State) : Out :=
  s.run fun s => laserAgeing k.val bias.toNat power.toNat ageing.toNat s
/-- LASER_FAILURE (R35). -/
def execLaserFailure (k : Fin 4) (s : State) : Out := s.run fun s => laserFailure k.val s

end Sys2Proof.Machine
end

