-- ==== Sys2Proof/Machine/Timing.lean ====
section
/-!
DEFINITION. Pace and its governor, the timebase's reference, arbitration at a hop, and the idle manager (R110 to
R125, R137 to R146, R690, R691).
-/

namespace Sys2Proof.Machine

/-! ## Pace and timebase -/

/-- The next multiple of a period of the timebase. -/
def State.nextEdge (s : State) (period : Nat) : Nat := (s.tick / period + 1) * period

/-- PACE_WINDOW (R110). -/
def paceWindow (d pace : Nat) (s : State) : State :=
  if s.up d then ((s.until (s.nextEdge 1000)).setFld (R.paceStat d) F.paceStat_pace pace).answer .ok else s.answer .refused

/-- REFERENCE_LOSS (R115). -/
def referenceLoss (s : State) : State :=
  if s.flag R.tbCtrl F.tbCtrl_holdover then s.answer .refused
  else (((s.setFld R.tbCtrl F.tbCtrl_refOk 0).setFld R.tbCtrl F.tbCtrl_holdover 1).rasWrite (det 0 8 0 0 1)).answer .ok

/-- HOLDOVER_EXIT (R116). -/
def holdoverExit (s : State) : State :=
  if s.flag R.tbCtrl F.tbCtrl_holdover then
    (((s.until (s.tick + ms)).setFld R.tbCtrl F.tbCtrl_holdover 0).setFld R.tbCtrl F.tbCtrl_refOk 1).answer .ok
  else s.answer .refused

/-! ## The governor -/

/-- The pace of 1.2 Gbeat/s, in units of 10 Mbeat/s. -/
def paceFloor : Nat := 120

/-- R690, R691: the package cap in force, in W. -/
def State.capW (s : State) : Nat :=
  let cap := s.fld R.paceCap F.paceCap_capW
  let d := s.fld R.pwrCool F.pwrCool_derateW
  if d = 0 then cap else min cap d

/-- R120: whether the package limit applies. -/
def State.capHit (s : State) (power : Nat) : Bool :=
  s.overpower || (decide (s.capW < power) && (s.flag R.paceCap F.paceCap_capEn || decide (s.fld R.pwrCool F.pwrCool_derateW ≠ 0)))

/-- What one evaluation decides for a die: its voltage, AT_CAP, AT_VMAX and TJ_LIMIT. -/
structure GovChoice where
  v : Nat
  atCap : Bool := false
  atVmax : Bool := false
  tjLimit : Bool := false
  deriving DecidableEq, Repr

/-- R118: a step of at most 10 mV toward a voltage, between 620 and 900 mV. -/
def vStep (v aim : Nat) : Nat := max 620 (min 900 (if v < aim then min aim (v + 10) else if aim < v then max aim (v - 10) else v))

/-- A step down that no cap takes below the floor of R121. -/
def vLower (v pace : Nat) : Nat := if pace ≤ paceFloor then v else vStep v (v - 10)

/-- R119, R120: the choice for a die with its junction temperature and power in units of 0.1 W. -/
def State.govern (s : State) (d power tj dieP : Nat) : GovChoice :=
  let ctl := R.paceCtrl d
  let st := R.paceStat d
  let v := s.fld st F.paceStat_vcore
  let pace := s.fld st F.paceStat_pace
  let mode := s.fld ctl F.paceCtrl_mode
  let dieCap := s.fld ctl F.paceCtrl_dieCapW
  let dieOver := decide (dieCap ≠ 0) && decide (dieCap * 10 < dieP)
  if s.fld R.paceCap F.paceCap_tjMax ≤ tj then { v := vLower v pace, tjLimit := true }
  else if s.capHit power ∧ mode ≤ 1 then { v := vLower v pace, atCap := true }
  else if dieOver then { v := vLower v pace, atCap := true }
  else match mode with
    | 0 =>
      let target := s.fld ctl F.paceCtrl_target
      if pace < target then { v := vStep v (v + 10), atVmax := decide (890 ≤ v) }
      else { v := if target < pace then vStep v (v - 10) else v }
    | 1 =>
      if s.capW < power then { v := vLower v pace, atCap := true }
      else if s.capW = power ∨ (dieCap ≠ 0 ∧ dieCap * 10 = dieP) then { v := v }
      else { v := vStep v (v + 10) }
    | _ => { v := vStep v (s.fld ctl F.paceCtrl_vset) }

/-- One die's evaluation. -/
def State.governDie (s : State) (d power tj dieP : Nat) : State :=
  if !s.up d then s
  else
    let g := s.govern d power tj dieP
    let a := R.paceStat d
    let s1 := if g.atCap && !s.flag a F.paceStat_atCap then s.raise 0 50 else s
    let s2 := ((s1.setFld a F.paceStat_vcore g.v).setFld a F.paceStat_tj tj).setFld a F.paceStat_power dieP
    ((s2.setFld a F.paceStat_atCap (b2n g.atCap)).setFld a F.paceStat_atVmax (b2n g.atVmax)).setFld a F.paceStat_tjLimit (b2n g.tjLimit)

/-- GOVERNOR_EVALUATION (R118 to R121). -/
def governorEvaluation (r : GovReadings) (s : State) : State :=
  let s1 := (s.until (s.nextEdge 10_000)).setFld R.paceCap F.paceCap_powerW r.power
  let s2 : State := if r.input < 5400 then { s1 with overpower := false } else s1
  (r.dies.zipIdx.foldl (fun (t : State) e => t.governDie e.2 r.power e.1.1 e.1.2) s2).answer .ok

/-! ## Arbitration -/

/-- An arbiter. -/
def State.hop (s : State) (h : Nat) : HopSt := Sparse.get (fun _ => {}) s.hops h

/-- R125: how many grants to higher classes the P3 request at the head of an input has watched. -/
def HopSt.watched (k : HopSt) (input : Nat) : Nat := Sparse.get (fun _ => 0) k.seen input

/-- R124: the rank of a request: P0 0, P1 1, P2 and promoted P3 2, P3 3. -/
def HopSt.rank (k : HopSt) (guard : Nat) (r : HopRequest) : Nat :=
  if r.cls.val = 3 ∧ guard ≤ k.watched r.input then 2 else r.cls.val

/-- R124: the rank that the arbiter grants. -/
def HopSt.grantRank (k : HopSt) (guard : Nat) (alt : Bool) (ws : List HopRequest) : Nat :=
  let has (n : Nat) : Bool := ws.any (fun r => decide (k.rank guard r = n))
  if has 0 then 0
  else if has 1 ∧ !(alt && k.lastP1 && has 2) then 1
  else if has 2 then 2
  else 3

/-- Round robin: the first request after the input granted last in the rank. -/
def roundRobin (last : Option Nat) (ws : List HopRequest) : Option HopRequest :=
  let least (l : List HopRequest) : Option HopRequest :=
    l.foldl (fun (b : Option HopRequest) r => match b with
      | some x => if r.input < x.input then some r else b
      | none => some r) none
  match last with
  | none => least ws
  | some n =>
    match least (ws.filter (fun r => decide (n < r.input))) with
    | some r => some r
    | none => least ws

/-- R124, R125: an arbiter after it has granted a request among those that wait. -/
def HopSt.after (k : HopSt) (rank : Nat) (r : HopRequest) (ws : List HopRequest) : HopSt :=
  let p3 := ws.filter (fun x => decide (x.cls.val = 3) && decide (x ≠ r))
  { lastP1 := decide (r.cls.val = 1)
    last := Sparse.set (fun _ => 0) k.last rank (r.input + 1)
    seen := p3.foldl (fun (m : Sparse Nat) x =>
      Sparse.set (fun _ => 0) m x.input (k.watched x.input + (if r.cls.val < 3 then 1 else 0))) [] }

/-- TRANSFER_GRANT (R124, R125): the answer names the input granted and its class. -/
def transferGrant (h : Nat) (ws : List HopRequest) (s : State) : State :=
  let k := s.hop h
  let guard := s.fld R.classCfg F.classCfg_p3Guard
  let rank := k.grantRank guard (s.flag R.classCfg F.classCfg_p1Alt) ws
  let last := match Sparse.get (fun _ => 0) k.last rank with | 0 => none | n + 1 => some n
  match roundRobin last (ws.filter (fun r => decide (k.rank guard r = rank))) with
  | none => s.answer .refused
  | some r =>
    ({ s with hops := Sparse.set (fun _ => {}) s.hops h (k.after rank r ws) } : State).answer .ok [Word.of r.input, Word.of r.cls.val]

/-! ## Next events -/

/-- The WAIT entry of a group's instruction (R573). -/
def State.waitEnt (s : State) (c : Nat) (x : Group) : Option SchedEnt :=
  (s.conf (coreCl c)).sched.find? (fun e => decide (e.kind = 0) && decide (e.kernel = x.kernel.toNat) && decide (e.pc * 8 = x.pc.toNat))

/-- The least of some ticks. -/
def leastOf (l : List Nat) : Option Nat :=
  l.foldl (fun (b : Option Nat) t => match b with | some x => some (min x t) | none => some t) none

/-- R139: the next arrival at a doorbell: the last one plus the least interval of the last eight. -/
def nextBell (arrivals : List Nat) : Option Nat :=
  match arrivals with
  | last :: rest =>
    match leastOf (((arrivals.zip rest).take 8).map (fun p => p.1 - p.2)) with
    | some d => some (last + d)
    | none => none
  | [] => none

/-- R134: the timeouts armed for the groups of a core. -/
def State.coreDeadlines (s : State) (c : Nat) : List Nat :=
  let mine (w : WaiterRef) : Bool := match w with
    | .group g => decide (g.core.val = c)
    | .lane g _ => decide (g.core.val = c)
    | .ring _ => false
  s.sync.flatMap (fun e => e.2.queue.filterMap (fun w => if mine w.who then w.deadline else none))
    ++ (s.core c).blocks.flatMap (fun e => e.2.waiting.filterMap (fun w => w.deadline))

/-- R139: the next known event of a core. -/
def State.coreEvent (s : State) (c : Nat) : Option Nat :=
  let waits := ((s.core c).groups.map Prod.snd).filterMap (fun x =>
    if x.resident then (s.waitEnt c x).map (fun e => s.tick + e.arg) else none)
  let bells := ((s.conf (coreCl c)).sched.filter (fun e => decide (e.kind = 3))).filterMap (fun e =>
    nextBell (Sparse.get (fun _ => []) s.bells (e.arg % 2 ^ 16)))
  leastOf (waits ++ s.coreDeadlines c ++ bells)

/-- The earliest of the events of some cores. -/
def State.eventOf (s : State) (cs : List Nat) : Option Nat := leastOf (cs.filterMap s.coreEvent)

/-! ## Conditions -/

/-- A core has reached I0: no group of it can go on. -/
def State.coreQuiet (s : State) (c : Nat) : Bool :=
  ((s.core c).groups.map Prod.snd).all (fun x => !x.resident || x.halt.isSome || decide (x.wait ≠ .none))
    && (s.core c).tblLoad.isNone

/-- R138, I2: every resident group waits at an instruction marked operand-cache-dead. -/
def State.cacheDead (s : State) (c : Nat) : Bool :=
  (s.core c).residents.all (fun x => match s.waitEnt c x with | some e => e.cacheDead | none => false)

/-- R138, I3: the tile memory is dead: the groups of the cluster all wait at instructions marked so. -/
def State.tileDead (s : State) (cl : Nat) : Bool :=
  let gs := s.groupsOf cl
  !gs.isEmpty && gs.all (fun g => match s.waitEnt g.1 g.2.2 with | some e => e.tileDead | none => false)

/-- The sixteen cores of a cluster. -/
def coresOf (cl : Nat) : List Nat := (upTo 16).map (fun m => cl * 16 + m)

/-- R138, I3. -/
def State.mayI3 (s : State) (cl : Nat) : Bool :=
  (coresOf cl).all (fun c => decide (s.slept c = 2) && !s.waking.contains c)
    && (decide (s.tileSize cl = 0) || s.tileDead cl)

/-- R138, I4: all clusters in I3, and no pending work of engines, home agent or synchronization unit. -/
def State.mayI4 (s : State) (cd : Nat) : Bool :=
  (upTo 8).all (fun k => s.inI3 (cd * 8 + k) && !s.waking.contains (clUnit (cd * 8 + k)))
    && (upTo 16).all (fun k => let e := s.seSt (cd * 16 + k)
        let r := seRefOf (cd * 16 + k)
        e.queue.isEmpty && e.fetching.isNone && decide (s.fld r.db F.seDb_fetch = s.fld r.db F.seDb_prod))
    && s.miss.all (fun m => decide (s.home m.line ≠ cd)) && s.red.all (fun r => decide (s.home r.line ≠ cd))
    && s.zero.all (fun z => decide (z.cd ≠ cd))
    && s.sync.all (fun e => decide (e.1 / 2048 ≠ cd) || e.2.queue.isEmpty)

/-- R137: break-even and wake of a state in ticks. -/
def idleTimes : Nat → Nat × Nat
  | 1 => (1_600, 400)
  | 2 => (24_000, 6_000)
  | 3 => (300_000, 60_000)
  | 4 => (20_000_000, 3_000_000)
  | _ => (0, 0)

/-- R140, R141, R138: whether a state fits the next event of a unit of a die. -/
def State.fits (s : State) (cd st : Nat) (ev : Option Nat) : Bool :=
  decide (st ≤ s.fld (R.idleDie cd) F.idleDie_maxState) && (match ev with
    | none => decide (st ≤ s.fld R.idleCtrl F.idleCtrl_unknownMax)
    | some e => decide (s.fld R.idleCtrl F.idleCtrl_margin * ((idleTimes st).1 + (idleTimes st).2) ≤ 16 * (e - s.tick)))

/-! ## Entries -/

/-- A core enters I1 or I2; in I2 the merging buffer has drained. -/
def State.coreEnter (s : State) (c : Nat) : State :=
  let cd := coreCd c
  let ev := s.coreEvent c
  if s.coreIdle c ≠ 0 ∨ s.waking.contains c ∨ !s.coreQuiet c then s.answer .refused
  else if s.fits cd 2 ev ∧ s.cacheDead c then
    (((s.settleIdle cd).drainAll c).setSlept c 2).answer .ok [2]
  else if s.fits cd 1 ev then ((s.settleIdle cd).setSlept c 1).answer .ok [1]
  else s.answer .ok [0]

/-- A cluster enters I3; its L2 is cleaned. -/
def State.clusterEnter (s : State) (cl : Nat) : State :=
  let cd := cl / 8
  if s.inI4 cd ∨ s.inI3 cl then s.answer .refused
  else if s.mayI3 cl ∧ s.fits cd 3 (s.eventOf (coresOf cl)) then
    (((s.settleIdle cd).cleanAll cl).setI3 cl true).answer .ok [3]
  else s.answer .ok [0]

/-- SELF_REFRESH of the controllers of a die. -/
def State.selfRefresh (s : State) (cd : Nat) (on : Bool) : State :=
  (upTo 2).foldl (fun (t : State) c => t.setFld (R.mcStat cd c) F.mcStat_selfRefresh (b2n on)) s

/-- A compute die enters I4. -/
def State.dieEnter (s : State) (cd : Nat) : State :=
  if s.inI4 cd then s.answer .refused
  else if s.mayI4 cd ∧ s.fits cd 4 (s.eventOf ((upTo 128).map (fun i => cd * 128 + i))) then
    (((s.settleIdle cd).setFld (R.idleDie cd) F.idleDie_dieState 4).selfRefresh cd true).answer .ok [4]
  else s.answer .ok [0]

/-- The die of a unit. -/
def unitCd : IdleUnit → Nat
  | .core c => coreCd c.val
  | .cluster cl => cl.val / 8
  | .die cd => cd.val

/-- IDLE_ENTRY (R138 to R141, R146). The answer is the state entered, 0 where none fits. -/
def idleEntry (u : IdleUnit) (s : State) : State :=
  s.commit fun s =>
    if !s.cdUp (unitCd u) then s.answer .refused
    else if !s.flag R.idleCtrl F.idleCtrl_enable then s.answer .ok [0]
    else match u with
      | .core c => s.coreEnter c.val
      | .cluster cl => s.clusterEnter cl.val
      | .die cd => s.dieEnter cd.val

/-! ## Wakes -/

/-- `n` bytes that nothing fixes, as a sparse array from `base` on. -/
def State.freeBytes (s : State) (base n : Nat) : Sparse Byte :=
  (upTo n).filterMap (fun i =>
    let b : Byte := BitVec.ofNat 8 (Config.free (s.drawn + i))
    if b = 0 then none else some (base + i, b))

/-- R137: a core loses its operand cache, accumulator memory and L1. -/
def State.coreLose (s : State) (c : Nat) : State :=
  let k := s.core c
  let opc := s.freeBytes 0 opcSize
  let s1 := s.drawN opcSize
  let acc := s1.freeBytes 0 accSize
  (s1.drawN accSize).setCore c { k with opc := opc, acc := acc, opcBad := [], accBad := [], l1 := [] }

/-- R137: a cluster loses its L2 and tile memory. -/
def State.clusterLose (s : State) (cl : Nat) : State :=
  let n := s.tileSize cl
  let base := (cl / 8 + 1) * 2 ^ 32 + cl % 8 * 2 ^ 24
  let s0 := s.tileClear cl
  let mine := s0.freeBytes base n
  let s1 : State := { s0 with
    tile := s0.tile.filter (fun e => decide (e.1 < base)) ++ mine ++ s0.tile.filter (fun e => decide (base ≤ e.1)) }
  (s1.drawN n).clearHolder cl

/-- R137, R145: a die loses the contents of its cores, caches and walkers. -/
def State.dieLose (s : State) (cd : Nat) : State :=
  let s1 := (upTo 128).foldl (fun (t : State) i => t.coreLose (cd * 128 + i)) s
  let s2 := (upTo 8).foldl (fun (t : State) k => t.clusterLose (cd * 8 + k)) s1
  { s2 with
    walk := s2.walk.filter (fun e => decide (e.1 / 8 ≠ cd) && decide (e.1 ≠ 64 + cd))
    lines := s2.lines.filter (fun e => decide (e.1 / 2 ^ 34 ≠ 64 + cd))
    cores := s2.cores.map (fun e => if e.1 / 128 = cd then (e.1, { e.2 with tlb := [] }) else e) }

/-- R142: an entry is abandoned. -/
def State.abandon (s : State) (cd : Nat) : State := s.count (R.idleAbort cd) F.idleAbort_aborts 1

/-- IDLE_WAKE_START (R140, R142): before the point of no return the entry is abandoned; after it what the state loses
is lost and the full wake follows. -/
def idleWakeStart (u : IdleUnit) (before : Bool) (s : State) : State :=
  let cd := unitCd u
  let s0 := s.settleIdle cd
  match u with
  | .core c =>
    if s.slept c.val = 0 ∨ s.coreIdle c.val ≠ s.slept c.val ∨ s.waking.contains c.val then s.answer .refused
    else if before then ((s0.setSlept c.val 0).abandon cd).answer .ok
    else ((if s.slept c.val = 2 then s0.coreLose c.val else s0).setWaking c.val true).answer .ok
  | .cluster cl =>
    if !s.inI3 cl.val ∨ s.inI4 cd ∨ s.waking.contains (clUnit cl.val) then s.answer .refused
    else if before then ((s0.setI3 cl.val false).abandon cd).answer .ok
    else ((s0.clusterLose cl.val).setWaking (clUnit cl.val) true).answer .ok
  | .die n =>
    if !s.inI4 n.val ∨ s.waking.contains (dieUnit n.val) then s.answer .refused
    else if before then (((s0.setFld (R.idleDie n.val) F.idleDie_dieState 0).selfRefresh n.val false).abandon cd).answer .ok
    else ((s0.dieLose n.val).setWaking (dieUnit n.val) true).answer .ok

/-- R145: a die that has woken takes the package copy, the keys and the active configuration. -/
def State.dieWoken (s : State) (cd : Nat) : State :=
  let s1 := ((s.idleClear cd).selfRefresh cd false).takePkg cd
  ((s1.takeKeys cd).wvDieBack cd).rewriteCode cd

/-- The cores of a cluster that has woken are in I0. -/
def State.clusterWoken (s : State) (cl : Nat) : State :=
  let s1 := (coresOf cl).foldl (fun (t : State) c => (t.coreLose c).setSlept c 0) s
  (s1.setI3 cl false).setWaking (clUnit cl) false

/-- IDLE_WAKE_COMPLETE (R137, R145). -/
def idleWakeComplete (u : IdleUnit) (s : State) : State :=
  s.commit fun s =>
    let s0 := s.settleIdle (unitCd u)
    match u with
    | .core c =>
      if !s.waking.contains c.val then s.answer .refused else ((s0.setSlept c.val 0).setWaking c.val false).answer .ok
    | .cluster cl =>
      if !s.waking.contains (clUnit cl.val) then s.answer .refused else (s0.clusterWoken cl.val).tileRetry.answer .ok
    | .die n =>
      if !s.waking.contains (dieUnit n.val) then s.answer .refused
      else (s0.dieWoken n.val).tileRetry.answer .ok

/-- I4_WAKE_TIMEOUT (R144). -/
def i4WakeTimeout (cd : Nat) (s : State) : State :=
  if s.cdUp cd ∧ s.waking.contains (dieUnit cd) then (s.dieLost cd 4).answer .ok else s.answer .refused

/-! ## Meanings -/

/-- PACE_WINDOW (R110). -/
def execPaceWindow (site : Site) (pace : Nat) (s : State) : Out := s.run fun s => paceWindow site.val pace s
/-- REFERENCE_LOSS (R115). -/
def execReferenceLoss (s : State) : Out := s.run fun s => referenceLoss s
/-- HOLDOVER_EXIT (R116). -/
def execHoldoverExit (s : State) : Out := s.run fun s => holdoverExit s
/-- GOVERNOR_EVALUATION (R120). -/
def execGovernorEvaluation (r : GovReadings) (s : State) : Out := s.run fun s => governorEvaluation r s
/-- TRANSFER_GRANT (R124). -/
def execTransferGrant (hop : Nat) (waiting : List HopRequest) (s : State) : Out := s.run fun s => transferGrant hop waiting s
/-- IDLE_ENTRY (R140). -/
def execIdleEntry (u : IdleUnit) (s : State) : Out := s.run fun s => idleEntry u s
/-- IDLE_WAKE_START (R142). -/
def execIdleWakeStart (u : IdleUnit) (beforeNoReturn : Bool) (s : State) : Out := s.run fun s => idleWakeStart u beforeNoReturn s
/-- IDLE_WAKE_COMPLETE (R137). -/
def execIdleWakeComplete (u : IdleUnit) (s : State) : Out := s.run fun s => idleWakeComplete u s
/-- I4_WAKE_TIMEOUT (R144). -/
def execI4WakeTimeout (cd : Cd) (s : State) : Out := s.run fun s => i4WakeTimeout cd.val s

end Sys2Proof.Machine
end

