-- ==== Sys2Proof/Machine/Security.lean ====
section
/-!
DEFINITION. Onyx: the package reset, the host mailbox, attestation, the JTAG port with debug unlock, and the tamper
response (R651, R654, R658 to R666, R674 to R684).
-/

namespace Sys2Proof.Machine

/-! ## Package reset -/

/-- A package reset (R114, R617, R651, R654, R672, R729): every register and every volatile state of the dies takes its
reset value and every key is gone. What DRAM holds stays as ciphertext; the persistent store with the audit log and the
save slots, the fuses, Beryl's own memory and the supply stay. -/
def State.pkgReset (s : State) : State :=
  let x := s.onyx
  let onyx : OnyxSt := {
    log := x.log, logPending := x.logPending, logOpen := x.logOpen, logNext := x.logNext, boots := x.boots
    revoked := x.revoked, nextKey := x.nextKey, fused := x.fused, store := x.store, fuse := x.fuse, slots := x.slots
    saves := x.saves }
  let pwr : PwrSt := { s.pwr with phase := .starting, save := none, list := [] }
  { State.reset with
    drawn := s.drawn, resp := s.resp, hold := s.hold, onyx := onyx, dram := s.dram, tags := s.tags, bad := s.bad, zeroed := s.zeroed
    marked := s.marked, pwr := pwr, told := s.told, pending := s.pending }

/-! ## Free bytes -/

/-- `n` bytes that no rule fixes; the counter is then to be advanced by `n`. -/
def State.freeList (s : State) (n : Nat) : List Byte := (upTo n).map (fun i => BitVec.ofNat 8 (Config.free (s.drawn + i)))

/-- Put 48 free bytes into a measurement slot: the spec does not fix the bytes of the value. -/
def State.freeMeas (s : State) (m : Nat) : State := (s.setMeas m (s.freeList 48)).drawN 48

/-! ## Attestation (R655, R658 to R661) -/

/-- STATE of SEC_STAT. -/
def State.secState (s : State) : Nat := s.fld R.secStat F.secStat_state

/-- Byte `i` of a message. -/
def byteAt (bs : List Byte) (i : Nat) : Nat := (bs.getD i 0).toNat

/-- A DMTF SPDM error response with its code. -/
def spdmError (req : List Byte) (code : Nat) : List Byte := [req.getD 0 0, 0x7F, BitVec.ofNat 8 code, 0]

/-- R655: the measurement block of slot m, index m + 1: DMTF specification, a raw digest of 48 bytes. -/
def State.measBlock (s : State) (m : Nat) : List Byte :=
  [BitVec.ofNat 8 (m + 1), 1] ++ toBytes 2 51 ++ [0] ++ toBytes 2 48 ++ s.meas m

/-- The slots a GET_MEASUREMENTS asks for: index 0 none, 0xFF all. -/
def measAsked (i : Nat) : List Nat := if i = 0xFF then upTo 16 else if 1 ≤ i ∧ i ≤ 16 then [i - 1] else []

/-- The answer to GET_MEASUREMENTS: the blocks, a nonce and, when it is asked for, a signature; these two are free. -/
def State.spdmMeas (s : State) (req : List Byte) (signed : Bool) : State × List Byte :=
  let ms := measAsked (byteAt req 3)
  let blocks := ms.flatMap s.measBlock
  let head : List Byte := [req.getD 0 0, 0x60, if byteAt req 3 = 0 then 16 else 0, 0, BitVec.ofNat 8 ms.length]
  let n := if signed then 128 else 32
  let tail := s.freeList n
  (s.drawN n, head ++ toBytes 3 blocks.length ++ blocks ++ tail.take 32 ++ toBytes 2 0 ++ tail.drop 32)

/-- Any other answer: its first four bytes and a free rest of free length. -/
def State.spdmOther (s : State) (req : List Byte) : State × List Byte :=
  let n := s.free % 1021
  let s1 := s.draw
  (s1.drawN n, [req.getD 0 0, BitVec.ofNat 8 (byteAt req 1 % 128), 0, 0] ++ s1.freeList n)

/-- R673: a session opened or refused; the codes of transport and status are free. -/
def State.auditSession (s : State) : State := (s.draw.draw).audit 0x0020 0 0 (Word.of s.free) (Word.of s.draw.free)

/-- A request answered with an error (R686). -/
def State.spdmFails (s : State) (req : List Byte) (code : Nat) : State × List Byte :=
  let s1 := s.count R.secCntAuth F.secCntAuth_spdmErr 1
  (if byteAt req 1 = 0xE4 then s1.auditSession else s1, spdmError req code)

/-- R659, R661, R684: an SPDM request on a transport: its answer. -/
def State.spdm (s : State) (transport : Nat) (req : List Byte) : State × List Byte :=
  let st := s.secState
  let code := byteAt req 1
  let signed := decide (code = 0xE0) && decide (byteAt req 2 % 2 = 1)
  let opened := s.onyx.sessions.getD transport false
  if byteAt req 0 / 16 ≠ 1 then
    if opened then
      let n := s.free % 1025
      let s1 := s.draw
      let s2 := s1.drawN (n + 1)
      let keep := decide (Config.free (s1.drawn + n) % 2 = 0)
      ({ s2 with onyx := { s2.onyx with sessions := s2.onyx.sessions.set transport keep } }, s1.freeList n)
    else (s.count R.secCntAuth F.secCntAuth_spdmErr 1, [])
  else if 2 ≤ st ∧ (code = 0x83 ∨ code = 0xE4 ∨ signed) then s.spdmFails req 0x04
  else if st = 3 ∧ code ≠ 0x84 ∧ code ≠ 0xE1 ∧ code ≠ 0xE0 then s.spdmFails req 0x04
  else if code = 0xE6 ∨ code = 0xE7 ∨ code = 0xED ∨ code = 0xEE ∨ code = 0xFC ∨ code = 0x87 then s.spdmFails req 0x07
  else if code = 0xE0 then s.spdmMeas req signed
  else if code = 0xE4 then
    if opened then s.spdmFails req 0x0A
    else
      let s1 : State := { s with onyx := { s.onyx with sessions := s.onyx.sessions.set transport true } }
      s1.auditSession.spdmOther req
  else s.spdmOther req

/-- Bytes as the doublewords of an answer. -/
def bytesWords (bs : List Byte) : List Word := wordsOf ((bs.length + 7) / 8) (ofBytes bs)

/-- SPDM_MCTP (R660): a message that Beryl relays. -/
def spdmMctp (req : List Byte) (s : State) : State :=
  match s.spdm 0 req with
  | (s1, out) => s1.answer .ok (bytesWords out)

/-! ## The host mailbox (R665, R666) -/

/-- Where the mailbox lies. -/
def State.mboxAt (s : State) : Nat := s.fld R.mboxAddr F.mboxAddr_addr * 4096

/-- A request ends: the response is written, BUSY clears and MBOX_DONE is set. -/
def State.mboxEnd (s : State) (typ status : Nat) (payload : List Byte) : State :=
  let head := toBytes 8 (typ + status % 2 ^ 16 * 2 ^ 16 + payload.length * 2 ^ 32)
  let s1 := s.putBytes 0 .onyx (s.mboxAt + 0x1000) (head ++ payload)
  (({ s1 with onyx := { s1.onyx with mbox := none } } : State).setFld R.mboxCtrl F.mboxCtrl_busy 0).secEvent F.secEvent_mboxDone

/-- TYPE and LENGTH of a request. -/
def mboxTyp (req : List Byte) : Nat := ofBytes (req.take 2)

/-- The payload of a request. -/
def mboxLoad (req : List Byte) : List Byte := (req.drop 8).take (ofBytes ((req.drop 4).take 4))

/-- R665, R666: the status with which a request ends at once, when it does. -/
def State.mboxRefuses (s : State) (req : List Byte) : Option Nat :=
  let typ := mboxTyp req
  let load := mboxLoad req
  let secure := s.flag R.mboxCtrl F.mboxCtrl_secureReq
  if s.secState = 3 then some 4
  else if typ = 0 ∨ 4 < typ then some 1
  else if 4088 < ofBytes ((req.drop 4).take 4) then some 3
  else if typ = 2 ∧ (load.length ≠ 16 ∨ ofBytes (load.drop 8) = 0 ∨ 63 < ofBytes (load.drop 8)) then some 3
  else if 3 ≤ typ ∧ s.secState = 2 then some 5
  else if 3 ≤ typ ∧ !secure then some 2
  else none

/-- A write of GO: Onyx reads the request. -/
def State.mboxGo (s : State) (secure : Bool) : State :=
  if s.flag R.mboxCtrl F.mboxCtrl_busy then s.setFld R.mboxCtrl F.mboxCtrl_refused 1
  else
    let s1 := (s.setFld R.mboxCtrl F.mboxCtrl_busy 1).setFld R.mboxCtrl F.mboxCtrl_secureReq (b2n secure)
    let poisoned (t : State) : State :=
      (t.rasWrite { det 1 6 0 0 1 with consumed := true, arg0 := 9 }).mboxEnd 0 6 []
    match s1.getBytes 0 .onyx s1.mboxAt 8 with
    | (s2, none, _) => s2.draw.mboxEnd 0 s2.free []
    | (s2, some _, true) => poisoned s2
    | (s2, some head, false) =>
      match s2.getBytes 0 .onyx s2.mboxAt (8 + min 4088 (ofBytes (head.drop 4))) with
      | (s3, none, _) => s3.draw.mboxEnd (mboxTyp head) s3.free []
      | (s3, some _, true) => poisoned s3
      | (s3, some req, false) =>
        match s3.mboxRefuses req with
        | some st => s3.mboxEnd (mboxTyp req) st []
        | none => { s3 with onyx := { s3.onyx with mbox := some req } }

/-- Onyx serves the request in progress when it is of a type. -/
def State.mboxServe (s : State) (typ : Nat) (f : State → List Byte → State) : State :=
  s.commit fun s =>
    match s.onyx.mbox with
    | none => s.answer .refused
    | some req => if mboxTyp req = typ then (f s (mboxLoad req)).answer .ok else s.answer .refused

/-- SPDM (R660, R665). -/
def mboxSpdm (s : State) : State :=
  s.mboxServe 1 fun s load =>
    match s.spdm 1 load with
    | (s1, out) => s1.mboxEnd 1 0 (out.take 4088)

/-- LOG_READ (R665). -/
def mboxLogRead (s : State) : State :=
  s.mboxServe 2 fun s load =>
    let from_ := ofBytes (load.take 8)
    let n := ofBytes (load.drop 8)
    let es := s.onyx.log.filter (fun e => decide (from_ ≤ e.seq) && decide (e.seq < from_ + n))
    s.mboxEnd 2 0 (es.flatMap LogEntry.bytes)

/-- R654: fused versions rise to the running ones, and the listed revocations are fused. -/
def State.commitSvn (s : State) : State :=
  let x := s.onyx
  let up (w : Word) (f : Fld) : Word := f.set (max (f.get w) (f.get x.running)) w
  let fused := [F.secSvn_onyxFw, F.secSvn_hostFw, F.secSvn_bobbinFw, F.secSvn_debugUnlock, F.secSvn_manifest].foldl up x.fused
  let listed : BitVec 16 := match x.store with | some m => m.manifest.listed | none => 0
  let revoked := x.revoked ||| listed
  ({ s with onyx := { x with fused := fused, revoked := revoked } } : State).audit 0x0016 0 0 fused (Word.of revoked.toNat)

/-- COMMIT_SVN (R654). -/
def mboxCommitSvn (s : State) : State := s.mboxServe 3 fun s _ => s.commitSvn.mboxEnd 3 0 []

/-- The sealed critical set is erased. -/
def State.eraseSlots (s : State) : State := { s with onyx := { s.onyx with slots := [none, none] } }

/-- ZEROIZE_ALL (R664). -/
def mboxZeroizeAll (s : State) : State :=
  s.mboxServe 4 fun s _ =>
    let s1 := (s.zeroAll (0, dramSize) none).eraseSlots
    (s1.mboxEnd 4 0 []).pkgReset

/-! ## JTAG and debug unlock (R674 to R678) -/

/-- The bytes of the IDK hash; zeros before the module has been made. -/
def State.idkHash (s : State) : List Byte :=
  match s.onyx.store with | some x => x.idk | none => List.replicate 48 0

/-- SEC_CHALLENGE (R674, R676). -/
def secChallenge (s : State) : State :=
  if 3 ≤ s.fld R.secStat F.secStat_unlockFails then s.answer .ok (bytesWords (List.replicate 64 0))
  else
    let n := s.free % 2 ^ 128
    let s1 : State := { s.draw with onyx := { s.onyx with nonce := some (n, s.tick) } }
    s1.answer .ok (bytesWords (s.idkHash ++ toBytes 16 n))

/-- 600 s in ticks. -/
def nonceLife : Nat := 600_000_000_000

/-- NONCE_EXPIRY (R674). -/
def nonceExpiry (s : State) : State :=
  match s.onyx.nonce with
  | none => s.answer .refused
  | some (_, t) => (({ s.until (t + nonceLife) with onyx := { s.onyx with nonce := none } } : State)).answer .ok

/-- Bytes lo to lo + n - 1 of a token. -/
def part (bs : List Byte) (lo n : Nat) : List Byte := (bs.drop lo).take n

/-- R676: whether Onyx accepts a token. -/
def State.tokenOk (s : State) (t : List Byte) : Bool :=
  let w0 := ofBytes (t.take 8)
  let live := match s.onyx.nonce with
    | some (n, at_) => decide (ofBytes (part t 56 16) = n) && decide (s.tick < at_ + nonceLife)
    | none => false
  decide (t.length = 216) && decide (bits w0 0 32 = 0x4B55_5848) && decide (bits w0 32 16 = 1) && decide (bits w0 54 10 = 0)
    && decide (F.secSvn_debugUnlock.get s.onyx.fused ≤ bits w0 48 6) && decide (part t 8 48 = s.idkHash) && live
    && s.signed (part t 72 48) .debugUnlock (sha384 (t.take 120)) (part t 120 48) (part t 168 48)

/-- R676: a rejected token; the code of its reason is free. -/
def State.tokenRejected (s : State) : State :=
  let n := min 3 (s.fld R.secStat F.secStat_unlockFails + 1)
  let s1 := ({ s with onyx := { s.onyx with nonce := none } } : State).setFld R.secStat F.secStat_unlockFails n
  s1.draw.audit 0x0030 0 0 (Word.of s1.free) (Word.of n)

/-- Every accelerator core of a die in service halts by command. -/
def State.haltAll (s : State) : State :=
  (upTo 1024).foldl (fun (t : State) c => if t.up (coreSite c) then t.haltCore c 1 else t) s

/-- Every shuttle engine pauses. -/
def State.pauseEngines (s : State) : State :=
  (upTo 136).foldl (fun (t : State) j => if t.up (seRefOf j).site then t.sePause (seRefOf j) else t) s

/-- Every command ring pauses. -/
def State.pauseRings (s : State) : State :=
  (upTo 64).foldl (fun (t : State) r => (t.setFld (R.ringCtrl r) F.ringCtrl_pause 1).ringShow r) s

/-- R651: every key is cleared from Onyx's store and from every slot. -/
def State.clearKeys (s : State) : State :=
  ({ s with keys := [], sak := [], onyx := { s.onyx with sessions := [false, false, false] } } : State).eachCd (fun t n =>
    (upTo 8).foldl (fun (t : State) p => t.setFld (R.mcPart n p) F.mcPart_keyLoaded 0) t)

/-- R677 step 5: range and partition registers take their reset values, in every die and in the package copy. -/
def State.resetRanges (s : State) : State :=
  let hit (off : Nat) : Bool := decide (0x2_0080 ≤ off) && decide (off < 0x2_0300)
  let keep (e : Nat × Word) : Bool :=
    let cd := e.1 / 0x1_0000_0000
    !(decide (1 ≤ cd) && decide (cd ≤ 8) && hit (e.1 % 0x1_0000_0000))
  { s with regs := s.regs.filter keep, pkg := s.pkg.filter keep }

/-- R435, R656 step 6: a new PK[0] and a new SAK go to every controller in service. -/
def State.bootKeys (s : State) : State :=
  let s1 := (s.loadKey 0).drawKey 8
  s1.eachCd (fun t n => { t with sak := Sparse.set (fun _ => false) t.sak n true })

/-- R677 step 5: caches, tile memory, operand caches and accumulator memories are written with zeros. -/
def State.zeroArrays (s : State) : State :=
  let clear (k : CoreSt) : CoreSt := { k with opc := [], acc := [], opcBad := [], accBad := [], l1 := [], mbuf := [] }
  { s with
    lines := [], subs := [], dir := [], red := [], miss := [], tile := [], tileBad := []
    cores := s.cores.map (fun e => (e.1, clear e.2)) }

/-- R677: host dies are held in reset. -/
def State.holdHosts (s : State) : State :=
  ([9, 10].foldl (fun (t : State) d =>
    let t1 := if t.up d then t.dieReset d else t
    (t1.setDie d { t1.die d with released := false, accepted := false, admitted := false, inService := false, held := true }).showHeld d) s).absence

/-- R677: an accepted token unlocks the port. -/
def State.unlock (s : State) (t : List Byte) : State :=
  let s1 := s.audit 0x0031 0 0 (Word.of (ofBytes (part t 72 8))) (Word.of (ofBytes (part t 56 8)))
  let s2 := (upTo s1.onyx.logPending).foldl (fun (u : State) _ => u.logStore) { s1 with onyx := { s1.onyx with nonce := none } }
  let s3 := (((s2.haltAll).pauseEngines).pauseRings).twnFall 0
  let s4 := (((s3.holdHosts).clearKeys).freeMeas 7).setFld R.secStat F.secStat_state 2
  let s5 := (((s4.resetRanges).bootKeys).zeroAll (0, dramSize) none).zeroArrays
  (s5.eraseSlots).setFld R.secStat F.secStat_jtagUnlocked 1

/-- SEC_TOKEN (R676, R677). -/
def secToken (t : List Byte) (s : State) : State :=
  s.commit fun s =>
    let s1 := s.secEvent F.secEvent_unlockAttempt
    if s.secState ≠ 3 ∧ s1.tokenOk t then (s1.unlock t).answer .ok else (s1.tokenRejected).answer .ok

/-! ## Tamper (R680 to R684) -/

/-- Every die but the spindle is held in reset. -/
def State.holdAll (s : State) : State :=
  ((upTo 11).foldl (fun (t : State) d =>
    if d = 0 then t
    else
      let t1 := if t.up d then t.dieReset d else t
      let t2 := t1.setDie d { t1.die d with released := false, accepted := false, admitted := false, inService := false, held := true }
      (if d ≤ 8 then t2.dieForget (d - 1) else t2).showHeld d) s).absence

/-- A mailbox request in progress ends with TAMPER. -/
def State.mboxTamper (s : State) : State :=
  match s.onyx.mbox with
  | some req => s.mboxEnd (mboxTyp req) 4 []
  | none => s

/-- A save in progress stops with result TAMPER (R680, R706). -/
def State.saveTamper (s : State) : State :=
  match s.pwr.save with
  | some _ => (({ s with pwr := { s.pwr with save := none } } : State).setFld R.saveStat F.saveStat_state 0).setFld R.saveStat
      F.saveStat_lastResult 3
  | none => s

/-- TAMPER_DETECTION (R680). -/
def tamperDetection (sensor : Nat) (s : State) : State :=
  s.commit fun s =>
    let s0 := ((s.mboxTamper).saveTamper)
    let s1 := if s0.wvState = 2 ∨ s0.wvState = 3 then s0.wvAbort else s0
    let s2 := { s1.clearKeys with onyx := { s1.clearKeys.onyx with nonce := none, fuse := true } }
    let s3 := (s2.setFld R.secStat F.secStat_state 3).audit 0x0040 0 0 (Word.of sensor) 0
    ((s3.holdAll).tell .tamper).answer .ok

/-! ## Meanings -/

/-- SPDM (R665). -/
def execSpdm (s : State) : Out := s.run fun s => mboxSpdm s
/-- LOG_READ (R665). -/
def execLogRead (s : State) : Out := s.run fun s => mboxLogRead s
/-- COMMIT_SVN (R654). -/
def execCommitSvn (s : State) : Out := s.run fun s => mboxCommitSvn s
/-- ZEROIZE_ALL (R664). -/
def execZeroizeAll (s : State) : Out := s.run fun s => mboxZeroizeAll s
/-- SPDM_MCTP (R660). -/
def execSpdmMctp (req : List Byte) (s : State) : Out := s.run fun s => spdmMctp req s
/-- BYPASS (R674): nothing changes. -/
def execBypass (s : State) : Out := s.run fun s => s.answer .ok
/-- IDCODE (R674). -/
def execIdcode (s : State) : Out := s.run fun s => s.answer .ok [Config.idcode]
/-- SEC_CHALLENGE (R674). -/
def execSecChallenge (s : State) : Out := s.run fun s => secChallenge s
/-- SEC_TOKEN (R676). -/
def execSecToken (token : List Byte) (s : State) : Out := s.run fun s => secToken token s
/-- NONCE_EXPIRY (R674). -/
def execNonceExpiry (s : State) : Out := s.run fun s => nonceExpiry s
/-- TAMPER_DETECTION (R680). -/
def execTamperDetection (sensor : BitVec 4) (s : State) : Out := s.run fun s => tamperDetection sensor.toNat s

end Sys2Proof.Machine
end

