-- ==== Sys2Proof/Machine/Power.lean ====
section
/-!
DEFINITION. The supply, saves of the critical set, cooling, and Beryl's requests (R688 to R716).
-/

namespace Sys2Proof.Machine

/-- R721: a flag of PWR_EVENT; a change from 0 to 1 raises spindle source 48. -/
def State.pwrEvent (s : State) (f : Fld) : State :=
  if s.flag R.pwrEvent f then s else (s.setFld R.pwrEvent f 1).raise 0 48

/-- Whether the module is in operation. -/
def State.running (s : State) : Bool := decide (s.pwr.phase = .on)

/-! ## The save list (R697, R698) -/

/-- An entry of the save list: address, length and TAG when VALID; nothing when it is malformed. -/
def listEntry (bs : List Byte) : Option (Option (Nat × Nat × Nat)) :=
  let w0 := ofBytes (bs.take 8)
  let w1 := ofBytes (bs.drop 8)
  let pa := bits w0 6 34 * 64
  let len := bits w1 0 32
  if bits w0 1 5 ≠ 0 ∨ bits w0 40 24 ≠ 0 then none
  else if w0 % 2 = 0 then some none
  else if len = 0 ∨ len % 64 ≠ 0 ∨ dramSize < pa + len then none
  else some (some (pa, len, bits w1 32 32))

/-- The entries of a list, or nothing when one is malformed. -/
def listEntries (bs : List Byte) : Nat → Option (List (Nat × Nat × Nat))
  | 0 => some []
  | n + 1 =>
    match listEntry (bs.take 16), listEntries (bs.drop 16) n with
    | some (some e), some l => some (e :: l)
    | some none, some l => some l
    | _, _ => none

/-- Bytes the entries of a list name. -/
def listBytes (l : List (Nat × Nat × Nat)) : Nat := (l.map (fun e => e.2.1)).sum

/-- R698: LIST_COMMIT. -/
def State.listCommit (s : State) : State :=
  let n := s.fld R.saveCtrl F.saveCtrl_listCount
  let bad (t : State) : State := t.pwrEvent F.pwrEvent_listBad
  if 256 < n then bad s
  else match s.getBytes 0 .onyx (s.fld R.saveList F.saveList_addr * 4096) (16 * n) with
    | (s1, none, _) => bad s1
    | (s1, some _, true) => bad (s1.rasWrite { det 1 6 0 0 1 with consumed := true, arg0 := 9 })
    | (s1, some bs, false) =>
      match listEntries bs n with
      | none => bad s1
      | some l =>
        if 8 * 2 ^ 20 < listBytes l then bad s1
        else
          let s2 : State := { s1 with pwr := { s1.pwr with list := l } }
          (s2.setFld R.saveStat F.saveStat_listEntries l.length).setFld R.saveStat F.saveStat_listKib (listBytes l / 1024)

/-! ## The critical set (R696, R699, R702) -/

/-- R737: the eight words of a record. -/
def RasRec.words (r : RasRec) : List Word :=
  let d := r.det
  [ Word.of r.seq, Word.of r.tick,
    Word.of (d.severity.val + d.cls.toNat * 2 ^ 2 + d.die.toNat * 2 ^ 8 + d.unit.toNat * 2 ^ 12 + d.code.toNat * 2 ^ 20
      + b2n d.addr.isSome * 2 ^ 28 + b2n d.consumed * 2 ^ 29 + r.count * 2 ^ 32),
    Word.of (match d.addr with | some a => a.toNat | none => 0), d.arg0, d.arg1, 0, 0 ]

/-- The bytes of doublewords. -/
def wordBytes (ws : List Word) : List Byte := ws.flatMap (fun w => toBytes 8 w.toNat)

/-- Word offsets of the blocks of a die, relative to its window, in rising order. -/
def dieBlocks (site : Nat) : List Nat :=
  if site = 0 then (upTo 12).map (fun b => b * 0x1_0000)
  else if site ≤ 8 then
    (upTo 7).map (fun b => b * 0x1_0000)
      ++ (upTo 8).flatMap (fun k => (upTo 17).map (fun u => 0x100_0000 + k * 0x20_0000 + u * 0x1_0000))
  else (upTo 4).map (fun b => b * 0x1_0000)

/-- Every holding register of a die, in the order of block offsets. -/
def State.holdWords (s : State) (site : Nat) : List Word :=
  (dieBlocks site).flatMap (fun b => (upTo 0x400).filterMap (fun i =>
    let a := site * 0x1_0000_0000 + b + 8 * i
    if isCounter a then some (s.reg (a + 0x2000)) else none))

/-- R699, R734: the bytes of a saved range, codeword by codeword: poisoned ones as zeros; and whether one was. -/
def State.saveRange (s : State) (pa len : Nat) : State × List Byte × Bool :=
  (upTo (len / 64)).foldl (fun (t : State × List Byte × Bool) i =>
    let a := pa + 64 * i
    let u := t.1
    if !u.cdUp (u.place a).cd ∨ u.cwBad a then
      (u.rasWrite { det 1 6 0 0 1 with addr := some (BitVec.ofNat 48 a), consumed := true, arg0 := 10 }, t.2.1 ++ toBytes 64 0, true)
    else (u, t.2.1 ++ toBytes 64 (u.cwData a), t.2.2)) (s, [], false)

/-- The mirror records of an entry of the journal: PA and 64 bytes each; poisoned codewords as zeros. -/
def TwnRec.records : TwnRec → List (List Byte × Bool)
  | .word pa data p => [(toBytes 8 pa ++ toBytes 64 (if p then 0 else data.toNat), p)]
  | .zeros lo hi => (upTo ((hi - lo) / 64)).map (fun i => (toBytes 8 (lo + 64 * i) ++ toBytes 64 0, false))
  | .mark _ => []

/-- The items of a save in the order of R702, not yet valid and without their tags. -/
def State.saveItems (s : State) : State × List SaveItem :=
  let item (typ tag : Nat) (body : List Byte) (p : Bool) : SaveItem := ⟨typ, tag, body, p, 0, false⟩
  let recs := (s.twn.tail.flatMap TwnRec.records).take (4 * 2 ^ 20 / 72)
  let error := item 1 0 (wordBytes (s.ras.flatMap RasRec.words)) false
  let nan := item 2 0 (wordBytes ((upTo 1024).flatMap (fun c => (upTo 4).map (fun w => s.reg (R.nsRec c w))))) false
  let touch := item 3 0 (wordBytes ((upTo 1024).flatMap (fun c => (upTo 4).map (fun w => s.reg (R.tsRec c w))))) false
  let snap := item 4 0 (wordBytes (((upTo 11).filter s.up).flatMap s.holdWords)) false
  let (s1, user) := s.pwr.list.foldl (fun (t : State × List SaveItem) e =>
    let (u, bs, p) := t.1.saveRange e.1 e.2.1
    (u, t.2 ++ [item 5 e.2.2 bs p])) (s, [])
  let tail := item 6 0 (recs.flatMap Prod.fst) (recs.any Prod.snd)
  (s1, [error, nan, touch, snap] ++ user ++ [tail])

/-! ## Slots (R703, R707 to R709, R729) -/

/-- The slot with the highest SEQ among those that a test admits. -/
def newestSlot (p : SaveSlot → Bool) (slots : List (Option SaveSlot)) : Option (Nat × SaveSlot) :=
  slots.zipIdx.foldl (fun (best : Option (Nat × SaveSlot)) e =>
    match e.1 with
    | some x =>
      if p x then (match best with | some b => if b.2.seq ≤ x.seq then some (e.2, x) else best | none => some (e.2, x)) else best
    | none => best) none

/-- R703: the slot that a save writes. -/
def State.saveSlot (s : State) : Nat := match newestSlot (fun _ => true) s.onyx.slots with | some (0, _) => 1 | _ => 0

/-- Write a slot. -/
def State.putSlot (s : State) (i : Nat) (x : SaveSlot) : State :=
  { s with onyx := { s.onyx with slots := s.onyx.slots.set i (some x) } }

/-- The first `n` items of a save are valid. -/
def SaveSlot.written (x : SaveSlot) (n : Nat) (complete : Bool) : SaveSlot :=
  { x with complete := complete, items := x.items.zipIdx.map (fun e => { e.1 with valid := decide (e.2 < n) }) }

/-- The LAST fields of PWR_SAVE_STAT (R720). -/
def State.showLast (s : State) (slot cause result seq : Nat) : State :=
  (((s.setFld R.saveStat F.saveStat_lastSlot slot).setFld R.saveStat F.saveStat_lastCause cause).setFld R.saveStat
    F.saveStat_lastResult result).setFld R.saveStat F.saveStat_lastSeq seq

/-! ## The save order (R700 to R706) -/

/-- R701 step 2: load is shed. -/
def State.shed (s : State) : State :=
  let s1 := (s.haltAll.pauseEngines).pauseRings
  (upTo 8).foldl (fun (t : State) n => t.zeroStop n) s1

/-- R701 steps 3 to 5, R705: snapshot, audit entries, the slot's header, and the copy of the items, which begins. -/
def State.saveBegin (s : State) (cause : Nat) (only : Bool) : State :=
  let t := s.tick
  let s1 := s.snapAll
  let s2 := (upTo s1.onyx.logPending).foldl (fun (u : State) _ => u.logStore) s1
  let (s3, items) := s2.saveItems
  let tagged := items.zipIdx.map (fun e => { e.1 with gcm := Config.free (s3.drawn + e.2) % 2 ^ 128 })
  let s4 := s3.drawN items.length
  let slot := s4.saveSlot
  let image : SaveSlot := ⟨cause, false, s4.onyx.saves + 1, t, s4.fld R.wvEpoch F.wvEpoch_epoch,
    F.secSvn_onyxFw.get s4.onyx.running, tagged⟩
  let s5 := ({ s4 with onyx := { s4.onyx with saves := s4.onyx.saves + 1 } } : State).putSlot slot image
  ({ s5 with pwr := { s5.pwr with save := some ⟨slot, cause, only, image⟩ } } : State).setFld R.saveStat F.saveStat_state 1

/-- R701 step 7, R704, R712, R714: the module is powered down; `cause` says what it then waits for. -/
def State.powerDown (s : State) (cause : Nat) : State :=
  let s1 := s.pkgReset
  let x := s.onyx
  let p := s1.pwr
  let pwr : PwrSt := { p with
    phase := if p.cycle && decide (cause = 5) then .starting else .standby
    waitVin := p.waitVin || decide (cause < 3)
    waitOn := p.waitOn || decide (cause = 3) || (decide (cause = 5) && !p.cycle)
    thermal := p.thermal || decide (cause = 3)
    cycle := false, open_ := 0 }
  { s1 with pwr := pwr, onyx := { s1.onyx with manifest := x.manifest, running := x.running } }

/-- R700, R705, R706: a trigger with its cause. -/
def State.trigger (s : State) (cause : Nat) : State :=
  let counted (t : State) : State := t.count R.pwrCnt F.pwrCnt_sags 1
  match s.pwr.save with
  | some r =>
    if r.only then
      let s1 := ((counted s).pwrEvent F.pwrEvent_sag).shed
      let image : SaveSlot := { r.image with cause := cause }
      ({ s1 with pwr := { s1.pwr with save := some { r with cause := cause, only := false, image := image } } } : State).putSlot r.slot image
    else counted s
  | none =>
    if s.fld R.saveStat F.saveStat_state ≠ 0 then s
    else
      let s1 := ((counted s).pwrEvent F.pwrEvent_sag).shed
      if s.secState = 2 then (s1.tell (.save 2)).powerDown cause
      else s1.saveBegin cause false

/-- R702: the copy stops; the items already written stand. -/
def State.saveStops (s : State) (written : Nat) : State :=
  match s.pwr.save with
  | none => s
  | some r =>
    let s1 : State := { s with pwr := { s.pwr with save := none } }
    (s1.putSlot r.slot (r.image.written written false)).tell (.save 1)

/-- SAVE_ONLY (R705, R706). -/
def State.saveOnly (s : State) : State :=
  if s.fld R.saveStat F.saveStat_state ≠ 0 then s
  else if s.secState = 2 then s.setFld R.saveStat F.saveStat_lastResult 2
  else s.saveBegin 4 true

/-- SAVE_TRIGGER: VHOLD has fallen below 640 V (R688, R700). -/
def saveTrigger (s : State) : State :=
  s.commit fun s => if s.running then (s.trigger s.pwr.open_).answer .ok else s.answer .refused

/-- SAVE_COMPLETE (R701 steps 6 and 7). -/
def saveComplete (s : State) : State :=
  match s.pwr.save with
  | none => s.answer .refused
  | some r =>
    let n := r.image.items.length
    let s1 := ({ s with pwr := { s.pwr with save := none } } : State).putSlot r.slot (r.image.written n true)
    let s2 := ((s1.pwrEvent F.pwrEvent_saveDone).showLast r.slot r.cause 0 r.image.seq).tell (.save 0)
    if r.only then (s2.setFld R.saveStat F.saveStat_state 0).answer .ok
    else ((s2.setFld R.saveStat F.saveStat_state 2).powerDown r.cause).answer .ok

/-- CONVERTER_DROPOUT (R688, R702). -/
def converterDropout (written : Nat) (s : State) : State :=
  match s.pwr.save with
  | none => s.answer .refused
  | some r => ((s.saveStops written).powerDown (if r.only then 0 else r.cause)).answer .ok

/-! ## Input -/

/-- VIN_WARN (R688): VIN, in units of 0.1 V, has fallen below WARN_V. -/
def vinWarn (vin : Nat) (s : State) : State :=
  if s.running ∧ vin < s.fld R.pwrThr F.pwrThr_warnV * 10 then
    ((s.pwrEvent F.pwrEvent_warn).count R.pwrCnt F.pwrCnt_warns 1).answer .ok
  else s.answer .refused

/-- R688, R689: the input switch opens. -/
def switchOpens (why : Nat) (f : Fld) (s : State) : State :=
  if s.running then (({ s with pwr := { s.pwr with open_ := why } } : State).pwrEvent f).answer .ok else s.answer .refused

/-- OVERPOWER (R690). -/
def overpower (s : State) : State :=
  if s.running then (({ s with overpower := true } : State).pwrEvent F.pwrEvent_overpower).answer .ok else s.answer .refused

/-! ## Powering on and off -/

/-- The package power-on begins once nothing holds the module down (R704, R712, R716). -/
def State.tryStart (s : State) : State :=
  let p := s.pwr
  if p.phase = .standby ∧ p.enable ∧ !p.waitVin ∧ !p.waitOn ∧ !p.thermal then { s with pwr := { p with phase := .starting } } else s

/-- POWER_REARM (R704). -/
def powerRearm (s : State) : State :=
  if s.pwr.phase = .standby ∧ s.pwr.waitVin then
    (({ s with pwr := { s.pwr with waitVin := false } } : State).tryStart).answer .ok
  else s.answer .refused

/-- ON (R714). -/
def redfishOn (s : State) : State :=
  if s.pwr.phase = .standby then (({ s with pwr := { s.pwr with waitOn := false } } : State).tryStart).answer .ok
  else s.answer .refused

/-- GRACEFUL_SHUTDOWN (R714). -/
def gracefulShutdown (s : State) : State :=
  s.commit fun s => if s.running then (s.trigger 5).answer .ok else s.answer .refused

/-- FORCE_OFF (R714): load is shed and the converters stop. -/
def forceOff (s : State) : State :=
  if s.running ∨ s.pwr.phase = .starting then
    let n := match s.pwr.save with | some r => s.free % (r.image.items.length + 1) | none => 0
    let s1 : State := (s.draw.shed).saveStops n
    (({ s1 with pwr := { s1.pwr with cycle := false } } : State).powerDown 5).answer .ok
  else s.answer .refused

/-- POWER_CYCLE (R714). -/
def powerCycle (s : State) : State :=
  s.commit fun s =>
    if s.running then ((({ s with pwr := { s.pwr with cycle := true } } : State)).trigger 5).answer .ok else s.answer .refused

/-- STANDBY_ENABLE (R716): low holds the module powered down. -/
def standbyEnable (level : Bool) (s : State) : State :=
  let s1 : State := { s with pwr := { s.pwr with enable := level } }
  if level then s1.tryStart.answer .ok
  else if s1.pwr.phase = .on ∨ s1.pwr.phase = .starting then
    let n := match s1.pwr.save with | some r => s1.free % (r.image.items.length + 1) | none => 0
    ((s1.draw.saveStops n).powerDown 6).answer .ok
  else s1.answer .ok

/-- STANDBY_RAIL_LOSS (R692): every volatile state is lost, audit entries that await the store among them. -/
def standbyRailLoss (s : State) : State :=
  let n := match s.pwr.save with | some r => s.free % (r.image.items.length + 1) | none => 0
  let s1 := (s.draw.saveStops n).pkgReset
  let x := s1.onyx
  let kept := x.log.length - x.logPending
  let onyx : OnyxSt := { x with log := x.log.take kept, logPending := 0, logOpen := [], logNext := x.logNext - x.logPending }
  ({ s1 with onyx := onyx, pwr := { s1.pwr with phase := .off, open_ := 0, cycle := false } } : State).answer .ok

/-! ## Cooling (R710 to R712) -/

/-- R711: the cooling cap for a reading. -/
def derate (flow inlet : Nat) : Nat :=
  if flow < 600 ∨ 40 < inlet then min 5200 (min (5200 * flow / 600) (5200 * (60 - inlet) / 20)) else 0

/-- COOLANT_READING (R711, R712). -/
def coolantReading (r : Coolant) (s : State) : State :=
  let flow := r.flow.toNat
  let inlet := r.inlet.toNat
  let warn := decide (flow < 600) || decide (40 < inlet)
  let s0 := s.until (s.nextEdge (10 * ms))
  let fine := decide (600 ≤ flow) && decide (15 ≤ inlet) && decide (inlet ≤ 40)
  let s1 : State := if fine then { s0 with pwr := { s0.pwr with thermal := false } } else s0
  if s.running then
    let a := R.pwrCool
    let s2 := ((s1.setFld a F.pwrCool_inletT inlet).setFld a F.pwrCool_outletT r.outlet.toNat).setFld a F.pwrCool_flow flow
    ((s2.setFld a F.pwrCool_coolWarn (b2n warn)).setFld a F.pwrCool_derateW (derate flow inlet)).answer .ok
  else s1.tryStart.answer .ok

/-- THERMAL_TRIP (R712). -/
def thermalTrip (s : State) : State :=
  s.commit fun s => if s.running then (s.trigger 3).answer .ok else s.answer .refused

/-! ## Firmware updates (R713) -/

/-- The store's images change. -/
def State.setStore (s : State) (f : StoreFacts → StoreFacts) : State :=
  { s with onyx := { s.onyx with store := s.onyx.store.map f } }

/-- An image that Onyx verifies for a role before it enters the store. -/
def State.updateImage (s : State) (role : Role) (x : FwFacts) (f : StoreFacts → StoreFacts) : State :=
  if 2 ≤ s.secState then s.answer .refused
  else if s.verifies role x then (s.setStore f).answer .ok
  else (s.verifyFailed role x.keyId).answer .error

/-- FIRMWARE_UPDATE (R713): its owner verifies an image before use. -/
def firmwareUpdate (u : FwUpdate) (s : State) : State :=
  if s.pwr.phase = .off then s.answer .refused
  else match u with
    | .beryl m good => if good then (s.setStore (fun x => { x with beryl := m })).answer .ok else s.answer .error
    | .onyxFw x => s.updateImage .onyxFw x (fun y => { y with onyxFw := x })
    | .bobFw x => s.updateImage .bobbinFw x (fun y => { y with bobFw := x })
    | .manifest m =>
      if 2 ≤ s.secState then s.answer .refused
      else if m.good ∧ F.secSvn_manifest.get s.onyx.fused ≤ m.version.toNat then (s.setStore (fun y => { y with manifest := m })).answer .ok
      else s.answer .error

/-! ## Meanings -/

/-- VIN_WARN (R688): above 1,000 V, in units of 0.1 V, no behaviour is promised. -/
def execVinWarn (vin : Nat) (s : State) : Out := if 10_000 < vin then .fault .absoluteMaximum else s.run fun s => vinWarn vin s
/-- OVERVOLTAGE (R688). -/
def execOvervoltage (s : State) : Out := s.run fun s => switchOpens 1 F.pwrEvent_overvolt s
/-- OVERCURRENT (R689). -/
def execOvercurrent (s : State) : Out := s.run fun s => switchOpens 2 F.pwrEvent_overcurrent s
/-- OVERPOWER (R690). -/
def execOverpower (s : State) : Out := s.run fun s => overpower s
/-- SAVE_TRIGGER (R701). -/
def execSaveTrigger (s : State) : Out := s.run fun s => saveTrigger s
/-- SAVE_COMPLETE (R701). -/
def execSaveComplete (s : State) : Out := s.run fun s => saveComplete s
/-- CONVERTER_DROPOUT (R702). -/
def execConverterDropout (written : Nat) (s : State) : Out := s.run fun s => converterDropout written s
/-- POWER_REARM (R704). -/
def execPowerRearm (s : State) : Out := s.run fun s => powerRearm s
/-- COOLANT_READING (R711). -/
def execCoolantReading (r : Coolant) (s : State) : Out := s.run fun s => coolantReading r s
/-- THERMAL_TRIP (R712): the trip acts alike for every cause. -/
def execThermalTrip (_why : TripCause) (s : State) : Out := s.run fun s => thermalTrip s
/-- ON (R714). -/
def execOn (s : State) : Out := s.run fun s => redfishOn s
/-- GRACEFUL_SHUTDOWN (R714). -/
def execGracefulShutdown (s : State) : Out := s.run fun s => gracefulShutdown s
/-- FORCE_OFF (R714). -/
def execForceOff (s : State) : Out := s.run fun s => forceOff s
/-- POWER_CYCLE (R714). -/
def execPowerCycle (s : State) : Out := s.run fun s => powerCycle s
/-- FIRMWARE_UPDATE (R713). -/
def execFirmwareUpdate (u : FwUpdate) (s : State) : Out := s.run fun s => firmwareUpdate u s
/-- STANDBY_ENABLE (R716). -/
def execStandbyEnable (level : Bool) (s : State) : Out := s.run fun s => standbyEnable level s
/-- STANDBY_RAIL_LOSS (R692). -/
def execStandbyRailLoss (s : State) : Out := s.run fun s => standbyRailLoss s

end Sys2Proof.Machine
end

