-- ==== Sys2Proof/Machine/Bringup.lean ====
section
/-!
DEFINITION. Package power-on with Onyx's boot, restoring the critical set, and what error detections do (R478, R656,
R657, R684, R723 to R730, R736, R741).
-/

namespace Sys2Proof.Machine

/-! ## Onyx's boot (R656, R657, R684, R729) -/

/-- A boot that fails at a step (R657). -/
def State.bootFails (s : State) (stage : Nat) : State :=
  ((s.setFld R.secStat F.secStat_state 4).setFld R.secStat F.secStat_failStage stage).tell .bootFailed

/-- R729: the LAST fields come from the newest slot that qualifies. -/
def State.loadLast (s : State) : State :=
  match newestSlot (fun x => decide (x.svn ≤ F.secSvn_onyxFw.get s.onyx.running)) s.onyx.slots with
  | some (i, x) => s.showLast i x.cause (if x.complete then 0 else 1) x.seq
  | none => s.showLast 0 0 2 0

/-- Steps 3 to 5 of R656. -/
def State.bootStore (s : State) (x : StoreFacts) : State :=
  let m := x.manifest
  if !m.good ∨ m.version.toNat < F.secSvn_manifest.get s.onyx.fused then s.bootFails 3
  else
    let run := F.secSvn_debugUnlock.set m.minToken.toNat (F.secSvn_manifest.set m.version.toNat s.onyx.running)
    let s1 := ({ s with onyx := { s.onyx with manifest := m.entries, running := run } } : State).extendMeas 2 m.digest
    if !s1.verifies .onyxFw x.onyxFw then
      (s1.verifyFailed .onyxFw x.onyxFw.keyId).bootFails 4
    else
      let s2 := ((s1.runs .onyxFw x.onyxFw.version.toNat).extendMeas 0 x.rom).extendMeas 0 x.onyxFw.digest
      ((s2.extendMeas 1 x.beryl).freeMeas 9).loadLast

/-- Steps 1 to 5 of R656. -/
def State.onyxBoot (s : State) (f : PowerFacts) : State :=
  let x := s.onyx
  let store := match x.store with | some y => some y | none => f.made
  let s1 : State := { s with onyx := { x with boots := x.boots + 1, store := store } }
  if !f.romTest then s1.bootFails 1
  else if x.fuse ∨ f.meshOpen then (s1.setFld R.secStat F.secStat_state 3).tell .tamper
  else match store with
    | none => s1.bootFails 3
    | some y => s1.bootStore y

/-- Step 7 of R656: the bobbin runtime is verified. -/
def State.bootBobbin (s : State) : State :=
  match s.onyx.store with
  | none => s
  | some y =>
    if s.verifies .bobbinFw y.bobFw then (s.runs .bobbinFw y.bobFw.version.toNat).extendMeas 3 y.bobFw.digest
    else
      let s1 := s.verifyFailed .bobbinFw y.bobFw.keyId
      { s1 with onyx := { s1.onyx with fbOff := true } }

/-- The boot is complete. -/
def State.bootDone (s : State) : State :=
  let s1 := s.setFld R.secStat F.secStat_state 1
  s1.audit 0x0010 0 0 1 (s1.reg (R.secMeas 0 0))

/-! ## Package power-on (R723 to R728) -/

/-- What training finds on a link. -/
def PowerFacts.link (f : PowerFacts) (l : Nat) : LinkFaults :=
  match f.links.find? (fun e => decide (e.1 = l)) with | some e => e.2 | none => ⟨[], []⟩

/-- The straps and fuses of a die; one that is not named gives no answer. -/
def PowerFacts.die (f : PowerFacts) (site : Nat) : DieFacts :=
  match f.dies.find? (fun e => decide (e.1 = site)) with | some e => e.2 | none => ⟨false, 0, 0, 0, 0, false, none⟩

/-- R695: the HOLD node is measured. -/
def State.measureHold (s : State) (cap : Nat) : State :=
  let a := R.pwrHoldup
  let low := decide (cap < 68)
  let s1 := ((s.setFld a F.pwrHoldup_capUf cap).setFld a F.pwrHoldup_measValid 1).setFld a F.pwrHoldup_holdupLow (b2n low)
  if low then s1.pwrEvent F.pwrEvent_holdupLow else s1

/-- R723 steps 3 and 4: rails, VCORE at 0.78 V, the timebase at 0. -/
def State.railsUp (s : State) (refOk : Bool) : State :=
  let s1 := (upTo 11).foldl (fun (t : State) d => t.setFld (R.paceStat d) F.paceStat_vcore 780) s
  let s2 := (upTo 4).foldl (fun (t : State) k => t.setFld (R.laser k) F.laser_role (if k < 2 then 1 else 0)) s1
  let s3 : State := { s2 with tick := 0, pwr := { s2.pwr with phase := .on, open_ := 0 } }
  if refOk then s3.setFld R.tbCtrl F.tbCtrl_refOk 1
  else (s3.setFld R.tbCtrl F.tbCtrl_holdover 1).rasWrite (det 0 8 0 0 1)

/-- R723 step 5: every die is released, and the spindle hears its ports. -/
def State.releaseAll (s : State) (f : PowerFacts) : State :=
  let s0 := s.dieRelease 0 (f.die 0)
  if !s0.up 0 then s0
  else (upTo 10).foldl (fun (t : State) port =>
    let t1 := if t.mayRelease (port + 1) then t.dieRelease (port + 1) (f.die (port + 1)) else t
    let d := t1.die (port + 1)
    if d.released then t1.enumerate port else if d.held then t1 else t1.noAnswer port) s0

/-- Whether the initial training of a link will bring it up. -/
def State.willTrain (s : State) (f : PowerFacts) (l : Nat) : Bool :=
  let say (site : Nat) : Hello :=
    let x := (s.die site).facts
    ⟨BitVec.ofNat 4 site, BitVec.ofNat 2 (siteKind site), x.stepping, x.caps⟩
  let t := ((s.trainFull l (f.link l)).helloAt l false (say (linkSite l true))).helloAt l true (say (linkSite l false))
  s.mayTrain l && t.activeOk l (t.activeAt l false)

/-- R53: the package capability vector, of the spindle and the dies that complete training on their optical links. -/
def State.formCaps (s : State) (f : PowerFacts) : State :=
  let sites := 0 :: ((upTo 10).filter (fun p => s.willTrain f (p + 8))).map (fun p => p + 1)
  let caps := sites.foldl (fun (c : BitVec 32) d => c &&& (s.die d).facts.caps) (BitVec.allOnes 32)
  let present := sites.foldl (fun n d => n ||| 2 ^ d) 0
  (s.setFld R.capsPkg F.capsPkg_caps caps.toNat).setFld R.capsPkg F.capsPkg_diePresent present

/-- R728: rows are repaired, at most 16 of a stack. -/
def State.repairRows (s : State) : State :=
  let of (st : Nat) : Nat := (s.marked.filter (fun r => decide (r / 2 ^ 26 = st))).length
  let skipped := ((upTo 16).map (fun st => of st - 16)).sum
  ({ s with marked := [] } : State).count R.rasCnt F.rasCnt_pprSkipped skipped

/-- R723 steps 5 to 8. -/
def State.bringDies (s : State) (f : PowerFacts) : State :=
  let s1 := s.releaseAll f
  if !s1.up 0 then s1
  else
    let s2 := s1.formCaps f
    let train (t : State) (l : Nat) : State := t.trainThrough l (f.link l)
    let s3 := ((upTo 8).map (fun n => n + 8)).foldl train s2
    let s4 := ((upTo 8).foldl train s3).repairRows
    let s5 := (s4.bootKeys).bootBobbin
    ([16, 17].foldl train s5).bootDone.absence

/-- R723: the whole sequence, once the LLC converter may start. -/
def State.powerOn (s : State) (f : PowerFacts) : State :=
  let s1 := (s.railsUp f.refOk).onyxBoot f
  if 3 ≤ s1.secState then s1 else s1.bringDies f

/-- PACKAGE_POWER_ON (R723). -/
def packagePowerOn (f : PowerFacts) (s : State) : State :=
  s.commit fun s =>
    if s.pwr.phase = .on ∨ s.pwr.phase = .standby then s.answer .refused
    else
      let s1 := s.measureHold f.capUf
      let s2 := ({ s1 with pwr := { s1.pwr with phase := .standby } } : State).tryStart
      if f.capUf < 40 then (({ s1 with pwr := { s1.pwr with phase := .standby } } : State).tell .bootFailed).answer .ok
      else if s2.pwr.phase = .starting then (s2.powerOn f).answer .ok
      else s2.answer .ok

/-! ## Restoring the critical set (R730) -/

/-- The slot that a restore copies. -/
def State.restoreSlot (s : State) : Option (Nat × SaveSlot) :=
  newestSlot (fun x => decide (x.svn ≤ F.secSvn_onyxFw.get s.onyx.running)) s.onyx.slots

/-- R708: the header of a slot. -/
def SaveSlot.header (x : SaveSlot) : List Byte :=
  toBytes 8 (0x5343_5848 + 2 ^ 32 + x.cause * 2 ^ 48 + b2n x.complete * 2 ^ 51) ++ toBytes 8 x.seq ++ toBytes 8 x.tick
    ++ toBytes 8 (x.epoch + x.svn * 2 ^ 32) ++ toBytes 8 x.items.length
    ++ toBytes 8 ((x.items.map (fun i => i.body.length)).sum) ++ toBytes 16 0

/-- R709: slot offsets of the bodies: each starts at a multiple of 64 from 0x4000 on. -/
def bodyOffsets : Nat → List SaveItem → List Nat
  | _, [] => []
  | o, i :: rest => o :: bodyOffsets ((o + i.body.length + 63) / 64 * 64) rest

/-- R709: a directory entry. -/
def SaveItem.entry (i : SaveItem) (offset : Nat) : List Byte :=
  toBytes 8 (i.typ + b2n i.valid * 2 ^ 8 + b2n i.poisoned * 2 ^ 9 + i.tag * 2 ^ 32)
    ++ toBytes 8 (offset + i.body.length * 2 ^ 32) ++ toBytes 16 i.gcm

/-- R730: the slot is written at the restore area: header, directory and bodies. -/
def State.restoreCopy (s : State) (base : Nat) (x : SaveSlot) : State :=
  let s1 := s.putBytes 0 .onyx base x.header
  let place := x.items.zip (bodyOffsets 0x4000 x.items)
  let s2 := s1.putBytes 0 .onyx (base + 64) (place.flatMap (fun e => e.1.entry e.2))
  place.foldl (fun (t : State) e =>
    t.putBytes 0 .onyx (base + e.2) (if e.1.valid then e.1.body else toBytes e.1.body.length 0)) s2

/-- RESTORE (R730). -/
def State.restoreGo (s : State) : State :=
  match s.restoreSlot with
  | none => s.setFld R.rasStat F.rasStat_restoreNone 1
  | some _ => s.setFld R.rasStat F.rasStat_restoreBusy 1

/-- RESTORE_DONE (R730). -/
def restoreDone (s : State) : State :=
  s.commit fun s =>
    if !s.flag R.rasStat F.rasStat_restoreBusy then s.answer .refused
    else
      let s1 := match s.restoreSlot with
        | some (_, x) => s.restoreCopy (s.fld R.rasRestore F.rasRestore_addr * 4096) x
        | none => s
      ((s1.setFld R.rasStat F.rasStat_restoreBusy 0).setFld R.rasStat F.rasStat_restoreDone 1).answer .ok

/-! ## Detections (R257, R478, R736) -/

/-- The core or the cluster that UNIT names on a die. -/
def unitCore (d : Detection) : Nat := (d.die.toNat - 1) * 128 + d.unit.toNat % 128

/-- Poison a codeword of a cached copy. -/
def CacheLine.spoil (x : CacheLine) (q : Nat) : CacheLine :=
  if x.st = .i then x else { x with val := { x.val with poison := x.val.poison ||| BitVec.ofNat 2 (q + 1) } }

/-- An uncorrectable error in a cache: data are poisoned; an error of tags loses the line and clears INV_DONE; a
directory entry is rebuilt. -/
def State.cacheError (s : State) (d : Detection) : State :=
  let c := unitCore d
  let structure_ := d.arg0.toNat
  let holder := if structure_ = 1 then c / 16 else xlIx
  match d.code.toNat, d.addr with
  | 3, some a =>
    let line := a.toNat / 128
    let q := a.toNat / 64 % 2
    if structure_ = 0 then s.setL1 c line ((s.l1Line c line).spoil q)
    else s.setCline holder line ((s.cline holder line).spoil q)
  | 4, some a =>
    let line := a.toNat / 128
    if structure_ = 0 then (s.setL1 c line {}).setFld (R.l1Ctrl (coreCl c) (c % 16)) F.l1Ctrl_invDone 0
    else if structure_ = 1 then (s.setCline holder line {}).setFld (R.l2Cmd (c / 16)) F.l2Cmd_invDone 0
    else (s.setCline xlIx line {}).setFld R.xlCmd F.xlCmd_invDone 0
  | 6, some a =>
    let line := a.toNat / 128
    let s1 := s.recall line
    { s1 with dir := Sparse.set (fun _ => {}) s1.dir line {} }
  | _, _ => s

/-- R257: a word of an operand cache or accumulator memory has an uncorrectable error. -/
def State.engineError (s : State) (d : Detection) : State :=
  let c := unitCore d
  let k := s.core c
  let w := d.arg1.toNat / 8
  if d.code ≠ 2 then s
  else if d.arg0 = 0 then s.setCore c { k with opcBad := w :: k.opcBad.filter (fun x => decide (x ≠ w)) }
  else if d.arg0 = 1 then s.setCore c { k with accBad := w :: k.accBad.filter (fun x => decide (x ≠ w)) }
  else s

/-- ERROR_DETECTION (R736, R739): the record is written, and the error has its effect. A fatal error of a compute die
takes it out of service, which writes the record; one of the spindle saves the critical set. -/
def errorDetection (d : Detection) (s : State) : State :=
  s.commit fun s =>
    let site := d.die.toNat
    if !s.running ∧ !s.up 0 then s.answer .refused
    else if d.cls = 7 ∧ d.code = 3 ∧ 1 ≤ site ∧ site ≤ 8 ∧ s.up site then (s.dieLost (site - 1) 3).answer .ok
    else
      let s1 := s.rasWrite d
      if d.cls = 7 ∧ d.code = 3 ∧ site = 0 then (s1.trigger 0).answer .ok
      else if d.cls = 4 then (s1.cacheError d).answer .ok
      else if d.cls = 5 ∧ 1 ≤ site ∧ site ≤ 8 then (s1.engineError d).answer .ok
      else s1.answer .ok

/-! ## The reader's registers (R741, R744) -/

/-- A write of RAS_REC_SEL. -/
def State.recSel (s : State) (v : Word) : State :=
  let ws := match s.ras.find? (fun r => decide (r.seq = v.toNat)) with
    | some r => r.words
    | none => List.replicate 8 0
  ws.zipIdx.foldl (fun (t : State) e => t.setReg (R.rasRec e.2) e.1) (s.setReg R.rasRecSel v)

/-- A write of RAS_CONS. -/
def State.rasTake (s : State) (v : Word) : State :=
  if s.fld R.rasProd F.rasProd_prod < v.toNat ∨ v.toNat < s.fld R.rasCons F.rasCons_cons then s else s.setReg R.rasCons v

/-- A write of RAS_CTRL.ACTION: 1 RESET_CD, 2 RELEASE_CD, 3 RESTORE, 4 RESET_PKG. -/
def State.rasAction (s : State) (act : Nat) : State :=
  let site := s.fld R.rasCtrl F.rasCtrl_site
  match act with
  | 1 => s.rasReset site
  | 2 => s.rasRelease site
  | 3 => s.restoreGo
  | 4 => s.pkgReset
  | _ => s

/-- A write of PWR_SAVE_CTRL.ACTION: 1 SAVE_ONLY, 2 LIST_COMMIT. -/
def State.saveAction (s : State) (act : Nat) : State :=
  match act with
  | 1 => s.saveOnly
  | 2 => s.listCommit
  | _ => s

/-- ARRAY_SELF_TEST (R478): through the unlocked JTAG port. -/
def arraySelfTest (k : CacheRef) (s : State) : State :=
  if s.flag R.secStat F.secStat_jtagUnlocked then (s.arrayTest k).answer .ok else s.answer .refused

/-! ## Meanings -/

/-- PACKAGE_POWER_ON (R723). -/
def execPackagePowerOn (facts : PowerFacts) (s : State) : Out := s.run fun s => packagePowerOn facts s
/-- RESTORE_DONE (R730). -/
def execRestoreDone (s : State) : Out := s.run fun s => restoreDone s
/-- ERROR_DETECTION (R739). -/
def execErrorDetection (d : Detection) (s : State) : Out := s.run fun s => errorDetection d s
/-- ARRAY_SELF_TEST (R478). -/
def execArraySelfTest (k : CacheRef) (s : State) : Out := s.run fun s => arraySelfTest k s

end Sys2Proof.Machine
end

