-- ==== Sys2Proof/Machine/RegView.lean ====
section
/-!
DEFINITION. Register fields that show state held elsewhere: what a read finds in them.
-/

namespace Sys2Proof.Machine

/-- A word of fields with their values. -/
def viewWord (x : Word) (fs : List (Fld × Nat)) : Word := fs.foldl (fun x e => e.1.set e.2 x) x

/-! ## Global blocks -/

/-- R56: the straps, fuses and stepping of a die in service. -/
def State.viewSite (s : State) (site : Nat) : Word :=
  let x := (s.die site).facts
  Word.of (x.straps.toNat + 2 ^ 7 + x.kind.toNat * 2 ^ 8 + x.stepping.toNat * 2 ^ 12 + x.caps.toNat * 2 ^ 16)

/-! ## The spindle -/

/-- R501: the edge links whose traffic passes through the far cache. -/
def State.detours (s : State) : Nat :=
  (upTo 8).foldl (fun v n =>
    let k := s.lnk n
    let back := decide (k.phase = .service) || (decide (k.phase ≠ .down) && k.fromService)
    v + (if s.cdUp n && s.cdUp ((n + 1) % 8) && !back then 2 ^ n else 0)) 0

/-- R596: the groups of a cluster at a quiesce point. -/
def State.parkedGroups (s : State) (cl : Nat) : Nat := ((s.groupsOf cl).filter (fun g => s.quiesced g.1 g.2.2)).length

/-- A read of PWR_IN or of the energy count finds what the sensors give: a free value (log entry 1). -/
def isSensor (a : Nat) : Bool := decide (a = R.pwrIn) || decide (a = R.pwrCntEnergy)

/-- The spindle's registers (R148, R500, R501, R596, R686, R719, R722). -/
def State.viewHub (s : State) (a : Nat) : Word :=
  let x := s.reg a
  if a = R.tbValue then Word.of s.tick
  else if isSensor a then Word.of s.free
  else if a = R.cohStat then viewWord x [(F.cohStat_mosi, b2n s.mosi), (F.cohStat_detour, s.detours)]
  else if a = R.xlStat then viewWord x [(F.xlStat_missUsed, (s.miss.filter (fun m => decide (m.holder = xlIx))).length)]
  else if R.wvClEpoch 0 ≤ a ∧ a ≤ R.wvClEpoch 63 then
    viewWord x [(F.wvClEpoch_parkedGroups, s.parkedGroups ((a - R.wvClEpoch 0) / 8))]
  else if a = R.secStat then viewWord x [(F.secStat_zeroizing, b2n !s.zero.isEmpty)]
  else if a = R.logStat then
    viewWord x [(F.logStat_pending, s.onyx.logPending), (F.logStat_coalescing, b2n !s.onyx.logOpen.isEmpty)]
  else if a = R.logSeq then Word.of s.onyx.logNext
  else if a = R.logOldest then Word.of (match s.onyx.log.head? with | some e => e.seq | none => s.onyx.logNext)
  else if a = R.secSvn then s.onyx.fused
  else if a = R.secRevoked then Word.of s.onyx.revoked.toNat
  else if R.idleRes 0 0 ≤ a ∧ a ≤ R.idleRes 7 4 then
    Word.of (s.residency ((a - R.idleRes 0 0) / 0x28) ((a - R.idleRes 0 0) % 0x28 / 8))
  else x

/-! ## Compute dies -/

/-- R415: whether the enabled P2 regulators of a controller promise more than 90 % of its stack's peak. -/
def State.overcommit (s : State) (cd c : Nat) : Bool :=
  let rate (p : Nat) : Nat :=
    if s.flag (R.mcReg cd c p) F.mcReg_enable && s.flag (R.mcPart cd p) F.mcPart_class then s.fld (R.mcReg cd c p) F.mcReg_rate else 0
  decide (2212 < ((upTo 8).map rate).sum)

/-- R216: the selected synchronization object. -/
def State.viewObj (s : State) (cd : Nat) : Word :=
  let o := s.obj (cd * 2048 + s.fld (R.syncViewSel cd) F.syncViewSel_index)
  let common := [(F.syncView_ovf, b2n o.ovf), (F.syncView_abandoned, b2n o.abandoned),
    (F.syncView_waiters, o.queue.length), (F.syncView_part, o.part.toNat)]
  match o.typ with
  | .unused => viewWord 0 ((F.syncView_type, 0) :: common)
  | .counter => viewWord 0 ((F.syncView_type, 1) :: (F.syncView_value, o.value.toNat) :: common)
  | .lock =>
    let w := viewWord 0 ((F.syncView_type, 2) :: common)
    match o.owner with
    | none => w
    | some q => viewWord w [(F.syncView_held, 1), (F.syncView_ownerKind, q.kind.toNat), (F.syncView_ownerDie, q.die.toNat),
        (F.syncView_ownerCore, q.core.toNat), (F.syncView_ownerGroup, q.group.toNat), (F.syncView_ownerLane, q.lane.toNat)]

/-- R498: the number of a line's state at its home. -/
def HomeState.num : HomeState → Nat
  | .u => 0
  | .s => 1
  | .o => 2
  | .m => 3
  | .p => 4

/-- R498: the selected line at its home; the register reads 0 for a line of another home. -/
def State.viewDir (s : State) (cd : Nat) : Word :=
  let line := s.fld (R.dirSel cd) F.dirSel_line
  if s.home line ≠ cd then 0
  else
    let e := s.dirEnt line
    let owned := decide (e.st = .o) || decide (e.st = .m)
    viewWord 0 [(F.dirView_state, e.st.num), (F.dirView_entry, b2n (decide (e.st ≠ .u))),
      (F.dirView_owner, if owned then e.owner else 0), (F.dirView_sharers, e.sharers.toNat)]

/-- R701: whether a save has stopped the bobbin cores. -/
def State.bobStopped (s : State) : Bool := match s.pwr.save with | some r => !r.only | none => false

/-- A compute die's registers (R216, R415, R438, R498, R644). -/
def State.viewCd (s : State) (cd a : Nat) : Word :=
  let x := s.reg a
  if a = R.syncView cd then s.viewObj cd
  else if a = R.dirView cd then s.viewDir cd
  else if a = R.homeStat cd then
    viewWord x [(F.homeStat_mosi, b2n s.mosi), (F.homeStat_dirUsed, (s.dir.filter (fun e => decide (s.home e.1 = cd))).length)]
  else if a = R.mcStat cd 0 then viewWord x [(F.mcStat_overcommit, b2n (s.overcommit cd 0))]
  else if a = R.mcStat cd 1 then viewWord x [(F.mcStat_overcommit, b2n (s.overcommit cd 1))]
  else if a = R.bobCtrl cd 0 ∨ a = R.bobCtrl cd 1 then viewWord x [(F.bobCtrl_halted, b2n s.bobStopped)]
  else x

/-! ## Clusters and cores -/

/-- A cluster's registers (R495, R496). -/
def State.viewClu (s : State) (cl a : Nat) : Word :=
  let x := s.reg a
  if a = R.l2Stat cl then viewWord x [(F.l2Stat_missUsed, (s.miss.filter (fun m => decide (m.holder = cl))).length)]
  else if R.l1Ctrl cl 0 ≤ a ∧ a ≤ R.l1Ctrl cl 15 then
    viewWord x [(F.l1Ctrl_bufUsed, (s.core (cl * 16 + (a - R.l1Ctrl cl 0) / 8)).mbuf.length)]
  else x

/-- The code of a group's width (R212). -/
def widthCode (w : Nat) : Nat := if w = 8 then 0 else if w = 16 then 1 else if w = 32 then 2 else 3

/-- R212: the selected group. -/
def Group.view (x : Group) : Word :=
  if !x.resident then 0
  else viewWord 0 [(F.grpInfo_pc, x.pc.toNat / 8), (F.grpInfo_code, match x.halt with | some c => c.toNat | none => 0),
    (F.grpInfo_halted, b2n x.halt.isSome), (F.grpInfo_resident, 1), (F.grpInfo_width, widthCode x.width),
    (F.grpInfo_priority, x.prio.toNat)]

/-- A core's registers (R210, R212, R213, R363, R365). -/
def State.viewCore (s : State) (c a : Nat) : Word :=
  let x := s.reg a
  let k := s.core c
  let g := k.grp (s.fld (R.grpSel c) F.grpSel_group)
  let gs := (k.groups.filter (fun e => e.2.resident)).map Prod.snd
  if a = R.seqStat c then
    viewWord x [(F.seqStat_halted, b2n (decide (k.halted ≠ 0))), (F.seqStat_haltCause, k.halted.toNat),
      (F.seqStat_groups, gs.length), (F.seqStat_threads, (gs.map Group.width).sum),
      (F.seqStat_blocks, (k.blocks.filter (fun e => e.2.used)).length)]
  else if a = R.grpInfo c then g.view
  else if a = R.grpMask c then (if g.resident then g.active else 0)
  else if a = R.grpFull c then (if g.resident then g.full else 0)
  else if R.grpHalt c 0 ≤ a ∧ a ≤ R.grpHalt c 3 then
    let i := (a - R.grpHalt c 0) / 8
    Word.of ((upTo 64).foldl (fun v j =>
      let y := k.grp (64 * i + j)
      v + (if y.resident && y.halt.isSome then 2 ^ j else 0)) 0)
  else if a = R.veStat c then
    viewWord x [(F.veStat_bank, b2n k.tblBank), (F.veStat_tblLoading, b2n k.tblLoad.isSome), (F.veStat_slotValid, k.slotValid)]
  else if a = R.tblData c then s.tblDataRead c (s.flag (R.tblAddr c) F.tblAddr_readBank)
  else x

/-! ## Reads -/

/-- What the register at a plain address holds now. Engines hold no instruction between commands, so BUSY and QUEUED
of their status registers are 0 (log entry 8). -/
def State.regView (s : State) (a : Nat) : Word :=
  let site := a / 0x1_0000_0000
  let off := a % 0x1_0000_0000
  if off = 0 then s.viewSite site
  else if site = 0 then s.viewHub a
  else if site ≤ 8 then
    if off < 0x0100_0000 then s.viewCd (site - 1) a
    else
      let cl := (site - 1) * 8 + (off - 0x0100_0000) / 0x20_0000
      let u := (off - 0x0100_0000) % 0x20_0000 / 0x1_0000
      if u = 0 then s.viewClu cl a else s.viewCore (cl * 16 + (u - 1)) a
  else s.reg a

end Sys2Proof.Machine
end

