-- ==== Sys2Proof/Machine/Training.lean ====
section
/-!
DEFINITION. Scale ledger, touchstone sampling and master weights (chapter 8).
-/

namespace Sys2Proof.Machine

/-! ## Ledger entries -/

/-- A field of a ledger entry: its lowest bit in the 1,024-bit image and its width. -/
abbrev EntryField := Nat × Nat

/-- R370: the fields of an entry. -/
def Lg.version : EntryField := (512, 8)
def Lg.scale : EntryField := (520, 8)
def Lg.head : EntryField := (528, 4)
def Lg.filled : EntryField := (532, 5)
def Lg.warmLeft : EntryField := (537, 5)
def Lg.ovfLast : EntryField := (542, 1)
def Lg.selValid : EntryField := (543, 1)
def Lg.tag : EntryField := (544, 32)
def Lg.curAmax : EntryField := (576, 32)
def Lg.curOvf : EntryField := (608, 16)
def Lg.curNan : EntryField := (624, 1)
def Lg.selJit : EntryField := (625, 1)
def Lg.fmt : EntryField := (632, 8)
def Lg.steps : EntryField := (640, 32)
def Lg.ovfSteps : EntryField := (672, 32)
/-- History slot h. -/
def Lg.hist (h : Nat) : EntryField := (h % 16 * 32, 32)

/-- Bytes of an entry. -/
def entryBytes : Nat := 128

/-- The image of an entry. -/
structure Entry where
  img : Nat

/-- A field's value. -/
def Entry.get (e : Entry) (f : EntryField) : Nat := bits e.img f.1 f.2

/-- Set a field. -/
def Entry.set (e : Entry) (f : EntryField) (v : Nat) : Entry :=
  ⟨e.img - e.get f * 2 ^ f.1 + v % 2 ^ f.2 * 2 ^ f.1⟩

/-- Raise a field by n, saturating at its width. -/
def Entry.rise (e : Entry) (f : EntryField) (n : Nat) : Entry := e.set f (min (e.get f + n) (2 ^ f.2 - 1))

/-- The parameter word (R371). -/
structure LgPar where
  epoch : Nat
  fmt : Nat
  warmup : Nat
  margin : Nat
  deriving DecidableEq, Repr

/-- R371, R375: a parameter word; a format other than FP16, E4M3 and E5M2 or a reserved bit gives none. -/
def LgPar.of (w : Word) : Option LgPar :=
  let x := w.toNat
  let f := bits x 32 4
  if (f = 2 ∨ f = 4 ∨ f = 5) ∧ x / 2 ^ 43 = 0 then some ⟨bits x 0 32, f, bits x 36 5, bits x 41 2⟩ else none

/-- The target format. -/
def LgPar.target (p : LgPar) : Fmt := (Fmt.ofCode p.fmt).getD .f16

/-- R373: whether an entry is lost. -/
def Entry.lost (e : Entry) (p : LgPar) : Bool :=
  decide (e.get Lg.version ≠ 1) || decide (e.get Lg.tag ≠ p.epoch) || decide (e.get Lg.fmt ≠ p.fmt)
    || decide (bits e.img 626 6 ≠ 0) || decide (bits e.img 704 320 ≠ 0)

/-- R373: an entry just initialised. -/
def Entry.fresh (p : LgPar) : Entry :=
  ((((⟨0⟩ : Entry).set Lg.version 1).set Lg.scale 127).set Lg.tag p.epoch |>.set Lg.fmt p.fmt).set Lg.warmLeft p.warmup

/-- R372: code(a). -/
def scaleCode (p : LgPar) (a : Val) : Nat :=
  match a with
  | .fin _ m e =>
    let l := Exact.ofVal (p.target.decode p.target.maxCode)
    let k0 : Int := (e + bitLen m) - (l.q + bitLen l.n.natAbs)
    let big : Val := .fin false l.n.natAbs (l.q + k0)
    let k := if big.lt (.fin false m e) then k0 + 1 else k0
    (max 0 (min (127 + (p.margin : Int) + k) 254)).toNat
  | .inf _ => 254
  | _ => 127

/-- The FP32 value of a field. -/
def Entry.f32 (e : Entry) (f : EntryField) : Val := Fmt.f32.decode (e.get f)

/-- R377: the greatest of the filled history values. -/
def Entry.history (e : Entry) : Val :=
  (upTo (e.get Lg.filled)).foldl (fun m i =>
    let v := e.f32 (Lg.hist (e.get Lg.head + 32 - 1 - i))
    if m.lt v then v else m) (.zero false)

/-- R376: the ledger status. -/
def Entry.status (e : Entry) (need lost nanStep : Bool) : Word :=
  Word.of (e.get Lg.scale + b2n need * 2 ^ 8 + e.get Lg.selJit * 2 ^ 9 + b2n lost * 2 ^ 10
    + e.get Lg.ovfLast * 2 ^ 11 + b2n nanStep * 2 ^ 12 + e.get Lg.warmLeft * 2 ^ 13 + e.get Lg.filled * 2 ^ 18)

/-- R377: VLSEL on an entry: the entry after it and NEED_AMAX. -/
def Entry.select (e : Entry) (p : LgPar) (given : Bool) (amax : Val) : Entry × Bool :=
  let pick (sc : Nat) (jit : Bool) : Entry × Bool :=
    (((e.set Lg.scale sc).set Lg.selValid 1).set Lg.selJit (b2n jit), false)
  if 0 < e.get Lg.warmLeft ∨ e.get Lg.filled = 0 then
    if given then pick (scaleCode p amax.abs) true else (e, true)
  else
    let c := scaleCode p e.history
    pick (if e.get Lg.ovfLast = 1 then max c (min (e.get Lg.scale + 1) 254) else c) false

/-- R379: an ACCST status enters the open step. -/
def Entry.record (e : Entry) (st : Word) : Entry :=
  let x := st.toNat
  let amax := bits x 0 32
  let e1 :=
    if bits x 45 1 = 1 then e.set Lg.curNan 1
    else if (e.f32 Lg.curAmax).lt (Fmt.f32.decode amax) then e.set Lg.curAmax amax else e
  e1.rise Lg.curOvf (bits x 32 13)

/-- R380: close the open step. -/
def Entry.close (e : Entry) : Entry :=
  let e1 :=
    if e.get Lg.curNan = 0 then
      let h := e.get Lg.head
      ((e.set (Lg.hist h) (e.get Lg.curAmax)).set Lg.head (h + 1)).set Lg.filled (min (e.get Lg.filled + 1) 16)
    else e
  let ovf := decide (0 < e.get Lg.curOvf)
  let e2 := e1.set Lg.ovfLast (b2n ovf)
  let e3 := if ovf then e2.rise Lg.ovfSteps 1 else e2
  let e4 := if e.get Lg.selJit = 1 ∧ 0 < e.get Lg.warmLeft then e3.set Lg.warmLeft (e.get Lg.warmLeft - 1) else e3
  ((((e4.rise Lg.steps 1).set Lg.curAmax 0).set Lg.curOvf 0).set Lg.curNan 0 |>.set Lg.selValid 0).set Lg.selJit 0

/-- VLSEL and VLUPD (R373 to R380): `act` gives the entry after the instruction, NEED_AMAX, NAN_STEP and whether a
step with an overflow was closed. -/
def ledgerOp (opcode : Nat) (act : Group → LgPar → Entry → Entry × Bool × Bool × Bool) (g : GroupRef) (f : Fields)
    (s : State) : State :=
  s.issue g fun x s =>
    let a := x.off f.a
    let fits := decide (a % 128 = 0) && decide (a + entryBytes ≤ opcSize) && !f.ieee
    s.legal g (vFieldsOk x f { b := true, c := true, m3 := true, low := 0 } && fits) fun s =>
      match LgPar.of (x.uni f.b.toNat) with
      | none => s.haltGroup g .illegal
      | some p => s.eccGuard g [(a, entryBytes)] [] fun s =>
        let c := g.core.val
        let k := s.core c
        let e0 : Entry := ⟨bytesLE k.opc a entryBytes⟩
        let lost := e0.lost p
        let (e, need, nanStep, ovf) := act x p (if lost then Entry.fresh p else e0)
        let s1 := (s.count (R.lgCnt c) F.lgCnt_lost (b2n lost)).count (R.lgCnt c) F.lgCnt_ovf (b2n ovf)
        let s2 := s1.setGrp g ((s1.grp g).setUni f.dst.toNat (e.status need lost nanStep))
        s2.veDone g opcode 12 0 1 { core := k.putOpc a entryBytes e.img }

/-- VLSEL (R377). -/
def vlsel (g : GroupRef) (f : Fields) (s : State) : State :=
  ledgerOp 0x48 (fun x p e =>
    let (e', need) := e.select p f.m3 (Fmt.f64.decode (x.uni f.c.toNat).toNat)
    (e', need, false, false)) g f s

/-- VLUPD (R379, R380). -/
def vlupd (g : GroupRef) (f : Fields) (s : State) : State :=
  ledgerOp 0x49 (fun x _ e =>
    let e1 := e.record (x.uni f.c.toNat)
    if f.m3 then (e1.close, false, decide (e1.get Lg.curNan = 1), decide (0 < e1.get Lg.curOvf))
    else (e1, false, false, false)) g f s

/-! ## Touchstone sampling -/

/-- VTSEL (R383). -/
def vtsel (g : GroupRef) (f : Fields) (s : State) : State :=
  s.issue g fun x s =>
    s.legal g (vFieldsOk x f { b := true, low := 0 } && !f.ieee) fun s =>
      let c := g.core.val
      let t := (x.uni f.a.toNat).toNat % 2 ^ 32
      let st := (x.uni f.b.toNat).toNat % 2 ^ 32
      let hit := s.flag (R.tsCtrl c) F.tsCtrl_enable && decide ((t + st) % 2 ^ s.fld (R.tsCtrl c) F.tsCtrl_k = 0)
      (s.setGrp g ((s.grp g).setUni f.dst.toNat (Word.of (b2n hit)))).veDone g 0x4A 2 0 1 { core := s.core c }

/-- The square root of a rational that is above 0, with a sticky last bit. -/
def Rational.sqrtVal (a : Rational) : Val :=
  let n := a.num.natAbs
  let sh : Nat := 2 * (300 + bitLen a.den)
  let q := n * 2 ^ sh / a.den
  let rest := decide (n * 2 ^ sh % a.den ≠ 0)
  let r := isqrt q
  .fin false (2 * r + b2n (rest || decide (r * r ≠ q))) (-(Int.ofNat (sh / 2)) - 1)

/-- R384: the relative error of finite values against a reference, as FP32. -/
def touchError (as bs : List Val) : Nat :=
  let w (v : Val) : Wide := toWide .f64 v false
  let num := compSum .f64 ((as.zip bs).map (fun p =>
    let d := w (Val.add 0 p.1 p.2.neg).1
    d.mul .f64 d))
  let den := compSum .f64 (bs.map (fun b => (w b).mul .f64 (w b)))
  match num.val, den.val with
  | .zero _, _ => 0
  | _, .zero _ => Fmt.f32.infCode
  | n, d => (Fmt.f32.round 0 true 0 false (n.rat.div d.rat).sqrtVal).1

/-- The formats R384 admits for tested values. -/
def touchFmt : VFmt → Bool
  | .num f => !f.isInt && decide (f ≠ .f64)
  | .mx _ => true
  | .mask => false

/-- R388: the words of a touchstone record. -/
def touchWords (c : Nat) (alarm nonfin : Bool) (slot : Nat) (par : Word) (err epoch tick pc : Nat) : List Word :=
  [ Word.of (1 + b2n alarm * 2 + b2n nonfin * 4 + coreSite c * 2 ^ 3 + coreK c * 2 ^ 7 + c % 16 * 2 ^ 10 + slot * 2 ^ 14
      + bits par.toNat 40 24 * 2 ^ 22),
    Word.of (bits par.toNat 0 32 + err * 2 ^ 32),
    Word.of (epoch % 2 ^ 32 + tick % 2 ^ 32 * 2 ^ 32),
    Word.of (pc / 8) ]

/-- R386: a comparison with WARN or ALARM is captured when the record is free, or held at WARN below an ALARM. -/
def State.touchCapture (s : State) (c : Nat) (alarm : Bool) (ws : List Word) : State :=
  let r0 := (s.reg (R.tsRec c 0)).toNat
  if r0 % 2 = 0 ∨ (r0 / 2 % 2 = 0 ∧ alarm) then
    let s1 := s.setRegs (R.tsRec c 0) ws
    if s.flag (R.tsCtrl c) (if alarm then F.tsCtrl_alarmInt else F.tsCtrl_warnInt) then
      s1.raise (coreSite c) (40 + coreK c)
    else s1
  else s

/-- VTCMP (R384 to R386). It raises no flag of the vector engine (R389). -/
def vtcmp (g : GroupRef) (f : Fields) (s : State) : State :=
  s.issue g fun x s =>
    s.legal g (vFieldsOk x f { b := true, c := true, low := 0 } && !f.ieee) fun s =>
      match x.desc f.a.toNat, x.desc f.b.toNat with
      | some a, some b =>
        let fits := decide (b.n = a.n) && touchFmt a.fmt && (decide (b.fmt = .num .f32) || decide (b.fmt = .num .f64))
        s.legal g fits fun s => s.eccGuard g (readsOf [a, b] none) [] fun s =>
          let c := g.core.val
          let k := s.core c
          let par := x.uni f.c.toNat
          let sc : Int := if a.fmt.isMx then 0 else Int.ofNat (bits par.toNat 32 8) - 127
          let as := (upTo a.n).map (fun e => (a.val k.opc e).scale sc)
          let bs := (upTo a.n).map (b.val k.opc)
          let nonfin := (as ++ bs).any (fun v => v.isNan || v.isInf)
          let r := if nonfin then Fmt.f32.nanCode else touchError as bs
          let thr := s.reg (R.tsThr c)
          let rv := Fmt.f32.decode r
          let atLeast (t : Nat) : Bool := let v := Fmt.f32.decode t; v.lt rv || v.eq rv
          let warn := atLeast (F.tsThr_warn.get thr)
          let alarm := atLeast (F.tsThr_alarm.get thr) || nonfin
          let old := s.fld (R.tsMaxerr c) F.tsMaxerr_maxerr
          let oldV := Fmt.f32.decode old
          let s1 := if rv.isNan || oldV.lt rv then s.setFld (R.tsMaxerr c) F.tsMaxerr_maxerr r else s
          let s2 := ((s1.count (R.tsCnt c) F.tsCnt_compared 1).count (R.tsCntX c) F.tsCntX_warn (b2n warn)).count
            (R.tsCntX c) F.tsCntX_alarm (b2n alarm)
          let s3 := if warn || alarm then
              s2.touchCapture c alarm (touchWords c alarm nonfin g.slot.val par r
                (s2.fld (R.wvClEpoch (coreCl c)) F.wvClEpoch_epoch) s2.tick x.pc.toNat)
            else s2
          let st := Word.of (r + b2n warn * 2 ^ 32 + b2n alarm * 2 ^ 33 + b2n nonfin * 2 ^ 34)
          (s3.setGrp g ((s3.grp g).setUni f.dst.toNat st)).veDone g 0x4B ((a.n + 63) / 64 + 24) 0 a.len { core := k }
      | _, _ => s.haltGroup g .illegal

/-- R387: REARM clears VALID. -/
def State.touchRearm (s : State) (c : Nat) : State :=
  s.setReg (R.tsRec c 0) (s.reg (R.tsRec c 0) &&& ~~~ 1)

/-! ## Master weights -/

/-- Stored fraction bits of the master format (R390). -/
def masterFrac : Nat := 39

/-- R390: the value of a high part and its tail. -/
def masterVal (h tau : Nat) : Val :=
  let neg := decide (2 ^ 31 ≤ h)
  let mag : Nat := h % 2 ^ 31 * 2 ^ 16 + tau
  let ex : Nat := mag / 2 ^ masterFrac
  let fr : Nat := mag % 2 ^ masterFrac
  if 255 ≤ ex then Fmt.f32.decode h
  else if ex = 0 then Val.mk neg fr (1 - 127 - masterFrac)
  else Val.mk neg (2 ^ masterFrac + fr) ((ex : Int) - 127 - masterFrac)

/-- R392 to R394: round an exact sum to the master format: the high part, the tail and the flags. -/
def masterRound (mode : Nat) (ieee : Bool) (draw : Nat) (v : Val) : Nat × Nat × NFlags :=
  let sgn (neg : Bool) : Nat := if neg then 2 ^ 31 else 0
  match v with
  | .nan => (Fmt.f32.nanCode, 0, {})
  | .inf n => (sgn n + Fmt.f32.infCode, 0, {})
  | .zero n => (sgn n, 0, {})
  | .fin neg m e =>
    let q : Int := max (e + bitLen m - 1) (1 - 127) - masterFrac
    let (k, rem, div) := inUnits m e q
    let n := if roundsUp mode draw neg k rem div then k + 1 else k
    let code := if n < 2 ^ masterFrac then n
      else (q + masterFrac + 127).toNat * 2 ^ masterFrac + (n - 2 ^ masterFrac)
    let drew := decide (mode = 4) && decide (rem ≠ 0)
    if 255 * 2 ^ masterFrac ≤ code then
      let fl : NFlags := { overflow := true, inexact := true, drew := drew }
      if Fmt.f32.overflowCode ieee mode neg false % 2 ^ 31 = Fmt.f32.infCode then (sgn neg + Fmt.f32.infCode, 0, fl)
      else (sgn neg + Fmt.f32.maxCode, 0xFFFF, fl)
    else (sgn neg + code / 2 ^ 16, code % 2 ^ 16,
      { inexact := decide (rem ≠ 0), drew := drew
        underflow := decide (rem ≠ 0) && decide (code < 2 ^ masterFrac) })

/-- VMUPD (R390 to R394). -/
def vmupd (g : GroupRef) (f : Fields) (s : State) : State :=
  s.issue g fun x s =>
    s.legal g (vFieldsOk x f { b := true, mask := true, low := 4 }) fun s =>
      match x.desc f.dst.toNat, x.desc f.a.toNat with
      | some d, some a =>
        match vMask x f a with
        | none => s.haltGroup g .illegal
        | some mask =>
          let par := x.uni f.b.toNat
          let tail := par.toNat % 2 ^ 20
          let pt := (2 * d.len + 63) / 64 * 64
          let tr : Rng := (tail, d.rows * pt)
          let srcs := a :: maskSrc mask
          let fits := decide (d.n = a.n) && d.apart srcs && decide (d.fmt = .num .f32)
            && (decide (a.fmt = .num .f32) || decide (a.fmt = .num .bf16) || decide (a.fmt = .num .f16))
            && decide (tail % 64 = 0) && decide (tail + d.rows * pt ≤ opcSize)
            && (d :: srcs).all (fun q => !Rng.meets tr q.span)
          let tails := (upTo d.rows).map (fun r => (tail + r * pt, 2 * d.len))
          s.legal g fits fun s => s.eccGuard g (readsOf (d :: srcs) none ++ tails) [] fun s =>
            let c := g.core.val
            let k := s.core c
            let mode := s.veMode c f.low
            let seed := s.reg (R.srSeed c)
            let key := Word.of (par.toNat / 2 ^ 20)
            let out := (elems a.n mask k.opc).foldl (fun (o : VAcc) e =>
              let ta := tail + e / d.len * pt + 2 * (e % d.len)
              let r := Val.add mode (masterVal (d.code k.opc e) (bytesLE k.opc ta 2)) (a.val k.opc e)
              let draw := srDraw seed (srKey 5 (d.rowBase e + 4 * (e % d.len))) key
              let (h, t, fl) := masterRound mode f.ieee draw r.1
              { (o.raised { fl with invalid := r.2.isSome }).report e r.2 with
                core := (d.put o.core e h).putOpc ta 2 t, draws := o.draws + b2n fl.drew }) { core := k }
            s.veDone g 0x4C ((a.n + 63) / 64 + 8) 0 a.len out
      | _, _ => s.haltGroup g .illegal

/-! ## Meanings -/

/-- VLSEL (R377). -/
def execVlsel (g : GroupRef) (f : Fields) (s : State) : Out := s.run fun s => vlsel g f s
/-- VLUPD (R379). -/
def execVlupd (g : GroupRef) (f : Fields) (s : State) : Out := s.run fun s => vlupd g f s
/-- VTSEL (R383). -/
def execVtsel (g : GroupRef) (f : Fields) (s : State) : Out := s.run fun s => vtsel g f s
/-- VTCMP (R384). -/
def execVtcmp (g : GroupRef) (f : Fields) (s : State) : Out := s.run fun s => vtcmp g f s
/-- VMUPD (R392). -/
def execVmupd (g : GroupRef) (f : Fields) (s : State) : Out := s.run fun s => vmupd g f s

end Sys2Proof.Machine
end

