-- ==== Sys2Proof/Machine/Bus.lean ====
section
/-!
DEFINITION. Register accesses (R69 to R107): windows, sizes and offsets, aliases, gating, clear-on-read fields, and
the effect of a write on each register that starts something.
-/

namespace Sys2Proof.Machine

/-! ## Gating (R12, R91 to R95) -/

/-- R12, R92: whether a field of an access type is gated against a request. -/
def Acc.gated (priv secure : Bool) : Acc → Bool
  | .rwp => !priv
  | .rop => !priv
  | .rws => !secure
  | _ => false

/-- What an access met: the bits it leaves, the W1P bits it starts, and whether it broke a privileged or a secure gate. -/
structure Met where
  word : Word
  pulse : Word := 0
  priv : Bool := false
  secure : Bool := false
  deriving DecidableEq, Repr

/-- A gate has been met (R93). -/
def Met.breaks (x : Met) (f : Fld) : Met :=
  if f.acc = .rws then { x with secure := true } else { x with priv := true }

/-- R12, R93: one field of a read. -/
def Met.readFld (priv secure : Bool) (v : Word) (x : Met) (f : Fld) : Met :=
  if f.acc = .w1p ∨ f.acc = .wo then x
  else if f.acc.gated priv secure then (if f.get v = 0 then x else x.breaks f)
  else { x with word := x.word ||| (v &&& f.mask) }

/-- R12: what a read of a register that holds `v` returns. -/
def readWord (fs : List Fld) (priv secure : Bool) (v : Word) : Met := fs.foldl (Met.readFld priv secure v) { word := 0 }

/-- R79: the value an alias write gives a field. -/
def aliasValue (copy old v w : Nat) : Nat :=
  match copy with
  | 1 => old ||| v
  | 2 => old &&& (2 ^ w - 1 - v)
  | 3 => old ^^^ v
  | _ => v

/-- Fields that an alias write may change (R79). -/
def Acc.byAlias : Acc → Bool
  | .rw => true
  | .rwp => true
  | _ => false

/-- Fields that a plain write may set (R12). -/
def Acc.byWrite : Acc → Bool
  | .rw => true
  | .rwp => true
  | .rws => true
  | .wo => true
  | _ => false

/-- R12, R13, R79, R81, R93: one field of a write of `v` to copy `copy` of a register that holds `old`. -/
def Met.writeFld (priv secure : Bool) (copy : Nat) (old v : Word) (x : Met) (f : Fld) : Met :=
  if copy = 0 ∧ f.acc = .w1p then { x with pulse := x.pulse ||| (v &&& f.mask) }
  else if !(if copy = 0 then f.acc.byWrite else f.acc.byAlias) then x
  else
    let cur := f.get old
    let want := aliasValue copy cur (f.get v) f.w
    let new := if f.legal want then want else cur
    if f.acc.gated priv secure then (if new = cur then x else x.breaks f)
    else { x with word := f.set new x.word }

/-- What a write leaves in a register. -/
def writeWord (fs : List Fld) (priv secure : Bool) (copy : Nat) (old v : Word) : Met :=
  fs.foldl (Met.writeFld priv secure copy old v) { word := old }

/-- R100: KIND, DIE and UNIT of a master. Onyx meets no gate. -/
def Master.ident : Master → Nat × Nat × Nat
  | .accel c => (2, coreSite c.val, coreUnit c.val)
  | .host hd c _ => (0, 9 + hd.val, c.val)
  | .bobbin cd b _ => (1, cd.val + 1, b.val)
  | .beryl => (4, 0, 0)
  | .onyx => (5, 0, 0)
  | .jtag => (6, 0, 0)

/-- R100: the record of a violation. -/
def violWord (m : Master) (a : Nat) (write alias_ secure : Bool) : Word :=
  let (k, d, u) := m.ident
  Word.of (a % 2 ^ 32 + k * 2 ^ 32 + d * 2 ^ 36 + u * 2 ^ 40 + b2n write * 2 ^ 48 + b2n alias_ * 2 ^ 49 + b2n secure * 2 ^ 50 + 2 ^ 51)

/-- R93 to R95: what a die does about the gates an access broke. -/
def State.violate (s : State) (m : Master) (a : Nat) (write : Bool) (x : Met) : State :=
  if !x.priv && !x.secure then s
  else
    let site := a / 0x1_0000_0000
    let w := violWord m a write (write && decide (regCopy a ≠ 0)) x.secure
    let s1 := if x.priv then s.count (R.violCnt site) F.violCnt_priv 1 else s
    let s2 := if x.secure then s1.count (R.violCnt site) F.violCnt_secure 1 else s1
    let s3 := if s2.flag (R.violFirst site) F.violFirst_valid then s2 else (s2.setReg (R.violFirst site) w).raise site 3
    if x.secure then s3.audit 0x0001 m.ident.2.1 m.ident.2.2 w 1 else s3

/-! ## Reads -/

/-- R12, R84: the bits that a plain read clears. -/
def clearMask (fs : List Fld) : Word := (fs.filter (fun f => decide (f.acc = .rc))).foldl (fun m f => m ||| f.mask) 0

/-- A read of the register at plain address `p`, through address `a`. -/
def State.regRead (s : State) (m : Master) (a p : Nat) (row : RegRow) (hold : Bool) : State :=
  let v := s.regView p
  let s0 := if isSensor p then s.draw else s
  if hold then s0.answer .ok [v]
  else
    let x := readWord row.fields (s.isPriv m) (s.isSecure m) v
    let c := clearMask row.fields
    let s1 := if regCopy a = 0 ∧ c ≠ 0 then s0.setReg p (s0.reg p &&& ~~~ c) else s0
    (s1.violate m a false x).answer .ok [x.word]

/-! ## Writes that start something -/

/-- A register with an ACTION field: the field reads back as 0 and a value other than 0 is carried out. -/
def State.action (s : State) (a : Nat) (f : Fld) (new : Word) (go : Nat → State → State) : State :=
  let t := s.setReg a (f.set 0 new)
  if f.get new = 0 then t else go (f.get new) t

/-- Whether a W1P bit is started. -/
def Fld.hit (f : Fld) (pulse : Word) : Bool := decide (f.get pulse ≠ 0)

/-- Global blocks (R88, R90, R97, R104). -/
def State.storeGlob (s : State) (a : Nat) (new pulse : Word) : State :=
  let site := a / 0x1_0000_0000
  let off := a % 0x1_0000_0000
  if off = 0x20 then
    if site = 0 && F.snapCtrl_takeAll.hit pulse then s.takeAll
    else if F.snapCtrl_take.hit pulse then s.snapTake site else s
  else if 0x3000 ≤ off then (s.setReg a new).msiEntry (a - a % 0x10) (a - a % 0x10 + 8) false
  else s.setReg a new

/-- Optical links and lasers (R58 to R60). -/
def State.storeLink (s : State) (a : Nat) (new pulse : Word) : State :=
  if a = R.linkCtrl then (if F.linkCtrl_retrainAll.hit pulse then s.retrainEvery else s)
  else if 0x10100 ≤ a ∧ a < 0x10380 then
    let n := (a - 0x10100) / 0x40
    let s1 := (s.setReg a (F.olCtrl_enable.set (s.fld a F.olCtrl_enable) new)).olEnable n (decide (F.olCtrl_enable.get new = 1))
    if F.olCtrl_retrain.hit pulse then s1.retrain (n + 8) else s1
  else s.setReg a new

/-- The commands of an L2 or of the far cache, INVALIDATE before CLEAN. -/
def State.storeCacheCmd (s : State) (h cmd : Nat) (inv : State → State) (pulse : Word) : State :=
  let s1 := if F.l2Cmd_invalidate.hit pulse then inv s else s
  if F.l2Cmd_clean.hit pulse then s1.bigClean h cmd else s1

/-- The far cache (R500). -/
def State.storeXl (s : State) (a : Nat) (new pulse : Word) : State :=
  if a = R.xlCtrl then s.xlEnable (decide (F.xlCtrl_enable.get new = 1))
  else if a = R.xlCmd then s.storeCacheCmd xlIx R.xlCmd State.xlInvalidate pulse
  else s.setReg a new

/-- R528, R540: a write of an engine's SE_CTRL; RING_LOG2, PART and CTX move while the engine is free. -/
def State.storeSeCtrl (s : State) (e : SeRef) (free : Bool) (a : Nat) (new : Word) : State :=
  let old := s.reg a
  let kept := F.seCtrl_ctx.set (F.seCtrl_ctx.get old) (F.seCtrl_part.set (F.seCtrl_part.get old)
    (F.seCtrl_ringLog2.set (F.seCtrl_ringLog2.get old) new))
  (s.setReg a (F.seCtrl_enable.set (F.seCtrl_enable.get old) (if free then new else kept))).seEnable e
    (decide (F.seCtrl_enable.get new = 1))

/-- The actions of an engine's SE_CMD (R542). -/
def State.seAction (s : State) (e : SeRef) (act : Nat) : State :=
  if act = 1 then s.sePause e else if act = 2 then s.seResume e else s.seAbort e

/-- A shuttle engine (R527, R529, R542, R557); `k` is the register's number in the engine. -/
def State.storeSe (s : State) (e : SeRef) (k a : Nat) (new : Word) : State :=
  let free := !s.flag e.ctrl F.seCtrl_enable && (s.seSt e.ix).queue.isEmpty
  if k = 0 then s.storeSeCtrl e free a new
  else if k = 1 then (if free then s.setReg a new else s)
  else if k = 2 then s.seDoorbell e (F.seDb_prod.get new)
  else if k = 4 then s.action a F.seCmd_action new (fun act t => t.seAction e act)
  else s.setReg a new

/-- HUB_DMA (R519, R552, R555). -/
def State.storeDma (s : State) (a : Nat) (new pulse : Word) : State :=
  if a < 0x50200 then s.storeSe (.hub (Fin.ofNat 8 ((a - 0x50000) / 0x40))) (a % 0x40 / 8) a new
  else if a = R.shootCtrl then
    let t := s.setReg a new
    if F.shootCtrl_go.hit pulse then t.shootGo else t
  else if a = R.fqResolve then
    let t := s.setReg a new
    if F.fqResolve_go.hit pulse then
      t.fqResolve (F.fqResolve_part.get new) (F.fqResolve_index.get new) (decide (F.fqResolve_action.get new = 1))
    else t
  else if 0x50800 ≤ a ∧ a < 0x50900 then
    let p := (a - 0x50800) / 0x20
    if a % 0x20 = 0 then s.fqBaseWrite p new else s.fqCons p (F.fqCons_cons.get new)
  else s.setReg a new

/-- The weave loader (R595). -/
def State.storeWv (s : State) (a : Nat) (new : Word) : State :=
  if a = R.wvCmd then s.action a F.wvCmd_action new fun act t =>
    match act with
    | 1 => t.wvStage
    | 2 => t.wvCommit
    | _ => t.wvAbort
  else s.setReg a new

/-- The twin controller (R647): the fields of TWN_CTRL are taken before ENABLE, MODE and ACTION act. -/
def State.storeTwn (s : State) (a : Nat) (new pulse : Word) : State :=
  if a = R.twnCtrl then
    let old := s.reg a
    let w := F.twnCtrl_action.set 0 (F.twnCtrl_mode.set (F.twnCtrl_mode.get old) (F.twnCtrl_enable.set (F.twnCtrl_enable.get old) new))
    let s1 := ((s.setReg a w).twnEnable (decide (F.twnCtrl_enable.get new = 1))).setMode (F.twnCtrl_mode.get new)
    match F.twnCtrl_action.get new with
    | 1 => s1.twnRetrain
    | 2 => s1.mark
    | 3 => s1.takeoverAction
    | 4 => s1.unfence
    | _ => s1
  else if a = R.twnWit then s.witWrite new
  else if a = R.dcCtrl then
    let t := s.setReg a new
    if F.dcCtrl_rearm.hit pulse then t.setReg (R.dcRec 0) (t.reg (R.dcRec 0) &&& ~~~ 1) else t
  else s.setReg a new

/-- Onyx, power and error records (R665, R720, R744). -/
def State.storeMgmt (s : State) (secure : Bool) (a : Nat) (new pulse : Word) : State :=
  if a = R.mboxCtrl then (if F.mboxCtrl_go.hit pulse then s.mboxGo secure else s)
  else if a = R.saveCtrl then s.action a F.saveCtrl_action new (fun act t => t.saveAction act)
  else if a = R.rasCtrl then s.action a F.rasCtrl_action new (fun act t => t.rasAction act)
  else if a = R.rasCons then s.rasTake new
  else if a = R.rasRecSel then s.recSel new
  else s.setReg a new

/-- HOSTIF (R604, R609, R621, R643). -/
def State.storeHost (s : State) (a : Nat) (new : Word) : State :=
  if a = R.hostCtrl then s.action a F.hostCtrl_action new fun act t =>
    match act with
    | 1 => t.hostReset 0 0
    | 2 => t.hostReset 1 0
    | _ => t.handback
  else if a = R.hostHb then s.heartbeat new
  else if 0xB0800 ≤ a ∧ a < 0xB0A00 then s.ringDoorbell ((a - 0xB0800) / 8) (F.hostDb_prod.get new)
  else if 0xB1000 ≤ a ∧ a < 0xB1800 then
    let r := (a - 0xB1000) / 0x20
    let free := !s.flag (R.ringCtrl r) F.ringCtrl_enable && (s.ring r).queue.isEmpty
    match a % 0x20 / 8 with
    | 0 => if free then s.setReg a new else s
    | 1 =>
      let old := s.reg a
      let w := if free then new
        else F.ringCtrl_ctx.set (F.ringCtrl_ctx.get old) (F.ringCtrl_part.set (F.ringCtrl_part.get old)
          (F.ringCtrl_sizeLog2.set (F.ringCtrl_sizeLog2.get old) new))
      (s.setReg a w).ringShow r
    | _ => (s.setReg a new).msiEntry (R.ringMsiAddr r) (R.ringMsiCtrl r) false
  else s.setReg a new

/-- The spindle (R75). -/
def State.storeHub (s : State) (secure : Bool) (a : Nat) (new pulse : Word) : State :=
  match a / 0x1_0000 with
  | 0 => s.storeGlob a new pulse
  | 1 => s.storeLink a new pulse
  | 4 => s.storeXl a new pulse
  | 5 => s.storeDma a new pulse
  | 6 => s.storeWv a new
  | 7 => s.storeTwn a new pulse
  | 11 => s.storeHost a new
  | _ => s.storeMgmt secure a new pulse

/-- MC_PART (R409): ENABLE and CLASS in every die in service and in the package copy. -/
def State.storePart (s : State) (p : Nat) (new : Word) : State :=
  let put (x : Word) : Word :=
    F.mcPart_enable.set (F.mcPart_enable.get new) (F.mcPart_class.set (F.mcPart_class.get new) x)
  let t := s.eachCd (fun u n => u.setReg (R.mcPart n p) (put (u.reg (R.mcPart n p))))
  t.setPk (R.mcPart 0 p) (put (t.pk (R.mcPart 0 p)))

/-- The memory controllers (R399, R401, R409, R410, R436); `off` is the offset in the block. -/
def State.storeMc (s : State) (cd off a : Nat) (new : Word) : State :=
  if off = 0 then (if F.mcCtrl_mapLock.get new = 1 then s.mapLock else s)
  else if 0x40 ≤ off ∧ off < 0x80 then s.mapWrite ((off - 0x40) / 8) (F.mcMap_group.get new)
  else if 0x80 ≤ off ∧ off < 0xC0 then s.storePart ((off - 0x80) / 8) new
  else if 0x100 ≤ off ∧ off < 0x300 then
    s.broadcast (fun n => cdBase n + 0x2_0000 + off) new
  else if 0x400 ≤ off ∧ off < 0x500 then (s.setReg a new).setPk a new
  else if off = 0x610 then (if F.zeroCtrl_go.get new = 1 then s.zeroGo cd else s)
  else s.setReg a new

/-- The operation of SYNC_CMD.OP (R215). -/
def syncOpOf : Nat → SyncCmd
  | 1 => .signal
  | 2 => .initCounter
  | 3 => .initLock
  | 4 => .free
  | 5 => .tryAcquire
  | 6 => .release
  | _ => .forceRelease

/-- Edge links (R65). -/
def State.storeEdge (s : State) (cd a : Nat) (new pulse : Word) : State :=
  let e := a % 0x10 / 8
  let s1 := (s.setReg a (F.edgeCtrl_enable.set (s.fld a F.edgeCtrl_enable) new)).edgeEnable cd e (decide (F.edgeCtrl_enable.get new = 1))
  if F.edgeCtrl_retrain.hit pulse then s1.retrain (edgeLink cd e) else s1

/-- A compute die's blocks (R76). -/
def State.storeCd (s : State) (m : Master) (cd a : Nat) (new pulse : Word) : State :=
  let off := a % 0x1_0000
  match a % 0x1_0000_0000 / 0x1_0000 with
  | 0 => s.storeGlob a new pulse
  | 1 => s.storeEdge cd a new pulse
  | 2 => s.storeMc cd off a new
  | 4 => s.storeSe (.cd (Fin.ofNat 8 cd) (Fin.ofNat 16 (off / 0x40))) (off % 0x40 / 8) a new
  | 5 =>
    if a = R.syncCmd cd then s.action a F.syncCmd_op new fun op t =>
      t.syncCmd m cd (F.syncCmd_index.get new) (syncOpOf op) (F.syncCmd_part.get new) (F.syncCmd_amount.get new)
    else s.setReg a new
  | 6 =>
    let t := s.setReg a new
    if a = R.bobCtrl cd 0 && decide (F.bobCtrl_fbEligible.get new ≠ s.fld a F.bobCtrl_fbEligible) then t.fbRecheck else t
  | _ => s.setReg a new

/-- A cluster's block (R457, R479 to R481, R495, R496). -/
def State.storeClu (s : State) (cl a : Nat) (new pulse : Word) : State :=
  if a = R.l2Ctrl cl then
    let s1 := s.setFld a F.l2Ctrl_tileHost (F.l2Ctrl_tileHost.get new)
    let s2 := if F.l2Ctrl_tilePairs.get new = s.fld a F.l2Ctrl_tilePairs then s1 else s1.tileChange cl (F.l2Ctrl_tilePairs.get new)
    s2.l2Enable cl (decide (F.l2Ctrl_enable.get new = 1))
  else if a = R.l2Cmd cl then s.storeCacheCmd cl (R.l2Cmd cl) (fun t => t.l2Invalidate cl) pulse
  else
    let k := (a - R.l1Ctrl cl 0) / 8
    let s1 := s.l1Enable cl k (decide (F.l1Ctrl_enable.get new = 1))
    if F.l1Ctrl_invalidate.hit pulse then s1.l1Invalidate cl k else s1

/-- R310: the test draw follows the generator registers. -/
def State.srTest (s : State) (c : Nat) : State :=
  s.setReg (R.srTestOut c) (Word.of (srDraw (s.reg (R.srSeed c)) (s.reg (R.srTestK1 c)) (s.reg (R.srTestK2 c))))

/-- A core's block (R207, R208, R210, R291, R310, R353, R387). -/
def State.storeCore (s : State) (c a : Nat) (new pulse : Word) : State :=
  let t := s.setReg a new
  if a = R.seqCmd c then s.action a F.seqCmd_action new fun act t =>
    let g := groupAt c (F.seqCmd_group.get new)
    match act with
    | 1 => t.haltCore c 1
    | 2 => t.resumeCore c
    | 3 => t.resumeGroup g
    | _ => t.killGroup g
  else if a = R.nsCtrl c then
    if F.nsCtrl_rearm.hit pulse then t.setReg (R.nsRec c 0) (t.reg (R.nsRec c 0) &&& ~~~ 1) else t
  else if a = R.srSeed c ∨ a = R.srTestK1 c ∨ a = R.srTestK2 c then t.srTest c
  else if a = R.tblCtrl c then (if F.tblCtrl_switch.hit pulse then s.tblSwitch c else s)
  else if a = R.tblData c then s.tblDataWrite c new
  else if a = R.tsCtrl c then (if F.tsCtrl_rearm.hit pulse then t.touchRearm c else t)
  else t

/-- A host die's blocks (R77, R97, R645). -/
def State.storeHd (s : State) (hd a : Nat) (new pulse : Word) : State :=
  let off := a % 0x1_0000
  match a % 0x1_0000_0000 / 0x1_0000 with
  | 0 => s.storeGlob a new pulse
  | b =>
    if off = 0 then
      let t := if F.pcieCtrl_enable.get new = s.fld a F.pcieCtrl_enable then s
        else s.pcieEnable hd (b - 1) (decide (F.pcieCtrl_enable.get new = 1))
      if F.pcieCtrl_retrain.hit pulse then t.pcieRetrain hd (b - 1) else t
    else s.setReg a new

/-- A register at plain address `a` takes the word `new`, and the W1P bits in `pulse` start their actions. -/
def State.regStore (s : State) (m : Master) (a : Nat) (new pulse : Word) : State :=
  let site := a / 0x1_0000_0000
  let off := a % 0x1_0000_0000
  if site = 0 then s.storeHub (s.isSecure m) a new pulse
  else if site ≤ 8 then
    if off < 0x0100_0000 then s.storeCd m (site - 1) a new pulse
    else
      let cl := (site - 1) * 8 + (off - 0x0100_0000) / 0x20_0000
      let u := (off - 0x0100_0000) % 0x20_0000 / 0x1_0000
      if u = 0 then s.storeClu cl a new pulse else s.storeCore (cl * 16 + (u - 1)) a new pulse
  else s.storeHd (site - 9) a new pulse

/-- R365: what a write finds in a register: its stored fields; in TBL_DATA, the addressed word of the inactive bank. -/
def State.regOld (s : State) (a : Nat) : Word :=
  let site := a / 0x1_0000_0000
  let off := a % 0x1_0000_0000
  if 1 ≤ site ∧ site ≤ 8 ∧ 0x0100_0000 ≤ off ∧ off % 0x1_0000 = 0x628 ∧ off % 0x20_0000 / 0x1_0000 ≠ 0 then
    s.tblDataRead (((site - 1) * 8 + (off - 0x0100_0000) / 0x20_0000) * 16 + (off % 0x20_0000 / 0x1_0000 - 1)) true
  else s.reg a

/-- R79: whether an alias write of a register changes anything. -/
def aliasWritable (fs : List Fld) : Bool := fs.any (fun f => f.acc.byAlias)

/-- Whether a register has a field that a plain write acts on. -/
def plainWritable (fs : List Fld) : Bool := fs.any (fun f => f.acc.byWrite || decide (f.acc = .w1p))

/-- A write of `v` through address `a` to the register at plain address `p`. -/
def State.regWrite (s : State) (m : Master) (a p : Nat) (row : RegRow) (hold : Bool) (v : Word) : State :=
  let copy := regCopy a
  if hold || !(if copy = 0 then plainWritable row.fields else aliasWritable row.fields) then s.answer .ok
  else
    let x := writeWord row.fields (s.isPriv m) (s.isSecure m) copy (s.regOld p) v
    ((s.regStore m p x.word x.pulse).violate m a true x).answer .ok

/-! ## The bus -/

/-- R143, R144: writes that reach a compute die in I4 without waking it: map, range, partition and regulator
registers, which the spindle's package copy records. -/
def reachesI4 (a : Nat) : Bool :=
  let off := a % 0x1_0000_0000
  let site := a / 0x1_0000_0000
  decide (1 ≤ site) && decide (site ≤ 8) && decide (0x2_0000 ≤ off) && decide (off < 0x2_4000)
    && (decide (off = 0x2_0000) || (decide (0x2_0040 ≤ off) && decide (off < 0x2_0500)))

/-- Whether a store is among the accesses of `reachesI4`. -/
def quietStore (a : Nat) : Access → Bool
  | .store _ => reachesI4 (regPlain a)
  | .load => false

/-- R77, R78, R103: an access to an interrupt file: a write of setipnum_le makes an identity pending. -/
def State.fileAccess (s : State) (a size : Nat) (acc : Access) : State :=
  match acc with
  | .load => s.answer .ok [0]
  | .store v =>
    (if a % 0x1000 = 0 ∧ size = 4 then s.setIp a (v.toNat % 2 ^ 32) else s).answer .ok

/-- R69 to R72: an access of `size` bytes to offset `a` of register space. -/
def State.regAccess (s : State) (m : Master) (a size : Nat) (acc : Access) : State :=
  let site := a / 0x1_0000_0000
  if !s.up site then s.answer .error
  else
    let s := if decide (1 ≤ site) && decide (site ≤ 8) && !quietStore a acc then s.awake (site - 1) else s
    match filePage (a - a % 0x1000) with
    | some _ => s.fileAccess a size acc
    | none =>
      let zero := match acc with | .load => [0] | .store _ => []
      if size ≠ 8 ∨ a % 8 ≠ 0 then (s.count (R.accErr site) F.accErr_size 1).answer .ok zero
      else
        match regRow (regPlain a) with
        | none => (s.count (R.accErr site) F.accErr_decode 1).answer .ok zero
        | some (row, hold) =>
          match acc with
          | .load => s.regRead m a (regPlain a) row hold
          | .store v => s.regWrite m a (regPlain a) row hold v

/-- Whether a master can send a request: its die runs it. A host core executes only while M_SECURE is 1 outside
DEBUG (R97, R657), a bobbin core while it runs, and the JTAG port reaches registers once unlocked (R91). -/
def State.canIssue (s : State) : Master → Bool
  | .host hd _ _ => s.up (9 + hd.val) && (s.flag (R.secure hd.val) F.secure_mSecure || decide (s.fld R.secStat F.secStat_state = 2))
  | .bobbin cd b _ => s.cdUp cd.val && (s.flag (R.bobCtrl cd.val b.val) F.bobCtrl_run || decide (s.fld (R.bobCtrl cd.val b.val) F.bobCtrl_role ≠ 0))
  | .accel c => s.up (coreSite c.val)
  | .jtag => s.flag R.secStat F.secStat_jtagUnlocked
  | .beryl => true
  | .onyx => true

/-- A master's access at a physical address of register space. -/
def State.busAccess (s : State) (m : Master) (pa size : Nat) (acc : Access) : State :=
  s.commit fun s =>
    if pa < regSpace ∨ 0xF00_0000_0000 ≤ pa ∨ !s.canIssue m then s.answer .refused
    else s.regAccess m (pa - regSpace) size acc

/-- A doubleword store to a register. -/
def State.busWrite (s : State) (m : Master) (a : Nat) (v : Word) : State := s.busAccess m (regSpace + a) 8 (.store v)

/-- A store that gives one field a value and every other field the value it holds. -/
def State.busSet (s : State) (m : Master) (a : Nat) (f : Fld) (v : Nat) : State := s.busWrite m a (f.set v (s.reg a))

end Sys2Proof.Machine
end

