-- ==== Sys2Proof/Machine/LaneMem.lean ====
section
/-!
DEFINITION. Memory instructions of the accelerator cores: LD, ST, LDS, STS, ATOM, the fences, FILL and DRAIN (R177 to
R182, R325 to R327, R416 to R424, R485 to R493).
-/

namespace Sys2Proof.Machine

/-! ## Translation for a group -/

/-- A core's translation in its group's context (R503). -/
def State.xlCore (s : State) (g : GroupRef) (va : Nat) (acc : XAcc) : State × Xl :=
  let c := g.core.val
  s.translate (coreCl c) (some c) (s.grp g).ctx.toNat (some (s.corePart c)) va acc false

/-- R548, R549: a group's fault is its core's one fault; while the core holds another, the access waits. -/
def State.laneFault (s : State) (g : GroupRef) (va : Nat) (acc : XAcc) (f : WalkFault) : State :=
  if (s.unitFault g.core.val).isSome then s.wait
  else s.coreFault g (s.corePart g.core.val) (s.grp g).ctx.toNat va acc f

/-- An access of one lane, or of one line of a group's area: who, where, and what it is translated to. -/
structure LaneReq where
  lane : Nat
  va : Nat
  pa : Nat := 0
  deriving DecidableEq, Repr

/-- What translating a list of accesses gives. -/
inductive Xs where
  | ok (rs : List LaneReq)
  | context
  | fault (va : Nat) (f : WalkFault)
  deriving DecidableEq, Repr

/-- Translate accesses in order; the first that fails is reported (R549). -/
def State.xlLanes (s : State) (g : GroupRef) (acc : XAcc) : List LaneReq → State × Xs
  | [] => (s, .ok [])
  | r :: rs =>
    match s.xlCore g r.va acc with
    | (s1, .ok pa) =>
      match s1.xlLanes g acc rs with
      | (s2, .ok l) => (s2, .ok ({ r with pa := pa } :: l))
      | (s2, e) => (s2, e)
    | (s1, .context) => (s1, .context)
    | (s1, .fault f) => (s1, .fault r.va f)

/-- R181, R504: go on with the translated accesses; a context error halts the group, a fault makes it wait. -/
def State.withXl (s : State) (g : GroupRef) (acc : XAcc) (rs : List LaneReq) (go : List LaneReq → State → State) : State :=
  match s.xlLanes g acc rs with
  | (s1, .ok l) => go l s1
  | (s1, .context) => s1.haltGroup g .regAccess
  | (s1, .fault va f) => s1.laneFault g va acc f

/-! ## Lanes -/

/-- Bytes of a size of R177. -/
def sizeBytes (k : Nat) : Nat := 2 ^ k

/-- Lane registers of a size of R177. -/
def sizeRegs (k : Nat) : Nat := if k = 4 then 4 else if k = 3 then 2 else 1

/-- R177: the virtual address of a lane's access. -/
def Group.memVa (x : Group) (f : Fields) (l : Nat) : Nat :=
  (((x.uni f.b.toNat).toNat + x.laneVal l f.a.toNat true : Nat) + f.imm16 : Int) % (2 ^ 64 : Nat) |>.toNat

/-- The accesses of the executing lanes in lane order. -/
def Group.memReqs (x : Group) (f : Fields) : List LaneReq := (x.execLanes f).map (fun l => ⟨l, x.memVa f l, 0⟩)

/-- R177: the operand registers of a memory instruction are not reserved. -/
def Group.memAddrOk (x : Group) (f : Fields) : Bool := x.lOk f.a.toNat 2 && x.uOk f.b.toNat

/-- R177: LD, ST, LDS and STS are not ILLEGAL. -/
def Group.memOk (x : Group) (f : Fields) : Bool :=
  decide (f.low ≤ 4) && decide (f.mod.toNat / 8 % 16 = 0) && x.memAddrOk f && x.lOk f.dst.toNat (sizeRegs f.low)

/-- The value of `n` consecutive lane registers. -/
def Group.laneRegs (x : Group) (i r : Nat) : Nat → Nat
  | 0 => 0
  | n + 1 => (x.lane i r).toNat + 2 ^ 32 * x.laneRegs i (r + 1) n

/-- Write `n` consecutive lane registers. -/
def Group.setLaneRegs (x : Group) (i r : Nat) : Nat → Nat → Group
  | 0, _ => x
  | n + 1, v => (x.setLane i r v).setLaneRegs i (r + 1) n (v / 2 ^ 32)

/-- R178: every access is naturally aligned. -/
def aligned (n : Nat) (rs : List LaneReq) : Bool := rs.all (fun r => decide (r.va % n = 0))

/-- R179: accesses that share a unit of `n` bytes form one request; requests stand in the order of their lowest
lane. -/
def requests (n : Nat) (rs : List LaneReq) : List (List LaneReq) :=
  (rs.map (fun r => r.va / n)).eraseDups.map (fun q => rs.filter (fun r => decide (r.va / n = q)))

/-- What the requests of an instruction have done so far: the state, the values of lanes, and the first code that
halts the group. -/
structure MemAcc where
  st : State
  vals : List (Nat × Nat) := []
  bad : Option HaltCode := none
  deriving DecidableEq, Repr

/-- The code of a failing request. -/
def MemAcc.fail (a : MemAcc) (s : State) (c : HaltCode) : MemAcc := { a with st := s, bad := a.bad.orElse (fun _ => some c) }

/-- A request that went well. -/
def MemAcc.step (a : MemAcc) (s : State) : MemAcc := { a with st := s }

/-- Values of lanes. -/
def MemAcc.give (a : MemAcc) (s : State) (vs : List (Nat × Nat)) : MemAcc := { a with st := s, vals := a.vals ++ vs }

/-- R734: a lane or a FILL consumes poison: the record. -/
def State.lanePoison (s : State) (c pa : Nat) : State :=
  s.rasWrite { det 1 6 (coreSite c) (coreUnit c) 1 with
    addr := some (BitVec.ofNat 48 (pa / 64 * 64)), consumed := true, arg0 := 0 }

/-- A poisoned access. -/
def MemAcc.poisoned (a : MemAcc) (s : State) (c pa : Nat) : MemAcc := a.fail (s.lanePoison c pa) .poison

/-- The instruction ends: a halt with the first code, or the group goes on after `put`. A group whose earlier store
has failed meanwhile stays halted (R450). -/
def MemAcc.finish (a : MemAcc) (g : GroupRef) (put : Group → Group) : State :=
  if ((a.st).grp g).halt ≠ none then a.st
  else
    match a.bad with
    | some c => a.st.haltGroup g c
    | none => a.st.setGrp g (put (a.st.grp g)).advance

/-- The tag of a core's requests (R405). -/
def State.coreTag (s : State) (c : Nat) : ReqTag := .part (BitVec.ofNat 3 (s.corePart c))

/-- R179: an access of a lane to register space; lanes that name one register share one access. -/
def State.laneReg (s : State) (c : CoreIx) (pa n : Nat) (acc : Access) : State × Option Nat :=
  let t := s.regAccess (.accel c) (pa - regSpace) n acc
  (t, if t.resp.status = .ok then some ((t.resp.data.head?.getD 0).toNat) else none)

/-! ## Loads -/

/-- The bytes a list of accesses of `n` bytes touches in a line. -/
def touched (n : Nat) (rs : List LaneReq) : Nat := rs.foldl (fun m r => m ||| spanOf r.pa n) 0

/-- Loads of registers (R70). -/
def MemAcc.ldRegs (a : MemAcc) (c : CoreIx) (n : Nat) (rs : List LaneReq) : MemAcc :=
  (requests n rs).foldl (fun (a : MemAcc) ls =>
    match ls with
    | [] => a
    | r :: _ =>
      match a.st.laneReg c r.pa n .load with
      | (s1, some v) => a.give s1 (ls.map (fun q => (q.lane, v)))
      | (s1, none) => a.fail s1 .regAccess) a

/-- The values that lanes take from a line, unless a codeword they touch is poisoned. -/
def MemAcc.takeLine (a : MemAcc) (s : State) (c n : Nat) (l : Line) (rs : List LaneReq) : MemAcc :=
  match rs.find? (fun r => l.poison.getLsbD (r.pa % 128 / 64)) with
  | some r => a.poisoned s c r.pa
  | none => a.give s (rs.map (fun r => (r.lane, bits l.data.toNat (8 * (r.pa % 128)) (8 * n))))

/-- LD: one request for a line. -/
def MemAcc.ldLine (a : MemAcc) (g : GroupRef) (n : Nat) (rs : List LaneReq) : MemAcc :=
  let c := g.core.val
  let pa := (rs.head?.map LaneReq.pa).getD 0
  if regionOf pa = .reg then a.ldRegs g.core n rs
  else
    match a.st.loadLine c (pa / 128) (touched n rs) with
    | (s1, ⟨.error, _, _⟩) => a.fail s1 .regAccess
    | (s1, ⟨_, some l, _⟩) => a.takeLine s1 c n l rs
    | (s1, ⟨_, none, _⟩) => a.fail s1 .regAccess

/-- R416, R417, R511: what a sector read on the sliver path finds: the status, and the sector within its line. -/
def State.sectorRead (s0 : State) (c pa : Nat) : State × Ans :=
  let s := s0.drainLine c (pa / 128)
  let tag := s.coreTag c
  match regionOf pa with
  | .dram =>
    match s.gate tag pa 1 false with
    | (s1, .gone) => (s1, ⟨.gone, some .bad, false⟩)
    | (s1, .refused) => (s1, { st := .error })
    | (s1, .open_) =>
      let (s2, v, bad) := s1.sector pa
      (s2, ⟨.ok, some ⟨BitVec.ofNat 1024 (v * 2 ^ (8 * (pa / 32 * 32 % 128))), if bad then 3 else 0⟩, false⟩)
  | .tile => s.beyondRead c pa false
  | .twin =>
    if s.twinUp then (s.draw, ⟨.ok, some ⟨BitVec.ofNat 1024 s.free, 0⟩, false⟩) else (s, { st := .error })
  | _ => (s, { st := .error })

/-- LDS: one request for a sector. -/
def MemAcc.ldSector (a : MemAcc) (g : GroupRef) (n : Nat) (rs : List LaneReq) : MemAcc :=
  let c := g.core.val
  let pa := (rs.head?.map LaneReq.pa).getD 0
  if regionOf pa = .reg then a.ldRegs g.core n rs
  else
    match a.st.sectorRead c pa with
    | (s1, ⟨.error, _, _⟩) => a.fail s1 .regAccess
    | (s1, ⟨_, some l, _⟩) => a.takeLine s1 c n l rs
    | (s1, ⟨_, none, _⟩) => a.fail s1 .regAccess

/-- Loaded values reach the lane registers; the spec gives the bits above a value of less than 32 bits none, so they
are free. -/
def loaded (f : Fields) (drawn : Nat) (vals : List (Nat × Nat)) (x : Group) : Group :=
  vals.zipIdx.foldl (fun (y : Group) e =>
    let v := if f.low < 2 then e.1.2 + Config.free (drawn + e.2) * 2 ^ (8 * sizeBytes f.low) else e.1.2
    y.setLaneRegs e.1.1 f.dst.toNat (sizeRegs f.low) v) x

/-- LD and LDS (R177 to R181, R416): requests of `unit` bytes. -/
def laneLoad (unit : Nat) (req : GroupRef → Nat → MemAcc → List LaneReq → MemAcc) (g : GroupRef) (f : Fields) (s : State) : State :=
  s.issue g fun x s =>
    s.legal g (x.memOk f) fun s =>
      let n := sizeBytes f.low
      let rs := x.memReqs f
      if !aligned n rs then s.haltGroup g .misaligned
      else s.withXl g .read rs fun rs s =>
        let a := (requests unit rs).foldl (fun a ls => req g n a ls) { st := s }
        let d := a.st.drawn
        ({ a with st := if f.low < 2 then a.st.drawN a.vals.length else a.st } : MemAcc).finish g (loaded f d a.vals)

/-! ## Stores -/

/-- R180: the bytes that lanes store into a line: the highest lane's value of a byte stays. -/
def storedLine (x : Group) (f : Fields) (n : Nat) (rs : List LaneReq) : Line :=
  rs.foldl (fun (l : Line) r =>
    l.merge ⟨BitVec.ofNat 1024 (x.laneRegs r.lane f.dst.toNat (sizeRegs f.low) % 2 ^ (8 * n) * 2 ^ (8 * (r.pa % 128))), 0⟩
      (spanOf r.pa n)) {}

/-- Stores of registers (R70, R180). -/
def MemAcc.stRegs (a : MemAcc) (c : CoreIx) (x : Group) (f : Fields) (n : Nat) (rs : List LaneReq) : MemAcc :=
  (requests n rs).foldl (fun (a : MemAcc) ls =>
    match ls.getLast? with
    | none => a
    | some r =>
      match a.st.laneReg c r.pa n (.store (Word.of (x.laneRegs r.lane f.dst.toNat (sizeRegs f.low) % 2 ^ (8 * n)))) with
      | (s1, some _) => a.step s1
      | (s1, none) => a.fail s1 .regAccess) a

/-- ST: one request for a line enters the merging buffer (R447). -/
def MemAcc.stLine (x : Group) (f : Fields) (g : GroupRef) (n : Nat) (a : MemAcc) (rs : List LaneReq) : MemAcc :=
  let pa := (rs.head?.map LaneReq.pa).getD 0
  if regionOf pa = .reg then a.stRegs g.core x f n rs
  else a.step (a.st.storeBytes g.core.val g.slot.val (pa / 128) (storedLine x f n rs) (touched n rs))

/-- R418, R511: a write of bytes of one sector on the sliver path; the core's L1 copy goes. -/
def State.sectorWrite (s0 : State) (c pa : Nat) (l : Line) (en : Nat) : State × MemSt :=
  let s := (s0.drainLine c (pa / 128)).setL1 c (pa / 128) {}
  let tag := s.coreTag c
  let o := pa / 32 * 32 % 128
  match regionOf pa with
  | .dram => s.sliverPut tag (pa / 32 * 32) (bits l.data.toNat (8 * o) 256) (bits en o 32)
  | .tile =>
    let (s1, a) := s.beyondWrite c pa l en false
    (s1, a.st)
  | .twin =>
    let (s1, a) := s.twinWrite pa
    (s1, a.st)
  | _ => (s, .error)

/-- STS: one request for a sector. -/
def MemAcc.stSector (x : Group) (f : Fields) (g : GroupRef) (n : Nat) (a : MemAcc) (rs : List LaneReq) : MemAcc :=
  let pa := (rs.head?.map LaneReq.pa).getD 0
  if regionOf pa = .reg then a.stRegs g.core x f n rs
  else
    match a.st.sectorWrite g.core.val pa (storedLine x f n rs) (touched n rs) with
    | (s1, .error) => a.fail s1 .regAccess
    | (s1, _) => a.step s1

/-- ST and STS (R177 to R181, R418): requests of `unit` bytes. -/
def laneStore (unit : Nat) (req : Group → Fields → GroupRef → Nat → MemAcc → List LaneReq → MemAcc) (g : GroupRef) (f : Fields)
    (s : State) : State :=
  s.issue g fun x s =>
    s.legal g (x.memOk f) fun s =>
      let n := sizeBytes f.low
      let rs := x.memReqs f
      if !aligned n rs then s.haltGroup g .misaligned
      else s.withXl g .write rs fun rs s =>
        ((requests unit rs).foldl (fun a ls => req x f g n a ls) { st := s }).finish g id

/-! ## Atomics -/

/-- ATOM's FETCH. -/
def Fields.fetch (f : Fields) : Bool := decide (f.mod.toNat / 64 % 2 = 1)

/-- Whether a group runs a kernel that its CODE section marks certified. -/
def State.certified (s : State) (g : GroupRef) : Bool :=
  (s.conf (coreCl g.core.val)).kernels.any (fun k => decide (k.id = (s.grp g).kernel.toNat) && k.cert)

/-- R301, R420, R421: an ATOM is not ILLEGAL. -/
def State.atomOk (s : State) (g : GroupRef) (x : Group) (f : Fields) : Bool :=
  let op := f.typ
  let cas := decide (op = 6)
  (redKind op f.low).isSome && x.memAddrOk f && (!cas || f.fetch)
    && (if cas && decide (f.low = 2) then decide (f.dst.toNat + 2 ≤ x.regs)
        else x.lOk f.dst.toNat (if cas then 4 else sizeRegs f.low))
    && !(decide (3 ≤ op) && decide (op ≤ 5) && s.certified g)

/-- R420 to R423: one lane's atomic. A lane that fetches from a poisoned codeword consumes it. -/
def MemAcc.atom (x : Group) (f : Fields) (g : GroupRef) (a : MemAcc) (r : LaneReq) : MemAcc :=
  let c := g.core.val
  let line := r.pa / 128
  if regionOf r.pa ≠ .dram then a.fail a.st .regAccess
  else
    let s := (a.st.drainLine c line).setL1 c line {}
    let k := sizeRegs f.low
    let first := x.laneRegs r.lane f.dst.toNat k
    let (operand, compare) := if f.typ = 6 then (x.laneRegs r.lane (f.dst.toNat + k) k, first) else (first, 0)
    match s.reduceAt (s.coreTag c) r.pa f.typ f.low operand compare with
    | (s1, ⟨.error, _, _⟩) => a.fail s1 .regAccess
    | (s1, ⟨_, old, bad⟩) =>
      if !f.fetch then a.step s1
      else if bad then a.poisoned s1 c r.pa
      else a.give s1 [(r.lane, old)]

/-- ATOM (R180, R420). -/
def laneAtom (g : GroupRef) (f : Fields) (s : State) : State :=
  s.issue g fun x s =>
    s.legal g (s.atomOk g x f) fun s =>
      let rs := x.memReqs f
      if !aligned (sizeBytes f.low) rs then s.haltGroup g .misaligned
      else s.withXl g .atomic rs fun rs s =>
        let a := rs.foldl (fun (a : MemAcc) r => a.atom x f g r) { st := s }
        let d := a.st.drawn
        ({ a with st := if f.low < 2 then a.st.drawN a.vals.length else a.st } : MemAcc).finish g (loaded f d a.vals)

/-! ## Fences -/

/-- The group goes on, unless a store that drained has halted it (R450). -/
def State.advIf (s : State) (g : GroupRef) : State := if (s.grp g).halt ≠ none then s else s.adv g

/-- FENCE (R182, R486). -/
def laneFence (g : GroupRef) (f : Fields) (s : State) : State :=
  s.issue g fun x s =>
    let scope := f.low
    let kind := f.mod.toNat / 8 % 4
    s.legal g (decide (scope ≤ 4) && decide (kind ≤ 2) && decide (f.mod.toNat / 32 % 4 = 0)) fun s =>
      if !x.acts f ∨ scope = 0 then s.adv g
      else
        let c := g.core.val
        let s1 := if kind ≠ 1 then s.drainAll c else s
        (if kind ≠ 2 then s1.l1Clear c else s1).advIf g

/-- The pages that `len` bytes from `va` touch: the first address in each, and the bytes. -/
def rangePages (va len : Nat) : List (Nat × Nat) :=
  if len = 0 then []
  else
    let p := va / 2 ^ 16
    (upTo ((va + len - 1) / 2 ^ 16 + 1 - p)).map (fun i =>
      let lo := max va ((p + i) * 2 ^ 16)
      (lo, min (va + len) ((p + i + 1) * 2 ^ 16) - lo))

/-- R492 step 2: the lines of one page's part of the range. -/
def State.cleanLines (s : State) (pa n : Nat) : State :=
  if regionOf pa = .dram then (upTo (n / 128)).foldl (fun (t : State) i => t.homeClean (pa / 128 + i)) s else s

/-- PFENCE (R491, R492). -/
def lanePfence (g : GroupRef) (f : Fields) (s : State) : State :=
  s.issue g fun x s =>
    let va := (x.uni f.a.toNat).toNat
    let len := (x.uni f.b.toNat).toNat
    let ok := decide (f.pred = 0) && decide (f.mod = 0) && x.uOk f.a.toNat && x.uOk f.b.toNat
      && decide (va % 128 = 0) && decide (len % 128 = 0) && decide (len ≤ 2 ^ 30)
    s.legal g ok fun s =>
      let ps := rangePages va len
      s.withXl g .fence (ps.map (fun p => ⟨0, p.1, 0⟩)) fun rs s =>
        ((rs.zip ps).foldl (fun (t : State) e => t.cleanLines e.1.pa e.2.2) (s.drainAll g.core.val)).advIf g

/-- TFENCE (R491, R493). -/
def laneTfence (g : GroupRef) (f : Fields) (s : State) : State :=
  s.issue g fun _ s =>
    let ok := decide (f.pred = 0) && decide (f.mod = 0) && decide (f.a = 0) && decide (f.b = 0) && decide (f.c = 0)
    s.legal g ok fun s => (((s.drainAll g.core.val).l1Clear g.core.val).twinEnd).advIf g

/-! ## FILL and DRAIN -/

/-- The operands of FILL and DRAIN (R325). -/
structure Area where
  off : Nat
  va : Nat
  rowBytes : Nat
  rows : Nat
  stride : Nat
  path : Nat
  deriving DecidableEq, Repr

/-- R325: the operands. -/
def Group.area (x : Group) (f : Fields) : Area :=
  let sh := (x.uni f.b.toNat).toNat
  ⟨(x.uni f.dst.toNat).toNat, (x.uni f.a.toNat).toNat, bits sh 0 20, bits sh 20 12 + 1, bits sh 32 32, f.mod.toNat % 4⟩

/-- The bytes of an area. -/
def Area.size (a : Area) : Nat := a.rows * a.rowBytes

/-- R325, R326: whether FILL or DRAIN is not ILLEGAL. -/
def areaOk (x : Group) (f : Fields) (a : Area) : Bool :=
  let m := if a.path = 2 then 32 else 16
  decide (f.pred = 0) && decide (f.mod.toNat < 4) && decide (a.path ≠ 3) && decide (f.c = 0)
    && x.uOk f.dst.toNat && x.uOk f.a.toNat && x.uOk f.b.toNat
    && decide (a.off % 16 = 0) && decide (a.va % m = 0) && decide (a.rowBytes % m = 0) && decide (a.stride % m = 0)
    && decide (16 ≤ a.rowBytes) && decide (a.rowBytes ≤ opcSize) && decide (a.off + a.size ≤ opcSize)

/-- A piece of an area that lies in one unit of memory: its offset in the operand cache, address and bytes. -/
structure Piece where
  off : Nat
  va : Nat
  n : Nat
  deriving DecidableEq, Repr

/-- The pieces of a row in units of `u` bytes. -/
def rowPieces (u off va len : Nat) : List Piece :=
  let p := va / u
  (upTo ((va + len - 1) / u + 1 - p)).map (fun i =>
    let lo := max va ((p + i) * u)
    ⟨off + (lo - va), lo, min (va + len) ((p + i + 1) * u) - lo⟩)

/-- The pieces of an area in order: sectors on the sliver path, else lines (R326). -/
def Area.pieces (a : Area) : List Piece :=
  let u := if a.path = 2 then 32 else 128
  (upTo a.rows).flatMap (fun r => rowPieces u (a.off + r * a.rowBytes) (a.va + r * a.stride) a.rowBytes)

/-- The translation of an area's pieces. -/
def Area.reqs (a : Area) : List LaneReq := a.pieces.map (fun p => ⟨0, p.va, 0⟩)

/-- A FILL's read of a piece; its line's merging-buffer entry drains first. An access to register space is not one
doubleword (R72). -/
def State.fillRead (s : State) (g : GroupRef) (path pa n : Nat) : State × Ans :=
  let c := g.core.val
  match regionOf pa with
  | .reg =>
    match s.laneReg g.core pa n .load with
    | (s1, some _) => (s1, ⟨.ok, some {}, false⟩)
    | (s1, none) => (s1, { st := .error })
  | _ =>
    if path = 2 then s.sectorRead c pa
    else (s.drainLine c (pa / 128)).beyondRead c pa (decide (path = 0))

/-- FILL's accumulated outcome of one piece; the values are offsets and bytes as numbers. -/
def MemAcc.fillPiece (g : GroupRef) (path : Nat) (a : MemAcc) (e : Piece × LaneReq) : MemAcc :=
  let (p, r) := e
  match a.st.fillRead g path r.pa p.n with
  | (s1, ⟨.error, _, _⟩) => a.fail s1 .regAccess
  | (s1, ⟨_, some l, _⟩) =>
    let hit (q : Nat) : Bool := l.poison.getLsbD q && decide (bits (spanOf r.pa p.n) (64 * q) 64 ≠ 0)
    if hit 0 || hit 1 then a.poisoned s1 g.core.val (if hit 0 then r.pa / 128 * 128 else r.pa / 128 * 128 + 64)
    else a.give s1 [(p.off, bits l.data.toNat (8 * (r.pa % 128)) (8 * p.n))]
  | (s1, ⟨_, none, _⟩) => a.fail s1 .regAccess

/-- FILL (R325 to R327). -/
def laneFill (g : GroupRef) (f : Fields) (s : State) : State :=
  s.issue g fun x s =>
    let ar := x.area f
    s.legal g (areaOk x f ar) fun s =>
      s.withXl g .read ar.reqs fun rs s =>
        let ps := ar.pieces
        let a := (ps.zip rs).foldl (fun (a : MemAcc) e => a.fillPiece g ar.path e) { st := s }
        let t := a.finish g id
        if (t.grp g).halt ≠ none then t
        else
          let c := g.core.val
          (t.setCore c ((a.vals.zip ps).foldl (fun (k : CoreSt) e => k.putOpc e.1.1 e.2.n e.1.2) (t.core c))).deliver c

/-- DRAIN's write of a piece. -/
def State.drainWrite (s0 : State) (g : GroupRef) (path pa n v : Nat) : State × MemSt :=
  let c := g.core.val
  let l : Line := ⟨BitVec.ofNat 1024 (v * 2 ^ (8 * (pa % 128))), 0⟩
  match regionOf pa with
  | .reg =>
    match s0.laneReg g.core pa n (.store (Word.of v)) with
    | (s1, some _) => (s1, .ok)
    | (s1, none) => (s1, .error)
  | _ =>
    if path = 2 then s0.sectorWrite c pa l (spanOf pa n)
    else
      let s := (s0.drainLine c (pa / 128)).setL1 c (pa / 128) {}
      let (s1, a) := s.beyondWrite c pa l (spanOf pa n) (decide (path = 0))
      (s1, a.st)

/-- DRAIN (R325 to R327). -/
def laneDrain (g : GroupRef) (f : Fields) (s : State) : State :=
  s.issue g fun x s =>
    let ar := x.area f
    s.legal g (areaOk x f ar) fun s =>
      s.withXl g .write ar.reqs fun rs s =>
        s.eccGuard g [(ar.off, ar.size)] [] fun s =>
          let k := s.core g.core.val
          ((ar.pieces.zip rs).foldl (fun (a : MemAcc) e =>
            match a.st.drainWrite g ar.path e.2.pa e.1.n (bytesLE k.opc e.1.off e.1.n) with
            | (s1, .error) => a.fail s1 .regAccess
            | (s1, _) => a.step s1) { st := s }).finish g id

/-! ## Meanings -/

/-- LD (R179). -/
def execLd (g : GroupRef) (f : Fields) (s : State) : Out := s.run fun s => laneLoad 128 (fun g n a ls => a.ldLine g n ls) g f s
/-- ST (R179). -/
def execSt (g : GroupRef) (f : Fields) (s : State) : Out := s.run fun s => laneStore 128 MemAcc.stLine g f s
/-- LDS (R179, R416). -/
def execLds (g : GroupRef) (f : Fields) (s : State) : Out := s.run fun s => laneLoad 32 (fun g n a ls => a.ldSector g n ls) g f s
/-- STS (R179, R418). -/
def execSts (g : GroupRef) (f : Fields) (s : State) : Out := s.run fun s => laneStore 32 MemAcc.stSector g f s
/-- ATOM (R420). -/
def execAtom (g : GroupRef) (f : Fields) (s : State) : Out := s.run fun s => laneAtom g f s
/-- FENCE (R182, R486). -/
def execFence (g : GroupRef) (f : Fields) (s : State) : Out := s.run fun s => laneFence g f s
/-- PFENCE (R491, R492). -/
def execPfence (g : GroupRef) (f : Fields) (s : State) : Out := s.run fun s => lanePfence g f s
/-- TFENCE (R491, R493). -/
def execTfence (g : GroupRef) (f : Fields) (s : State) : Out := s.run fun s => laneTfence g f s
/-- FILL (R325). -/
def execFill (g : GroupRef) (f : Fields) (s : State) : Out := s.run fun s => laneFill g f s
/-- DRAIN (R325). -/
def execDrain (g : GroupRef) (f : Fields) (s : State) : Out := s.run fun s => laneDrain g f s

end Sys2Proof.Machine
end

