-- ==== Sys2Proof/Machine/RegWrites.lean ====
section
/-!
DEFINITION. The commands that are one write to one register: each is that write, in the words of its register.
-/

namespace Sys2Proof.Machine

/-- The copy of a block that an alias kind names (R79). -/
def AliasKind.copy : AliasKind → Nat
  | .set => 1
  | .clear => 2
  | .toggle => 3

/-- The register of an MSI source entry. -/
def MsiHalf.reg (h : MsiHalf) (site i : Nat) : Nat := match h with | .addr => R.msiAddr site i | .ctrl => R.msiCtrl site i

/-- The generator register of an SR_TEST_WRITE. -/
def SrReg.reg (w : SrReg) (c : Nat) : Nat := match w with | .seed => R.srSeed c | .k1 => R.srTestK1 c | .k2 => R.srTestK2 c

/-- The SE_CMD register of an engine (R557). -/
def SeRef.cmd (e : SeRef) : Nat := e.ctrl + 0x20

/-- A word of SYNC_CMD (R215). -/
def syncWord (obj op part amount : Nat) : Word :=
  F.syncCmd_amount.set amount (F.syncCmd_part.set part (F.syncCmd_op.set op (F.syncCmd_index.set obj 0)))

/-- A word of CORE_SEQ_CMD (R210). -/
def seqWord (act slot : Nat) : Word := F.seqCmd_group.set slot (F.seqCmd_action.set act 0)

/-- A word of FQ_RESOLVE with GO (R559). -/
def resolveWord (p act idx : Nat) : Word :=
  F.fqResolve_index.set idx (F.fqResolve_go.set 1 (F.fqResolve_action.set act (F.fqResolve_part.set p 0)))

/-- A word of RAS_CTRL (R744). -/
def rasWord (act site : Nat) : Word := F.rasCtrl_site.set site (F.rasCtrl_action.set act 0)

/-- What the partner shows when MODE is written (R636). -/
def State.setPeer (s : State) (p : PeerFacts) : State := { s with twn := { s.twn with peer := p } }

/-- The end of a zeroization run, after which Onyx goes on with freed ranges (R436, R593). -/
def zeroizeEnd (cd : Nat) (s : State) : State :=
  if s.zero.any (fun z => decide (z.cd = cd)) then ((s.zeroEnd cd).zeroDone cd).answer .ok else s.answer .refused

/-! ## Meanings -/

/-- OL_RETRAIN (R60). -/
def execOlRetrain (m : Master) (n : Port) (faults : LinkFaults) (s : State) : Out :=
  s.run fun s => (s.setFaults (n.val + 8) faults).busSet m (R.olCtrl n.val) F.olCtrl_retrain 1
/-- OL_ENABLE_WRITE (R60). -/
def execOlEnableWrite (m : Master) (n : Port) (en : Bool) (s : State) : Out :=
  s.run fun s => s.busSet m (R.olCtrl n.val) F.olCtrl_enable (b2n en)
/-- EDGE_RETRAIN (R65). -/
def execEdgeRetrain (m : Master) (cd : Cd) (e : Fin 2) (faults : LinkFaults) (s : State) : Out :=
  s.run fun s => (s.setFaults (edgeLink cd.val e.val) faults).busSet m (R.edgeCtrl cd.val e.val) F.edgeCtrl_retrain 1
/-- EDGE_ENABLE_WRITE (R65). -/
def execEdgeEnableWrite (m : Master) (cd : Cd) (e : Fin 2) (en : Bool) (s : State) : Out :=
  s.run fun s => s.busSet m (R.edgeCtrl cd.val e.val) F.edgeCtrl_enable (b2n en)
/-- RETRAIN_ALL (R59). -/
def execRetrainAll (m : Master) (faults : List (Nat × LinkFaults)) (s : State) : Out :=
  s.run fun s => (faults.foldl (fun t e => t.setFaults e.1 e.2) s).busSet m R.linkCtrl F.linkCtrl_retrainAll 1
/-- REGISTER_WRITE (R12). -/
def execRegisterWrite (m : Master) (pa : BitVec 48) (size : Nat) (acc : Access) (s : State) : Out :=
  s.run fun s => s.busAccess m pa.toNat size acc
/-- ALIAS_WRITE (R79). -/
def execAliasWrite (m : Master) (pa : BitVec 48) (kind : AliasKind) (data : Word) (s : State) : Out :=
  s.run fun s => s.busAccess m (regPlain pa.toNat + kind.copy * 0x4000) 8 (.store data)
/-- VIOL_FIRST_READ (R100). -/
def execViolFirstRead (m : Master) (site : Site) (s : State) : Out :=
  s.run fun s => s.busAccess m (regSpace + R.violFirst site.val) 8 .load
/-- SNAP_TAKE (R88). -/
def execSnapTake (m : Master) (site : Site) (s : State) : Out :=
  s.run fun s => s.busWrite m (R.snapCtrl site.val) (F.snapCtrl_take.set 1 0)
/-- TAKE_ALL (R90). -/
def execTakeAll (m : Master) (s : State) : Out := s.run fun s => s.busWrite m (R.snapCtrl 0) (F.snapCtrl_takeAll.set 1 0)
/-- MSI_ENTRY_WRITE (R104). -/
def execMsiEntryWrite (m : Master) (site : Site) (i : BitVec 8) (half : MsiHalf) (data : Word) (s : State) : Out :=
  s.run fun s => s.busWrite m (half.reg site.val i.toNat) data
/-- SYNC_SIGNAL (R215). -/
def execSyncSignal (m : Master) (cd : Cd) (obj : BitVec 11) (amount : BitVec 32) (s : State) : Out :=
  s.run fun s => s.busWrite m (R.syncCmd cd.val) (syncWord obj.toNat 1 0 amount.toNat)
/-- INIT_COUNTER (R215). -/
def execInitCounter (m : Master) (cd : Cd) (obj : BitVec 11) (part : BitVec 3) (amount : BitVec 32) (s : State) : Out :=
  s.run fun s => s.busWrite m (R.syncCmd cd.val) (syncWord obj.toNat 2 part.toNat amount.toNat)
/-- INIT_LOCK (R215). -/
def execInitLock (m : Master) (cd : Cd) (obj : BitVec 11) (part : BitVec 3) (s : State) : Out :=
  s.run fun s => s.busWrite m (R.syncCmd cd.val) (syncWord obj.toNat 3 part.toNat 0)
/-- FREE (R215). -/
def execFree (m : Master) (cd : Cd) (obj : BitVec 11) (s : State) : Out :=
  s.run fun s => s.busWrite m (R.syncCmd cd.val) (syncWord obj.toNat 4 0 0)
/-- TRY_ACQUIRE (R215). -/
def execTryAcquire (m : Master) (cd : Cd) (obj : BitVec 11) (s : State) : Out :=
  s.run fun s => s.busWrite m (R.syncCmd cd.val) (syncWord obj.toNat 5 0 0)
/-- RELEASE (R215). -/
def execRelease (m : Master) (cd : Cd) (obj : BitVec 11) (s : State) : Out :=
  s.run fun s => s.busWrite m (R.syncCmd cd.val) (syncWord obj.toNat 6 0 0)
/-- FORCE_RELEASE (R215). -/
def execForceRelease (m : Master) (cd : Cd) (obj : BitVec 11) (s : State) : Out :=
  s.run fun s => s.busWrite m (R.syncCmd cd.val) (syncWord obj.toNat 7 0 0)
/-- HALT_CORE (R207). -/
def execHaltCore (m : Master) (c : CoreIx) (s : State) : Out := s.run fun s => s.busWrite m (R.seqCmd c.val) (seqWord 1 0)
/-- RESUME_CORE (R208). -/
def execResumeCore (m : Master) (c : CoreIx) (s : State) : Out := s.run fun s => s.busWrite m (R.seqCmd c.val) (seqWord 2 0)
/-- RESUME_GROUP (R208). -/
def execResumeGroup (m : Master) (g : GroupRef) (s : State) : Out :=
  s.run fun s => s.busWrite m (R.seqCmd g.core.val) (seqWord 3 g.slot.val)
/-- KILL_GROUP (R208). -/
def execKillGroup (m : Master) (g : GroupRef) (s : State) : Out :=
  s.run fun s => s.busWrite m (R.seqCmd g.core.val) (seqWord 4 g.slot.val)
/-- NS_REARM (R291). -/
def execNsRearm (m : Master) (c : CoreIx) (s : State) : Out := s.run fun s => s.busSet m (R.nsCtrl c.val) F.nsCtrl_rearm 1
/-- SR_TEST_WRITE (R310). -/
def execSrTestWrite (m : Master) (c : CoreIx) (which : SrReg) (data : Word) (s : State) : Out :=
  s.run fun s => s.busWrite m (which.reg c.val) data
/-- TBL_DATA_WRITE (R353). -/
def execTblDataWrite (m : Master) (c : CoreIx) (data : Word) (s : State) : Out := s.run fun s => s.busWrite m (R.tblData c.val) data
/-- SWITCH (R353). -/
def execSwitch (m : Master) (c : CoreIx) (s : State) : Out := s.run fun s => s.busSet m (R.tblCtrl c.val) F.tblCtrl_switch 1
/-- TS_REARM (R387). -/
def execTsRearm (m : Master) (c : CoreIx) (s : State) : Out := s.run fun s => s.busSet m (R.tsCtrl c.val) F.tsCtrl_rearm 1
/-- MAP_WRITE (R401). -/
def execMapWrite (m : Master) (cd : Cd) (w : Fin 8) (data : Word) (s : State) : Out :=
  s.run fun s => s.busWrite m (R.mcMap cd.val w.val) data
/-- MAP_LOCK (R399). -/
def execMapLock (m : Master) (cd : Cd) (s : State) : Out := s.run fun s => s.busSet m (R.mcCtrl cd.val) F.mcCtrl_mapLock 1
/-- ZERO_GO (R436). -/
def execZeroGo (m : Master) (cd : Cd) (s : State) : Out := s.run fun s => s.busSet m (R.zeroCtrl cd.val) F.zeroCtrl_go 1
/-- ZEROIZE_END (R436). -/
def execZeroizeEnd (cd : Cd) (s : State) : Out := s.run fun s => zeroizeEnd cd.val s
/-- L1_INVALIDATE (R480). -/
def execL1Invalidate (m : Master) (c : CoreIx) (s : State) : Out :=
  s.run fun s => s.busSet m (R.l1Ctrl (c.val / 16) (c.val % 16)) F.l1Ctrl_invalidate 1
/-- L1_ENABLE_WRITE (R479). -/
def execL1EnableWrite (m : Master) (c : CoreIx) (en : Bool) (s : State) : Out :=
  s.run fun s => s.busSet m (R.l1Ctrl (c.val / 16) (c.val % 16)) F.l1Ctrl_enable (b2n en)
/-- L2_INVALIDATE (R480). -/
def execL2Invalidate (m : Master) (cl : ClIx) (s : State) : Out := s.run fun s => s.busSet m (R.l2Cmd cl.val) F.l2Cmd_invalidate 1
/-- L2_CLEAN (R495). -/
def execL2Clean (m : Master) (cl : ClIx) (s : State) : Out := s.run fun s => s.busSet m (R.l2Cmd cl.val) F.l2Cmd_clean 1
/-- L2_ENABLE_WRITE (R481). -/
def execL2EnableWrite (m : Master) (cl : ClIx) (en : Bool) (s : State) : Out :=
  s.run fun s => s.busSet m (R.l2Ctrl cl.val) F.l2Ctrl_enable (b2n en)
/-- XL_INVALIDATE (R480). -/
def execXlInvalidate (m : Master) (s : State) : Out := s.run fun s => s.busSet m R.xlCmd F.xlCmd_invalidate 1
/-- XL_CLEAN (R500). -/
def execXlClean (m : Master) (s : State) : Out := s.run fun s => s.busSet m R.xlCmd F.xlCmd_clean 1
/-- XL_ENABLE_WRITE (R481). -/
def execXlEnableWrite (m : Master) (en : Bool) (s : State) : Out := s.run fun s => s.busSet m R.xlCtrl F.xlCtrl_enable (b2n en)
/-- TILE_PAIRS_WRITE (R457). -/
def execTilePairsWrite (m : Master) (cl : ClIx) (pairs : BitVec 3) (s : State) : Out :=
  s.run fun s => s.busSet m (R.l2Ctrl cl.val) F.l2Ctrl_tilePairs pairs.toNat
/-- SHOOTDOWN_GO (R519). -/
def execShootdownGo (m : Master) (ctl : Word) (s : State) : Out := s.run fun s => s.busWrite m R.shootCtrl (F.shootCtrl_go.set 1 ctl)
/-- SE_DOORBELL (R527). -/
def execSeDoorbell (m : Master) (e : SeRef) (prod : BitVec 32) (s : State) : Out :=
  s.run fun s => s.busSet m e.db F.seDb_prod prod.toNat
/-- SE_PAUSE (R542). -/
def execSePause (m : Master) (e : SeRef) (s : State) : Out := s.run fun s => s.busWrite m e.cmd 1
/-- SE_RESUME (R542). -/
def execSeResume (m : Master) (e : SeRef) (s : State) : Out := s.run fun s => s.busWrite m e.cmd 2
/-- SE_ABORT (R542). -/
def execSeAbort (m : Master) (e : SeRef) (s : State) : Out := s.run fun s => s.busWrite m e.cmd 3
/-- SE_ENABLE_WRITE (R540). -/
def execSeEnableWrite (m : Master) (e : SeRef) (en : Bool) (s : State) : Out :=
  s.run fun s => s.busSet m e.ctrl F.seCtrl_enable (b2n en)
/-- RESOLVE_RETRY (R553). -/
def execResolveRetry (m : Master) (p : BitVec 3) (idx : BitVec 32) (s : State) : Out :=
  s.run fun s => s.busWrite m R.fqResolve (resolveWord p.toNat 0 idx.toNat)
/-- RESOLVE_ABORT (R553). -/
def execResolveAbort (m : Master) (p : BitVec 3) (idx : BitVec 32) (s : State) : Out :=
  s.run fun s => s.busWrite m R.fqResolve (resolveWord p.toNat 1 idx.toNat)
/-- FQ_CONS_WRITE (R555). -/
def execFqConsWrite (m : Master) (p : BitVec 3) (v : BitVec 32) (s : State) : Out :=
  s.run fun s => s.busWrite m (R.fqCons p.toNat) (Word.of v.toNat)
/-- FQ_BASE_WRITE (R555). -/
def execFqBaseWrite (m : Master) (p : BitVec 3) (data : Word) (s : State) : Out := s.run fun s => s.busWrite m (R.fqBase p.toNat) data
/-- STAGE (R579). -/
def execStage (m : Master) (s : State) : Out := s.run fun s => s.busWrite m R.wvCmd 1
/-- COMMIT (R587). -/
def execCommit (m : Master) (s : State) : Out := s.run fun s => s.busWrite m R.wvCmd 2
/-- WEAVE_ABORT (R588). -/
def execWeaveAbort (m : Master) (s : State) : Out := s.run fun s => s.busWrite m R.wvCmd 3
/-- RING_DOORBELL (R604). -/
def execRingDoorbell (m : Master) (r : BitVec 6) (prod : BitVec 32) (s : State) : Out :=
  s.run fun s => s.busSet m (R.hostDb r.toNat) F.hostDb_prod prod.toNat
/-- RESET_HD0 (R616). -/
def execResetHd0 (m : Master) (s : State) : Out := s.run fun s => s.busWrite m R.hostCtrl 1
/-- RESET_HD1 (R616). -/
def execResetHd1 (m : Master) (s : State) : Out := s.run fun s => s.busWrite m R.hostCtrl 2
/-- HANDBACK (R624). -/
def execHandback (m : Master) (s : State) : Out := s.run fun s => s.busWrite m R.hostCtrl 3
/-- HEARTBEAT (R621). -/
def execHeartbeat (m : Master) (v : Word) (s : State) : Out := s.run fun s => s.busWrite m R.hostHb v
/-- PCIE_RETRAIN (R645). -/
def execPcieRetrain (m : Master) (hd port : Fin 2) (s : State) : Out :=
  s.run fun s => s.busSet m (R.pcieCtrl hd.val port.val) F.pcieCtrl_retrain 1
/-- TWIN_ENABLE_WRITE (R626). -/
def execTwinEnableWrite (m : Master) (en : Bool) (s : State) : Out := s.run fun s => s.busSet m R.twnCtrl F.twnCtrl_enable (b2n en)
/-- MODE_WRITE (R636). -/
def execModeWrite (m : Master) (mode : BitVec 2) (peer : PeerFacts) (s : State) : Out :=
  s.run fun s => (s.setPeer peer).busSet m R.twnCtrl F.twnCtrl_mode mode.toNat
/-- TWIN_RETRAIN (R647). -/
def execTwinRetrain (m : Master) (s : State) : Out := s.run fun s => s.busSet m R.twnCtrl F.twnCtrl_action 1
/-- MARK (R632). -/
def execMark (m : Master) (s : State) : Out := s.run fun s => s.busSet m R.twnCtrl F.twnCtrl_action 2
/-- TAKEOVER (R638). -/
def execTakeover (m : Master) (s : State) : Out := s.run fun s => s.busSet m R.twnCtrl F.twnCtrl_action 3
/-- UNFENCE (R637). -/
def execUnfence (m : Master) (s : State) : Out := s.run fun s => s.busSet m R.twnCtrl F.twnCtrl_action 4
/-- DC_REARM (R647). -/
def execDcRearm (m : Master) (s : State) : Out := s.run fun s => s.busSet m R.dcCtrl F.dcCtrl_rearm 1
/-- SAVE_ONLY (R705). -/
def execSaveOnly (m : Master) (s : State) : Out := s.run fun s => s.busSet m R.saveCtrl F.saveCtrl_action 1
/-- LIST_COMMIT (R698). -/
def execListCommit (m : Master) (s : State) : Out := s.run fun s => s.busSet m R.saveCtrl F.saveCtrl_action 2
/-- RESET_CD (R731). -/
def execResetCd (m : Master) (site : BitVec 4) (s : State) : Out := s.run fun s => s.busWrite m R.rasCtrl (rasWord 1 site.toNat)
/-- RELEASE_CD (R732). -/
def execReleaseCd (m : Master) (site : BitVec 4) (s : State) : Out := s.run fun s => s.busWrite m R.rasCtrl (rasWord 2 site.toNat)
/-- RESTORE (R730). -/
def execRestore (m : Master) (s : State) : Out := s.run fun s => s.busSet m R.rasCtrl F.rasCtrl_action 3
/-- RESET_PKG (R744). -/
def execResetPkg (m : Master) (s : State) : Out := s.run fun s => s.busSet m R.rasCtrl F.rasCtrl_action 4
/-- REC_SEL_WRITE (R741). -/
def execRecSelWrite (m : Master) (v : Word) (s : State) : Out := s.run fun s => s.busWrite m R.rasRecSel v
/-- RAS_CONS_WRITE (R744). -/
def execRasConsWrite (m : Master) (v : Word) (s : State) : Out := s.run fun s => s.busWrite m R.rasCons v

end Sys2Proof.Machine
end

