-- ==== Sys2Proof/Machine/Dispatch.lean ====
section
/-!
DEFINITION. The dispatch: one arm per command, each a direct call of its meaning.
-/

namespace Sys2Proof.Machine

/-- The effect of a command on everything but the queue. -/
def exec (i : Instr) (s : State) : Host.Outcome State Fault Refusal :=
  match i with
  | .dieResetRelease site facts => Sys2Proof.Machine.execDieResetRelease site facts s
  | .enumerationAnswer port => Sys2Proof.Machine.execEnumerationAnswer port s
  | .enumResponseTimeout port => Sys2Proof.Machine.execEnumResponseTimeout port s
  | .linkTraining link faults => Sys2Proof.Machine.execLinkTraining link faults s
  | .hello link atEnd peer => Sys2Proof.Machine.execHello link atEnd peer s
  | .widthCommit link atEnd peerSet => Sys2Proof.Machine.execWidthCommit link atEnd peerSet s
  | .trainingStepTimeout link => Sys2Proof.Machine.execTrainingStepTimeout link s
  | .olRetrain m n faults => Sys2Proof.Machine.execOlRetrain m n faults s
  | .olEnableWrite m n en => Sys2Proof.Machine.execOlEnableWrite m n en s
  | .edgeRetrain m cd e faults => Sys2Proof.Machine.execEdgeRetrain m cd e faults s
  | .edgeEnableWrite m cd e en => Sys2Proof.Machine.execEdgeEnableWrite m cd e en s
  | .retrainAll m faults => Sys2Proof.Machine.execRetrainAll m faults s
  | .flitCrcFail link sender flit => Sys2Proof.Machine.execFlitCrcFail link sender flit s
  | .retryWindowClose link atEnd faults => Sys2Proof.Machine.execRetryWindowClose link atEnd faults s
  | .laserAgeing k bias power ageing => Sys2Proof.Machine.execLaserAgeing k bias power ageing s
  | .laserFailure k => Sys2Proof.Machine.execLaserFailure k s
  | .registerWrite m pa size acc => Sys2Proof.Machine.execRegisterWrite m pa size acc s
  | .aliasWrite m pa kind data => Sys2Proof.Machine.execAliasWrite m pa kind data s
  | .violFirstRead m site => Sys2Proof.Machine.execViolFirstRead m site s
  | .snapTake m site => Sys2Proof.Machine.execSnapTake m site s
  | .snapshotTick site => Sys2Proof.Machine.execSnapshotTick site s
  | .takeAll m => Sys2Proof.Machine.execTakeAll m s
  | .snapCommandArrival site => Sys2Proof.Machine.execSnapCommandArrival site s
  | .msiEntryWrite m site n half data => Sys2Proof.Machine.execMsiEntryWrite m site n half data s
  | .paceWindow site pace => Sys2Proof.Machine.execPaceWindow site pace s
  | .referenceLoss => Sys2Proof.Machine.execReferenceLoss s
  | .holdoverExit => Sys2Proof.Machine.execHoldoverExit s
  | .governorEvaluation r => Sys2Proof.Machine.execGovernorEvaluation r s
  | .transferGrant hop waiting => Sys2Proof.Machine.execTransferGrant hop waiting s
  | .idleEntry u => Sys2Proof.Machine.execIdleEntry u s
  | .idleWakeStart u beforeNoReturn => Sys2Proof.Machine.execIdleWakeStart u beforeNoReturn s
  | .idleWakeComplete u => Sys2Proof.Machine.execIdleWakeComplete u s
  | .i4WakeTimeout cd => Sys2Proof.Machine.execI4WakeTimeout cd s
  | .mov g scalar f => Sys2Proof.Machine.execMov g scalar f s
  | .add g scalar f => Sys2Proof.Machine.execAdd g scalar f s
  | .sub g scalar f => Sys2Proof.Machine.execSub g scalar f s
  | .mul g scalar f => Sys2Proof.Machine.execMul g scalar f s
  | .mulh g scalar f => Sys2Proof.Machine.execMulh g scalar f s
  | .min g scalar f => Sys2Proof.Machine.execMin g scalar f s
  | .max g scalar f => Sys2Proof.Machine.execMax g scalar f s
  | .abs g scalar f => Sys2Proof.Machine.execAbs g scalar f s
  | .and g scalar f => Sys2Proof.Machine.execAnd g scalar f s
  | .or g scalar f => Sys2Proof.Machine.execOr g scalar f s
  | .xor g scalar f => Sys2Proof.Machine.execXor g scalar f s
  | .not g scalar f => Sys2Proof.Machine.execNot g scalar f s
  | .shl g scalar f => Sys2Proof.Machine.execShl g scalar f s
  | .shr g scalar f => Sys2Proof.Machine.execShr g scalar f s
  | .sar g scalar f => Sys2Proof.Machine.execSar g scalar f s
  | .popc g scalar f => Sys2Proof.Machine.execPopc g scalar f s
  | .fadd g f => Sys2Proof.Machine.execFadd g f s
  | .fsub g f => Sys2Proof.Machine.execFsub g f s
  | .fmul g f => Sys2Proof.Machine.execFmul g f s
  | .ffma g f => Sys2Proof.Machine.execFfma g f s
  | .fmin g f => Sys2Proof.Machine.execFmin g f s
  | .fmax g f => Sys2Proof.Machine.execFmax g f s
  | .cvt g f => Sys2Proof.Machine.execCvt g f s
  | .qcmp g f => Sys2Proof.Machine.execQcmp g f s
  | .pick g f => Sys2Proof.Machine.execPick g f s
  | .qlog g f => Sys2Proof.Machine.execQlog g f s
  | .lxch g f => Sys2Proof.Machine.execLxch g f s
  | .qpoll g f => Sys2Proof.Machine.execQpoll g f s
  | .laneid g f => Sys2Proof.Machine.execLaneid g f s
  | .u2l g f => Sys2Proof.Machine.execU2l g f s
  | .l2u g f => Sys2Proof.Machine.execL2u g f s
  | .rdtb g f => Sys2Proof.Machine.execRdtb g f s
  | .rdid g f => Sys2Proof.Machine.execRdid g f s
  | .ld g f => Sys2Proof.Machine.execLd g f s
  | .st g f => Sys2Proof.Machine.execSt g f s
  | .lds g f => Sys2Proof.Machine.execLds g f s
  | .sts g f => Sys2Proof.Machine.execSts g f s
  | .atom g f => Sys2Proof.Machine.execAtom g f s
  | .fence g f => Sys2Proof.Machine.execFence g f s
  | .pfence g f => Sys2Proof.Machine.execPfence g f s
  | .tfence g f => Sys2Proof.Machine.execTfence g f s
  | .fill g f => Sys2Proof.Machine.execFill g f s
  | .drain g f => Sys2Proof.Machine.execDrain g f s
  | .sig g f => Sys2Proof.Machine.execSig g f s
  | .wait g f => Sys2Proof.Machine.execWait g f s
  | .acq g f => Sys2Proof.Machine.execAcq g f s
  | .acqg g f => Sys2Proof.Machine.execAcqg g f s
  | .rel g f => Sys2Proof.Machine.execRel g f s
  | .relg g f => Sys2Proof.Machine.execRelg g f s
  | .bar g f => Sys2Proof.Machine.execBar g f s
  | .bart g f => Sys2Proof.Machine.execBart g f s
  | .syncTimeout cd obj w => Sys2Proof.Machine.execSyncTimeout cd obj w s
  | .barrierTimeout g => Sys2Proof.Machine.execBarrierTimeout g s
  | .bra g f => Sys2Proof.Machine.execBra g f s
  | .bru g f => Sys2Proof.Machine.execBru g f s
  | .join g f => Sys2Proof.Machine.execJoin g f s
  | .jmpu g f => Sys2Proof.Machine.execJmpu g f s
  | .exit g f => Sys2Proof.Machine.execExit g f s
  | .setpri g f => Sys2Proof.Machine.execSetpri g f s
  | .halt g f => Sys2Proof.Machine.execHalt g f s
  | .syncSignal m cd obj amount => Sys2Proof.Machine.execSyncSignal m cd obj amount s
  | .initCounter m cd obj part amount => Sys2Proof.Machine.execInitCounter m cd obj part amount s
  | .initLock m cd obj part => Sys2Proof.Machine.execInitLock m cd obj part s
  | .free m cd obj => Sys2Proof.Machine.execFree m cd obj s
  | .tryAcquire m cd obj => Sys2Proof.Machine.execTryAcquire m cd obj s
  | .release m cd obj => Sys2Proof.Machine.execRelease m cd obj s
  | .forceRelease m cd obj => Sys2Proof.Machine.execForceRelease m cd obj s
  | .haltCore m c => Sys2Proof.Machine.execHaltCore m c s
  | .resumeCore m c => Sys2Proof.Machine.execResumeCore m c s
  | .resumeGroup m g => Sys2Proof.Machine.execResumeGroup m g s
  | .killGroup m g => Sys2Proof.Machine.execKillGroup m g s
  | .mma g f => Sys2Proof.Machine.execMma g f s
  | .mmaz g f => Sys2Proof.Machine.execMmaz g f s
  | .accz g f => Sys2Proof.Machine.execAccz g f s
  | .accld g f => Sys2Proof.Machine.execAccld g f s
  | .accst g f => Sys2Proof.Machine.execAccst g f s
  | .accamax g f => Sys2Proof.Machine.execAccamax g f s
  | .lsz g f => Sys2Proof.Machine.execLsz g f s
  | .lsst g f => Sys2Proof.Machine.execLsst g f s
  | .lsadd g f => Sys2Proof.Machine.execLsadd g f s
  | .lsrnd g f => Sys2Proof.Machine.execLsrnd g f s
  | .nanReport c rep => Sys2Proof.Machine.execNanReport c rep s
  | .nsRearm m c => Sys2Proof.Machine.execNsRearm m c s
  | .srTestWrite m c which data => Sys2Proof.Machine.execSrTestWrite m c which data s
  | .vcvt g f => Sys2Proof.Machine.execVcvt g f s
  | .vadd g f => Sys2Proof.Machine.execVadd g f s
  | .vsub g f => Sys2Proof.Machine.execVsub g f s
  | .vmul g f => Sys2Proof.Machine.execVmul g f s
  | .vfma g f => Sys2Proof.Machine.execVfma g f s
  | .vmin g f => Sys2Proof.Machine.execVmin g f s
  | .vmax g f => Sys2Proof.Machine.execVmax g f s
  | .vcmp g f => Sys2Proof.Machine.execVcmp g f s
  | .vsel g f => Sys2Proof.Machine.execVsel g f s
  | .vand g f => Sys2Proof.Machine.execVand g f s
  | .vor g f => Sys2Proof.Machine.execVor g f s
  | .vxor g f => Sys2Proof.Machine.execVxor g f s
  | .vsf g f => Sys2Proof.Machine.execVsf g f s
  | .vrsum g f => Sys2Proof.Machine.execVrsum g f s
  | .vrdot g f => Sys2Proof.Machine.execVrdot g f s
  | .vrmax g f => Sys2Proof.Machine.execVrmax g f s
  | .vrmin g f => Sys2Proof.Machine.execVrmin g f s
  | .vrargmax g f => Sys2Proof.Machine.execVrargmax g f s
  | .vrargmin g f => Sys2Proof.Machine.execVrargmin g f s
  | .vrand g f => Sys2Proof.Machine.execVrand g f s
  | .vror g f => Sys2Proof.Machine.execVror g f s
  | .vrxor g f => Sys2Proof.Machine.execVrxor g f s
  | .vany g f => Sys2Proof.Machine.execVany g f s
  | .vall g f => Sys2Proof.Machine.execVall g f s
  | .vcount g f => Sys2Proof.Machine.execVcount g f s
  | .vfirst g f => Sys2Proof.Machine.execVfirst g f s
  | .vscan g f => Sys2Proof.Machine.execVscan g f s
  | .vscanx g f => Sys2Proof.Machine.execVscanx g f s
  | .vsscan g f => Sys2Proof.Machine.execVsscan g f s
  | .vsscanx g f => Sys2Proof.Machine.execVsscanx g f s
  | .vmoments g f => Sys2Proof.Machine.execVmoments g f s
  | .vlnorm g f => Sys2Proof.Machine.execVlnorm g f s
  | .vrmsnorm g f => Sys2Proof.Machine.execVrmsnorm g f s
  | .vsmax g f => Sys2Proof.Machine.execVsmax g f s
  | .vlsz g f => Sys2Proof.Machine.execVlsz g f s
  | .vsumc g f => Sys2Proof.Machine.execVsumc g f s
  | .vdotc g f => Sys2Proof.Machine.execVdotc g f s
  | .vlsadd g f => Sys2Proof.Machine.execVlsadd g f s
  | .vlsrnd g f => Sys2Proof.Machine.execVlsrnd g f s
  | .vtload g f => Sys2Proof.Machine.execVtload g f s
  | .vtloadCopyEnd c => Sys2Proof.Machine.execVtloadCopyEnd c s
  | .tblDataWrite m c data => Sys2Proof.Machine.execTblDataWrite m c data s
  | .switch m c => Sys2Proof.Machine.execSwitch m c s
  | .vlsel g f => Sys2Proof.Machine.execVlsel g f s
  | .vlupd g f => Sys2Proof.Machine.execVlupd g f s
  | .vtsel g f => Sys2Proof.Machine.execVtsel g f s
  | .vtcmp g f => Sys2Proof.Machine.execVtcmp g f s
  | .vmupd g f => Sys2Proof.Machine.execVmupd g f s
  | .tsRearm m c => Sys2Proof.Machine.execTsRearm m c s
  | .mapWrite m cd w data => Sys2Proof.Machine.execMapWrite m cd w data s
  | .mapLock m cd => Sys2Proof.Machine.execMapLock m cd s
  | .controllerRequest k r => Sys2Proof.Machine.execControllerRequest k r s
  | .sliverRead r => Sys2Proof.Machine.execSliverRead r s
  | .sliverWrite r data enables => Sys2Proof.Machine.execSliverWrite r data enables s
  | .reductionOp r => Sys2Proof.Machine.execReductionOp r s
  | .regulatorRefill => Sys2Proof.Machine.execRegulatorRefill s
  | .patrolScrub k pa cond => Sys2Proof.Machine.execPatrolScrub k pa cond s
  | .refresh k bank => Sys2Proof.Machine.execRefresh k bank s
  | .stackTempRead k temp => Sys2Proof.Machine.execStackTempRead k temp s
  | .zeroGo m cd => Sys2Proof.Machine.execZeroGo m cd s
  | .zeroizeEnd cd => Sys2Proof.Machine.execZeroizeEnd cd s
  | .mergeBufferTimeout c line => Sys2Proof.Machine.execMergeBufferTimeout c line s
  | .rds h line => Sys2Proof.Machine.execRds h line s
  | .rdu h line => Sys2Proof.Machine.execRdu h line s
  | .upg h line => Sys2Proof.Machine.execUpg h line s
  | .wb h line => Sys2Proof.Machine.execWb h line s
  | .wbc h line => Sys2Proof.Machine.execWbc h line s
  | .rdnc r line => Sys2Proof.Machine.execRdnc r line s
  | .wrf r line data => Sys2Proof.Machine.execWrf r line data s
  | .wrp r line data enables => Sys2Proof.Machine.execWrp r line data enables s
  | .snoop h line kind => Sys2Proof.Machine.execSnoop h line kind s
  | .missFill h line => Sys2Proof.Machine.execMissFill h line s
  | .l1Invalidate m c => Sys2Proof.Machine.execL1Invalidate m c s
  | .l1EnableWrite m c en => Sys2Proof.Machine.execL1EnableWrite m c en s
  | .l2Invalidate m cl => Sys2Proof.Machine.execL2Invalidate m cl s
  | .l2Clean m cl => Sys2Proof.Machine.execL2Clean m cl s
  | .l2EnableWrite m cl en => Sys2Proof.Machine.execL2EnableWrite m cl en s
  | .xlInvalidate m => Sys2Proof.Machine.execXlInvalidate m s
  | .xlClean m => Sys2Proof.Machine.execXlClean m s
  | .xlEnableWrite m en => Sys2Proof.Machine.execXlEnableWrite m en s
  | .invalidateDone k => Sys2Proof.Machine.execInvalidateDone k s
  | .disableDone k => Sys2Proof.Machine.execDisableDone k s
  | .tilePairsWrite m cl pairs => Sys2Proof.Machine.execTilePairsWrite m cl pairs s
  | .tileChangeDone cl => Sys2Proof.Machine.execTileChangeDone cl s
  | .tileRequest r => Sys2Proof.Machine.execTileRequest r s
  | .twinCopyExpiry line => Sys2Proof.Machine.execTwinCopyExpiry line s
  | .cboClean h pa => Sys2Proof.Machine.execCboClean h pa s
  | .cboFlush h pa => Sys2Proof.Machine.execCboFlush h pa s
  | .cboInval h pa => Sys2Proof.Machine.execCboInval h pa s
  | .cboZero h pa => Sys2Proof.Machine.execCboZero h pa s
  | .tableWalk w r => Sys2Proof.Machine.execTableWalk w r s
  | .faultArrival u => Sys2Proof.Machine.execFaultArrival u s
  | .shootdownGo m ctl => Sys2Proof.Machine.execShootdownGo m ctl s
  | .shootdownDone => Sys2Proof.Machine.execShootdownDone s
  | .seDoorbell m e prod => Sys2Proof.Machine.execSeDoorbell m e prod s
  | .descriptorFetch e => Sys2Proof.Machine.execDescriptorFetch e s
  | .copy e => Sys2Proof.Machine.execCopy e s
  | .pattern e => Sys2Proof.Machine.execPattern e s
  | .reduce e => Sys2Proof.Machine.execReduce e s
  | .note e => Sys2Proof.Machine.execNote e s
  | .descriptorComplete e => Sys2Proof.Machine.execDescriptorComplete e s
  | .descriptorDeadline e idx => Sys2Proof.Machine.execDescriptorDeadline e idx s
  | .sePause m e => Sys2Proof.Machine.execSePause m e s
  | .seResume m e => Sys2Proof.Machine.execSeResume m e s
  | .seAbort m e => Sys2Proof.Machine.execSeAbort m e s
  | .seEnableWrite m e en => Sys2Proof.Machine.execSeEnableWrite m e en s
  | .resolveRetry m p idx => Sys2Proof.Machine.execResolveRetry m p idx s
  | .resolveAbort m p idx => Sys2Proof.Machine.execResolveAbort m p idx s
  | .fqConsWrite m p v => Sys2Proof.Machine.execFqConsWrite m p v s
  | .fqBaseWrite m p data => Sys2Proof.Machine.execFqBaseWrite m p data s
  | .stage m => Sys2Proof.Machine.execStage m s
  | .imageStaged => Sys2Proof.Machine.execImageStaged s
  | .commit m => Sys2Proof.Machine.execCommit m s
  | .weaveAbort m => Sys2Proof.Machine.execWeaveAbort m s
  | .voteReport v => Sys2Proof.Machine.execVoteReport v s
  | .voteDeadline => Sys2Proof.Machine.execVoteDeadline s
  | .applyDone => Sys2Proof.Machine.execApplyDone s
  | .epochArrival cl => Sys2Proof.Machine.execEpochArrival cl s
  | .ringDoorbell m r prod => Sys2Proof.Machine.execRingDoorbell m r prod s
  | .nop r => Sys2Proof.Machine.execNop r s
  | .launch r => Sys2Proof.Machine.execLaunch r s
  | .blockAdmit c => Sys2Proof.Machine.execBlockAdmit c s
  | .cmdSignal r => Sys2Proof.Machine.execCmdSignal r s
  | .cmdWait r => Sys2Proof.Machine.execCmdWait r s
  | .commandComplete r => Sys2Proof.Machine.execCommandComplete r s
  | .resetHd0 m => Sys2Proof.Machine.execResetHd0 m s
  | .resetHd1 m => Sys2Proof.Machine.execResetHd1 m s
  | .hostSelfReset hd => Sys2Proof.Machine.execHostSelfReset hd s
  | .handback m => Sys2Proof.Machine.execHandback m s
  | .heartbeat m v => Sys2Proof.Machine.execHeartbeat m v s
  | .heartbeatTimeout => Sys2Proof.Machine.execHeartbeatTimeout s
  | .fallbackDeadline => Sys2Proof.Machine.execFallbackDeadline s
  | .hostLinkTimeout hd => Sys2Proof.Machine.execHostLinkTimeout hd s
  | .deviceRequest hd port r => Sys2Proof.Machine.execDeviceRequest hd port r s
  | .pcieRetrain m hd port => Sys2Proof.Machine.execPcieRetrain m hd port s
  | .twinEnableWrite m en => Sys2Proof.Machine.execTwinEnableWrite m en s
  | .twinAuth r => Sys2Proof.Machine.execTwinAuth r s
  | .modeWrite m mode peer => Sys2Proof.Machine.execModeWrite m mode peer s
  | .twinRetrain m => Sys2Proof.Machine.execTwinRetrain m s
  | .mark m => Sys2Proof.Machine.execMark m s
  | .takeover m => Sys2Proof.Machine.execTakeover m s
  | .unfence m => Sys2Proof.Machine.execUnfence m s
  | .partnerRequest r => Sys2Proof.Machine.execPartnerRequest r s
  | .mirrorRecord r => Sys2Proof.Machine.execMirrorRecord r s
  | .markRecord n => Sys2Proof.Machine.execMarkRecord n s
  | .witnessHeartbeat h => Sys2Proof.Machine.execWitnessHeartbeat h s
  | .witnessTimeout => Sys2Proof.Machine.execWitnessTimeout s
  | .leaseExpiry => Sys2Proof.Machine.execLeaseExpiry s
  | .takeoverDeadline => Sys2Proof.Machine.execTakeoverDeadline s
  | .duplexTriple t => Sys2Proof.Machine.execDuplexTriple t s
  | .dcTimeout r => Sys2Proof.Machine.execDcTimeout r s
  | .dcRearm m => Sys2Proof.Machine.execDcRearm m s
  | .flitTagFail => Sys2Proof.Machine.execFlitTagFail s
  | .keyUpdateDue => Sys2Proof.Machine.execKeyUpdateDue s
  | .keyUpdate => Sys2Proof.Machine.execKeyUpdate s
  | .spdm => Sys2Proof.Machine.execSpdm s
  | .logRead => Sys2Proof.Machine.execLogRead s
  | .commitSvn => Sys2Proof.Machine.execCommitSvn s
  | .zeroizeAll => Sys2Proof.Machine.execZeroizeAll s
  | .spdmMctp req => Sys2Proof.Machine.execSpdmMctp req s
  | .bypass => Sys2Proof.Machine.execBypass s
  | .idcode => Sys2Proof.Machine.execIdcode s
  | .secChallenge => Sys2Proof.Machine.execSecChallenge s
  | .secToken token => Sys2Proof.Machine.execSecToken token s
  | .nonceExpiry => Sys2Proof.Machine.execNonceExpiry s
  | .tamperDetection sensor => Sys2Proof.Machine.execTamperDetection sensor s
  | .vinWarn vin => Sys2Proof.Machine.execVinWarn vin s
  | .overvoltage => Sys2Proof.Machine.execOvervoltage s
  | .overcurrent => Sys2Proof.Machine.execOvercurrent s
  | .overpower => Sys2Proof.Machine.execOverpower s
  | .saveTrigger => Sys2Proof.Machine.execSaveTrigger s
  | .saveComplete => Sys2Proof.Machine.execSaveComplete s
  | .converterDropout written => Sys2Proof.Machine.execConverterDropout written s
  | .powerRearm => Sys2Proof.Machine.execPowerRearm s
  | .saveOnly m => Sys2Proof.Machine.execSaveOnly m s
  | .listCommit m => Sys2Proof.Machine.execListCommit m s
  | .coolantReading r => Sys2Proof.Machine.execCoolantReading r s
  | .thermalTrip why => Sys2Proof.Machine.execThermalTrip why s
  | .on => Sys2Proof.Machine.execOn s
  | .gracefulShutdown => Sys2Proof.Machine.execGracefulShutdown s
  | .forceOff => Sys2Proof.Machine.execForceOff s
  | .powerCycle => Sys2Proof.Machine.execPowerCycle s
  | .firmwareUpdate u => Sys2Proof.Machine.execFirmwareUpdate u s
  | .standbyEnable level => Sys2Proof.Machine.execStandbyEnable level s
  | .packagePowerOn facts => Sys2Proof.Machine.execPackagePowerOn facts s
  | .resetCd m site => Sys2Proof.Machine.execResetCd m site s
  | .releaseCd m site => Sys2Proof.Machine.execReleaseCd m site s
  | .restore m => Sys2Proof.Machine.execRestore m s
  | .restoreDone => Sys2Proof.Machine.execRestoreDone s
  | .resetPkg m => Sys2Proof.Machine.execResetPkg m s
  | .errorDetection d => Sys2Proof.Machine.execErrorDetection d s
  | .recSelWrite m v => Sys2Proof.Machine.execRecSelWrite m v s
  | .rasConsWrite m v => Sys2Proof.Machine.execRasConsWrite m v s
  | .mirrorAck a => Sys2Proof.Machine.execMirrorAck a s
  | .twinLaneLoss good => Sys2Proof.Machine.execTwinLaneLoss good s
  | .pcieLinkChange hd port l => Sys2Proof.Machine.execPcieLinkChange hd port l s
  | .aerErrorMessage hd port uncorr => Sys2Proof.Machine.execAerErrorMessage hd port uncorr s
  | .standbyRailLoss => Sys2Proof.Machine.execStandbyRailLoss s
  | .arraySelfTest k => Sys2Proof.Machine.execArraySelfTest k s

end Sys2Proof.Machine
end

