-- ==== Sys2Proof/Machine/Step.lean ====
section
/-!
DEFINITION. One step of the block: take the command at the front of the queue and give it its effect; with an
empty queue the block idles and one tick passes (log entry 10).
-/

namespace Sys2Proof.Machine

/-- The block with nothing to do: a tick of the timebase passes (log entry 10), and the persistent store takes an
audit entry that awaits it (R672). -/
def State.idle (s : State) : State :=
  let t := s.logStore
  { t with tick := s.tick + 1, pending := s.pending }

/-- One step. -/
def step (s : State) : Host.Outcome State Fault Refusal :=
  match s.pending with
  | [] => .next s.idle
  | c :: cs => exec c { s with pending := cs }

/-- The state with the command that a table word spells at the front of its queue; no row of the table gives
bits, so no word spells a command. -/
def State.withFetchWord (s : State) (nbits w : Nat) : State :=
  match decodeTableWord nbits w with
  | some c => { s with pending := c :: s.pending }
  | none => s

end Sys2Proof.Machine
end

