-- ==== Sys2Proof/WellFormed.lean ====
section
/-!
DEFINITION. Well-formed commands: the bounds the spec sets on operands that the operands' types do not carry
already, such as alignments, lengths of data and lengths of digests.
-/

namespace Sys2Proof

open Machine

/-! ## Parts -/

/-- A SHA-384 digest or a KEY_ID has 48 bytes (R653, R655). -/
def digestOk (l : List Byte) : Bool := decide (l.length = 48)

/-- A signed image's digest, key and signature (R654). -/
def Machine.FwFacts.wf (x : FwFacts) : Bool :=
  digestOk x.digest && digestOk x.keyId && digestOk x.sigR && digestOk x.sigS

/-- R16, R51: a die's answer. -/
def Machine.DieFacts.wf (x : DieFacts) : Bool :=
  decide (x.kind.toNat ≤ 2) && (match x.fw with | some f => f.wf | none => true)

/-- R653: an entry of a manifest. -/
def Machine.ManEntry.wf (x : ManEntry) : Bool := digestOk x.keyId && decide (x.x < 2 ^ 384) && decide (x.y < 2 ^ 384)

/-- R653: a manifest. -/
def Machine.ManFacts.wf (x : ManFacts) : Bool := x.entries.all ManEntry.wf && digestOk x.digest

/-- R656: what a store is manufactured with. -/
def Machine.StoreFacts.wf (x : StoreFacts) : Bool :=
  x.manifest.wf && x.onyxFw.wf && x.bobFw.wf && digestOk x.beryl && digestOk x.rom && digestOk x.idk

/-- R31, R38: failed units of a link: one entry for a group at most. -/
def Machine.LinkFaults.wf (x : LinkFaults) : Bool :=
  decide ((x.a.map UnitFault.group).Nodup) && decide ((x.b.map UnitFault.group).Nodup)

/-- R407: a request at a controller lies within one codeword. -/
def Machine.MemRequest.wf (x : MemRequest) : Bool :=
  match x.write with
  | none => true
  | some bs => decide (0 < bs.length) && decide (x.pa.toNat % 64 + bs.length ≤ 64)

/-- R453: a request to tile memory lies within one line. -/
def Machine.TileRequest.wf (x : TileRequest) : Bool :=
  match x.write with
  | none => true
  | some bs => decide (0 < bs.length) && decide (x.pa.toNat % 128 + bs.length ≤ 128)

/-- R613: a device's request carries 1 to 4,096 bytes. -/
def Machine.DeviceRequest.wf (x : DeviceRequest) : Bool :=
  let n := match x.write with | some bs => bs.length | none => x.len
  decide (1 ≤ n) && decide (n ≤ 4096)

/-- R627: a request of the partner lies within one line. -/
def Machine.PartnerRequest.wf (x : PartnerRequest) : Bool :=
  let n := match x.write with | some bs => bs.length | none => x.len
  decide (1 ≤ n) && decide (x.pa.toNat % 128 + n ≤ 128)

/-- R713: an update's image. -/
def Machine.FwUpdate.wf : FwUpdate → Bool
  | .beryl meas _ => digestOk meas
  | .onyxFw img => img.wf
  | .bobFw img => img.wf
  | .manifest m => m.wf

/-- R723: what a power-on meets. -/
def Machine.PowerFacts.wf (x : PowerFacts) : Bool :=
  (match x.made with | some m => m.wf | none => true)
    && x.dies.all (fun e => decide (e.1 < 11) && e.2.wf) && x.links.all (fun e => decide (e.1 < 18) && e.2.wf)

/-- R69: an address in register space. -/
def inRegSpace (pa : BitVec 48) : Bool := decide (0xE00_0000_0000 ≤ pa.toNat) && decide (pa.toNat < 0xF00_0000_0000)

/-- The sizes of a single load or store. -/
def accessSize (n : Nat) : Bool := [1, 2, 4, 8, 16, 32, 64].contains n

/-- A compute die's site (R5). -/
def inCd (site : BitVec 4) : Bool := decide (1 ≤ site.toNat) && decide (site.toNat ≤ 8)

/-! ## Commands -/

/-- Well-formed commands, one arm per row of the opcode table. Where a type already bounds an operand, nothing
more is asked. A reserved value of an instruction field is not ill-formed: the instruction halts its group with
ILLEGAL (R163). -/
def Instr.wf : Instr → Bool
  | .dieResetRelease _ facts => facts.wf
  | .enumerationAnswer _ => true
  | .enumResponseTimeout _ => true
  | .linkTraining _ faults => faults.wf
  | .hello _ _ _ => true
  | .widthCommit _ _ _ => true
  | .trainingStepTimeout _ => true
  | .olRetrain _ _ faults => faults.wf
  | .olEnableWrite _ _ _ => true
  | .edgeRetrain _ _ _ faults => faults.wf
  | .edgeEnableWrite _ _ _ _ => true
  | .retrainAll _ faults => faults.all (fun e => decide (e.1 < 18) && e.2.wf)
  | .flitCrcFail _ _ _ => true
  | .retryWindowClose _ _ faults => faults.wf
  | .laserAgeing _ _ _ _ => true
  | .laserFailure _ => true
  | .registerWrite _ pa size _ => inRegSpace pa && accessSize size
  | .aliasWrite _ pa _ _ => inRegSpace pa && decide (pa.toNat % 8 = 0) && decide (pa.toNat / 0x4000 % 4 = 0)
  | .violFirstRead _ _ => true
  | .snapTake _ _ => true
  | .snapshotTick _ => true
  | .takeAll _ => true
  | .snapCommandArrival _ => true
  | .msiEntryWrite _ _ _ _ _ => true
  | .paceWindow _ pace => decide (1 ≤ pace) && decide (pace < 256)
  | .referenceLoss => true
  | .holdoverExit => true
  | .governorEvaluation r => decide (r.dies.length = 11)
  | .transferGrant _ waiting => !waiting.isEmpty && decide ((waiting.map HopRequest.input).Nodup)
  | .idleEntry _ => true
  | .idleWakeStart _ _ => true
  | .idleWakeComplete _ => true
  | .i4WakeTimeout _ => true
  | .mov _ _ _ => true
  | .add _ _ _ => true
  | .sub _ _ _ => true
  | .mul _ _ _ => true
  | .mulh _ _ _ => true
  | .min _ _ _ => true
  | .max _ _ _ => true
  | .abs _ _ _ => true
  | .and _ _ _ => true
  | .or _ _ _ => true
  | .xor _ _ _ => true
  | .not _ _ _ => true
  | .shl _ _ _ => true
  | .shr _ _ _ => true
  | .sar _ _ _ => true
  | .popc _ _ _ => true
  | .fadd _ _ => true
  | .fsub _ _ => true
  | .fmul _ _ => true
  | .ffma _ _ => true
  | .fmin _ _ => true
  | .fmax _ _ => true
  | .cvt _ _ => true
  | .qcmp _ _ => true
  | .pick _ _ => true
  | .qlog _ _ => true
  | .lxch _ _ => true
  | .qpoll _ _ => true
  | .laneid _ _ => true
  | .u2l _ _ => true
  | .l2u _ _ => true
  | .rdtb _ _ => true
  | .rdid _ _ => true
  | .ld _ _ => true
  | .st _ _ => true
  | .lds _ _ => true
  | .sts _ _ => true
  | .atom _ _ => true
  | .fence _ _ => true
  | .pfence _ _ => true
  | .tfence _ _ => true
  | .fill _ _ => true
  | .drain _ _ => true
  | .sig _ _ => true
  | .wait _ _ => true
  | .acq _ _ => true
  | .acqg _ _ => true
  | .rel _ _ => true
  | .relg _ _ => true
  | .bar _ _ => true
  | .bart _ _ => true
  | .syncTimeout _ _ _ => true
  | .barrierTimeout _ => true
  | .bra _ _ => true
  | .bru _ _ => true
  | .join _ _ => true
  | .jmpu _ _ => true
  | .exit _ _ => true
  | .setpri _ _ => true
  | .halt _ _ => true
  | .syncSignal _ _ _ _ => true
  | .initCounter _ _ _ _ _ => true
  | .initLock _ _ _ _ => true
  | .free _ _ _ => true
  | .tryAcquire _ _ _ => true
  | .release _ _ _ => true
  | .forceRelease _ _ _ => true
  | .haltCore _ _ => true
  | .resumeCore _ _ => true
  | .resumeGroup _ _ => true
  | .killGroup _ _ => true
  | .mma _ _ => true
  | .mmaz _ _ => true
  | .accz _ _ => true
  | .accld _ _ => true
  | .accst _ _ => true
  | .accamax _ _ => true
  | .lsz _ _ => true
  | .lsst _ _ => true
  | .lsadd _ _ => true
  | .lsrnd _ _ => true
  | .nanReport _ rep => decide (rep.engine.toNat ≤ 2) && decide (rep.pc.toNat % 8 = 0)
  | .nsRearm _ _ => true
  | .srTestWrite _ _ _ _ => true
  | .vcvt _ _ => true
  | .vadd _ _ => true
  | .vsub _ _ => true
  | .vmul _ _ => true
  | .vfma _ _ => true
  | .vmin _ _ => true
  | .vmax _ _ => true
  | .vcmp _ _ => true
  | .vsel _ _ => true
  | .vand _ _ => true
  | .vor _ _ => true
  | .vxor _ _ => true
  | .vsf _ _ => true
  | .vrsum _ _ => true
  | .vrdot _ _ => true
  | .vrmax _ _ => true
  | .vrmin _ _ => true
  | .vrargmax _ _ => true
  | .vrargmin _ _ => true
  | .vrand _ _ => true
  | .vror _ _ => true
  | .vrxor _ _ => true
  | .vany _ _ => true
  | .vall _ _ => true
  | .vcount _ _ => true
  | .vfirst _ _ => true
  | .vscan _ _ => true
  | .vscanx _ _ => true
  | .vsscan _ _ => true
  | .vsscanx _ _ => true
  | .vmoments _ _ => true
  | .vlnorm _ _ => true
  | .vrmsnorm _ _ => true
  | .vsmax _ _ => true
  | .vlsz _ _ => true
  | .vsumc _ _ => true
  | .vdotc _ _ => true
  | .vlsadd _ _ => true
  | .vlsrnd _ _ => true
  | .vtload _ _ => true
  | .vtloadCopyEnd _ => true
  | .tblDataWrite _ _ _ => true
  | .switch _ _ => true
  | .vlsel _ _ => true
  | .vlupd _ _ => true
  | .vtsel _ _ => true
  | .vtcmp _ _ => true
  | .vmupd _ _ => true
  | .tsRearm _ _ => true
  | .mapWrite _ _ _ _ => true
  | .mapLock _ _ => true
  | .controllerRequest _ r => r.wf
  | .sliverRead r => decide (r.pa.toNat % 32 = 0)
  | .sliverWrite r data _ => decide (r.pa.toNat % 32 = 0) && decide (data.length = 32)
  | .reductionOp r => decide (r.pa.toNat % 2 ^ r.fmt.toNat = 0) && decide (1 ≤ r.fmt.toNat) && decide (r.fmt.toNat ≤ 3) && decide (r.op.toNat ≤ 6)
  | .regulatorRefill => true
  | .patrolScrub _ pa _ => decide (pa.toNat % 64 = 0)
  | .refresh _ _ => true
  | .stackTempRead _ _ => true
  | .zeroGo _ _ => true
  | .zeroizeEnd _ => true
  | .mergeBufferTimeout _ _ => true
  | .rds _ _ => true
  | .rdu _ _ => true
  | .upg _ _ => true
  | .wb _ _ => true
  | .wbc _ _ => true
  | .rdnc _ _ => true
  | .wrf _ _ data => decide (data.length = 128)
  | .wrp _ _ data _ => decide (data.length = 128)
  | .snoop _ _ _ => true
  | .missFill _ _ => true
  | .l1Invalidate _ _ => true
  | .l1EnableWrite _ _ _ => true
  | .l2Invalidate _ _ => true
  | .l2Clean _ _ => true
  | .l2EnableWrite _ _ _ => true
  | .xlInvalidate _ => true
  | .xlClean _ => true
  | .xlEnableWrite _ _ => true
  | .invalidateDone _ => true
  | .disableDone _ => true
  | .tilePairsWrite _ _ _ => true
  | .tileChangeDone _ => true
  | .tileRequest r => r.wf
  | .twinCopyExpiry line => decide (line.toNat % 128 = 0)
  | .cboClean _ pa => decide (pa.toNat % 64 = 0)
  | .cboFlush _ pa => decide (pa.toNat % 64 = 0)
  | .cboInval _ pa => decide (pa.toNat % 64 = 0)
  | .cboZero _ pa => decide (pa.toNat % 64 = 0)
  | .tableWalk _ _ => true
  | .faultArrival _ => true
  | .shootdownGo _ _ => true
  | .shootdownDone => true
  | .seDoorbell _ _ _ => true
  | .descriptorFetch _ => true
  | .copy _ => true
  | .pattern _ => true
  | .reduce _ => true
  | .note _ => true
  | .descriptorComplete _ => true
  | .descriptorDeadline _ _ => true
  | .sePause _ _ => true
  | .seResume _ _ => true
  | .seAbort _ _ => true
  | .seEnableWrite _ _ _ => true
  | .resolveRetry _ _ _ => true
  | .resolveAbort _ _ _ => true
  | .fqConsWrite _ _ _ => true
  | .fqBaseWrite _ _ _ => true
  | .stage _ => true
  | .imageStaged => true
  | .commit _ => true
  | .weaveAbort _ => true
  | .voteReport _ => true
  | .voteDeadline => true
  | .applyDone => true
  | .epochArrival _ => true
  | .ringDoorbell _ _ _ => true
  | .nop _ => true
  | .launch _ => true
  | .blockAdmit _ => true
  | .cmdSignal _ => true
  | .cmdWait _ => true
  | .commandComplete _ => true
  | .resetHd0 _ => true
  | .resetHd1 _ => true
  | .hostSelfReset _ => true
  | .handback _ => true
  | .heartbeat _ _ => true
  | .heartbeatTimeout => true
  | .fallbackDeadline => true
  | .hostLinkTimeout _ => true
  | .deviceRequest _ _ r => r.wf
  | .pcieRetrain _ _ _ => true
  | .twinEnableWrite _ _ => true
  | .twinAuth r => r.slots.all digestOk
  | .modeWrite _ _ peer => decide (peer.digest.length = 4)
  | .twinRetrain _ => true
  | .mark _ => true
  | .takeover _ => true
  | .unfence _ => true
  | .partnerRequest r => r.wf
  | .mirrorRecord r => decide (r.data.length = 64) && decide (r.pa.toNat % 64 = 0)
  | .markRecord _ => true
  | .witnessHeartbeat _ => true
  | .witnessTimeout => true
  | .leaseExpiry => true
  | .takeoverDeadline => true
  | .duplexTriple _ => true
  | .dcTimeout _ => true
  | .dcRearm _ => true
  | .flitTagFail => true
  | .keyUpdateDue => true
  | .keyUpdate => true
  | .spdm => true
  | .logRead => true
  | .commitSvn => true
  | .zeroizeAll => true
  | .spdmMctp _ => true
  | .bypass => true
  | .idcode => true
  | .secChallenge => true
  | .secToken _ => true
  | .nonceExpiry => true
  | .tamperDetection _ => true
  | .vinWarn vin => decide (vin ≤ 10_000)
  | .overvoltage => true
  | .overcurrent => true
  | .overpower => true
  | .saveTrigger => true
  | .saveComplete => true
  | .converterDropout _ => true
  | .powerRearm => true
  | .saveOnly _ => true
  | .listCommit _ => true
  | .coolantReading _ => true
  | .thermalTrip _ => true
  | .on => true
  | .gracefulShutdown => true
  | .forceOff => true
  | .powerCycle => true
  | .firmwareUpdate u => u.wf
  | .standbyEnable _ => true
  | .packagePowerOn facts => facts.wf
  | .resetCd _ site => inCd site
  | .releaseCd _ site => inCd site
  | .restore _ => true
  | .restoreDone => true
  | .resetPkg _ => true
  | .errorDetection _ => true
  | .recSelWrite _ _ => true
  | .rasConsWrite _ _ => true
  | .mirrorAck _ => true
  | .twinLaneLoss good => decide (good ≤ 16)
  | .pcieLinkChange _ _ _ => true
  | .aerErrorMessage _ _ _ => true
  | .standbyRailLoss => true
  | .arraySelfTest _ => true

end Sys2Proof
end

