-- ==== Sys2Proof/Safety.lean ====
section
/-!
DEFINITION. What counts as a safe run of the block, and the canonical form of its memories, in the terms the claims
use.
-/

namespace Sys2Proof.Machine

/-- No command is half done: nothing that had to wait has been left given up. -/
def State.settled (s : State) : Prop := s.hold = false

/-- The memories are in canonical form: DRAM by cell, tile memory by offset (R400, R453). -/
def Memory.wf (s : State) : Bool := Sparse.wf (fun _ => (0 : Byte)) s.dram && Sparse.wf (fun _ => (0 : Byte)) s.tile

/-! ## Commands that complete -/

/-- A command completes: it answers a next state, its sender is answered `ok`, and `P` holds of that state. -/
def Does (c : Instr) (s : State) (P : State → Prop) : Prop := ∃ t, exec c s = .next t ∧ t.resp.status = .ok ∧ P t

/-- A master's doubleword store reaches the register at `a`: the master can send it (R91, R97), the die is in service
(R70), a compute die is not in I4 (R143), and the master passes every gate of the register (R92). -/
def passes (s : State) (m : Master) (a : Nat) : Bool :=
  s.canIssue m && s.up (a / 0x1_0000_0000)
    && (upTo 8).all (fun cd => decide (a / 0x1_0000_0000 ≠ cd + 1) || !s.inI4 cd)
    && (match regRow a with
        | some (r, _) => r.fields.all (fun f => !f.acc.gated (s.isPriv m) (s.isSecure m))
        | none => false)

/-- Registers outside a list read as before. -/
def RegsKept (s t : State) (l : List Nat) : Prop := ∀ a, a ∉ l → t.reg a = s.reg a

/-- The counts of beats and of issued instructions of a core (R213, R309). -/
def issueRegs (c : Nat) : List Nat := [R.nsBeats c, R.cntStall c, R.cntIssue c]

/-- Of the whole state only group `g` and the registers of a list change; the issue is counted. Every other group, and
everything else a core holds, is as before. -/
def OnlyGroup (g : GroupRef) (s t : State) (l : List Nat) : Prop :=
  t = { s with cores := t.cores, regs := t.regs, drawn := t.drawn, resp := t.resp, hold := false }
    ∧ (∀ h, h ≠ g → t.grp h = s.grp h)
    ∧ (∀ c, ({ t.core c with groups := [] } : CoreSt) = { s.core c with groups := [] })
    ∧ RegsKept s t (issueRegs g.core.val ++ l)
    ∧ t.fld (R.cntIssue g.core.val) F.cntIssue_issued = (s.fld (R.cntIssue g.core.val) F.cntIssue_issued + 1) % 2 ^ 64

/-- The registers of a lane that a value written at register `r` covers. -/
def laneHit (r : Nat) (wide : Bool) (q : Nat) : Prop := q = r ∨ (wide = true ∧ q = r + 1)

/-- Lane registers: every lane of `ls` holds `v` at register `r`, every other lane register of the group is as before,
and the group has moved past its instruction with nothing else changed. -/
def LanesGet (x y : Group) (ls : List Nat) (r : Nat) (wide : Bool) (v : Nat → Nat) : Prop :=
  (∀ l ∈ ls, y.laneVal l r wide = v l % 2 ^ (if wide then 64 else 32))
    ∧ (∀ l q, q < 256 → ¬ (l ∈ ls ∧ laneHit r wide q) → y.lane l q = x.lane l q)
    ∧ y = { x with pc := x.pc + 8, lregs := y.lregs }

/-! ## Integer operations of the accelerator cores -/

/-- The instruction of an integer operation. -/
def IntOp.instr (o : IntOp) (g : GroupRef) (scalar : Bool) (f : Fields) : Instr :=
  match o with
  | .mov => .mov g scalar f | .add => .add g scalar f | .sub => .sub g scalar f | .mul => .mul g scalar f
  | .mulh => .mulh g scalar f | .min => .min g scalar f | .max => .max g scalar f | .abs => .abs g scalar f
  | .and => .and g scalar f | .or => .or g scalar f | .xor => .xor g scalar f | .not => .not g scalar f
  | .shl => .shl g scalar f | .shr => .shr g scalar f | .sar => .sar g scalar f | .popc => .popc g scalar f

/-- R745, R161, R162: the fields of a group-class integer operation are not reserved. -/
def IntOp.laneOk (o : IntOp) (x : Group) (f : Fields) (t : Ty) : Bool :=
  o.tyOk t && decide (f.low = 0) && f.cOk && x.tyOk t f.dst.toNat && ((o.unary && f.imm) || x.tyOk t f.a.toNat)
    && (o.unary || (f.bOk && (f.imm || x.tyOk t f.b.toNat)))

/-- R745: the fields of a scalar-class integer operation are not reserved. -/
def IntOp.scalarOk (o : IntOp) (x : Group) (f : Fields) (t : Ty) : Bool :=
  !t.isFloat && decide (f.low = 0) && f.cOk && x.uOk f.dst.toNat && ((o.unary && f.imm) || x.uOk f.a.toNat)
    && (o.unary || (f.bOk && (f.imm || x.uOk f.b.toNat)))

/-- The first and the second source of a lane: a lane register, or the immediate (R162). -/
def IntOp.laneA (o : IntOp) (x : Group) (f : Fields) (t : Ty) (l : Nat) : Nat :=
  if o.unary && f.imm then t.immOf f.imm16 else x.laneVal l f.a.toNat t.wide
def laneB (x : Group) (f : Fields) (t : Ty) (l : Nat) : Nat :=
  if f.imm then t.immOf f.imm16 else x.laneVal l f.b.toNat t.wide

/-- The sources of the scalar class: uniform registers cut to the type, or the immediate. -/
def IntOp.uniA (o : IntOp) (x : Group) (f : Fields) (t : Ty) : Nat :=
  if o.unary && f.imm then t.immOf f.imm16 else (x.uni f.a.toNat).toNat % 2 ^ t.width
def uniB (x : Group) (f : Fields) (t : Ty) : Nat :=
  if f.imm then t.immOf f.imm16 else (x.uni f.b.toNat).toNat % 2 ^ t.width

/-- Uniform registers: register `n` holds a word that `ok` admits when the instruction acts; every other uniform register
is as before, and the group has moved past its instruction with nothing else changed. -/
def UniGets (x y : Group) (acts : Bool) (n : Nat) (ok : Word → Prop) : Prop :=
  (acts = true → ok (y.uni n)) ∧ (∀ k, k ≠ n ∨ acts = false → y.uni k = x.uni k)
    ∧ y = { x with pc := x.pc + 8, uregs := y.uregs }

/-- A value of a type in a uniform register: the whole word, or its low half (the upper half is free, log entry 6). -/
def Ty.inWord (t : Ty) (v : Nat) (w : Word) : Prop := if t.wide then w = Word.of v else w.toNat % 2 ^ 32 = v % 2 ^ 32

/-- Of the whole state only group `g`, the registers of its core's block, the halt of its core and the interrupt source
`src` that its die raises for the core's cluster change: 8 for the sentinel, 48 for an error (R206, R289, R292). -/
def OnlyCore (src : Nat) (g : GroupRef) (s t : State) : Prop :=
  t = { s with cores := t.cores, regs := t.regs, imsic := t.imsic, drawn := t.drawn, resp := t.resp, hold := false }
    ∧ (∀ h, h ≠ g → t.grp h = s.grp h)
    ∧ (∀ c, ({ t.core c with groups := [], halted := (s.core c).halted } : CoreSt) = { s.core c with groups := [] })
    ∧ (∀ a, ¬ (coreBase g.core.val ≤ a ∧ a < coreBase g.core.val + 0x1_0000) →
        a ≠ R.msiCtrl (coreSite g.core.val) (src + coreK g.core.val) → t.reg a = s.reg a)

/-- Only registers of a list change. -/
def OnlyRegs (s t : State) (l : List Nat) : Prop :=
  t = { s with regs := t.regs, resp := t.resp, hold := false } ∧ RegsKept s t l

/-- Only registers of a list and pending identities of interrupt files change. -/
def OnlyRegsIrq (s t : State) (l : List Nat) : Prop :=
  t = { s with regs := t.regs, imsic := t.imsic, resp := t.resp, hold := false } ∧ RegsKept s t l

/-! ## Branches, barriers and locks -/

/-- The group halts with an error code at its instruction, and the error is counted (R206). -/
def Halts (g : GroupRef) (s t : State) (code : BitVec 8) : Prop :=
  t.grp g = { s.grp g with halt := some code, wait := .none } ∧ OnlyCore 48 g s t
    ∧ t.fld (R.cntErr g.core.val) F.cntErr_errors = Nat.min (s.fld (R.cntErr g.core.val) F.cntErr_errors + 1) (2 ^ 32 - 1)

/-- PC + 8 times the sign-extended immediate (R169, R173). -/
def branchTarget (x : Group) (f : Fields) : BitVec 48 := x.pc + 8 * f.c.signExtend 48

/-- A group may take a collective instruction: its active lanes are all that have not ended, and all of them execute
(R174). -/
def Together (x : Group) (f : Fields) : Prop := x.active = x.full ∧ x.execMask f = x.active ∧ x.active ≠ 0

/-- The groups arrived at a barrier when the group in `slot` arrives (R184). -/
def arrivals (b : Block) (slot : Nat) : List Nat := if slot ∈ b.arrived then b.arrived else b.arrived ++ [slot]

/-- The arrival of the group in `slot` completes the phase: every group of the block that has not ended is there
(R184, R185). -/
def phaseDone (b : Block) (slot : Nat) : Bool := b.members.all fun m => (arrivals b slot).contains m

/-- The barrier of a group is at rest for its arrival: no timeout is overdue, and the group does not wait there yet. -/
def barrierCalm (s : State) (g : GroupRef) : Prop :=
  ∀ w ∈ (s.block g.core.val (s.grp g).unit).waiting,
    (∀ d, w.deadline = some d → s.tick ≤ d) ∧ w.slot < 256 ∧ w.slot ≠ g.slot.val

/-- Synchronization changes cores, objects, and registers of the core, of the objects' die and of its interrupts. -/
def OnlySync (s t : State) (l : List Nat) : Prop :=
  t = { s with cores := t.cores, sync := t.sync, regs := t.regs, imsic := t.imsic, drawn := t.drawn, resp := t.resp,
               hold := false }
    ∧ RegsKept s t l

/-- The registers of the synchronization unit of a die that its operations change, with its interrupt (R215, R217). -/
def syncRegs (cd : Nat) : List Nat :=
  [R.syncCmd cd, R.syncCmdStat cd, R.syncWaitq cd, R.syncEvent cd, R.syncCntOps cd, R.syncCntTimeout cd, R.syncCntHog cd,
   R.syncCntXpart cd, R.msiCtrl (cd + 1) 32]

/-- An object can be reached: its die is in service and not in I4, its unit is enabled, and nobody is queued (R188,
R189, R204). -/
def objReady (s : State) (id : Nat) (typ : ObjType) : Bool :=
  decide (id < 2 ^ 14) && s.cdUp (id / 2048) && !s.inI4 (id / 2048) && s.flag (R.syncCtrl (id / 2048)) F.syncCtrl_enable
    && decide ((s.obj id).typ = typ) && decide ((s.obj id).queue = [])

/-- The object of an id is reached by a group of its partition. -/
def groupObj (s : State) (g : GroupRef) (id : Nat) (typ : ObjType) : Bool :=
  objReady s id typ && decide (s.corePart g.core.val = (s.obj id).part.toNat)

/-! ## Float operations of the accelerator cores -/

/-- The instruction of a float operation. -/
def FpOp.instr (o : FpOp) (g : GroupRef) (f : Fields) : Instr :=
  match o with
  | .fadd => .fadd g f | .fsub => .fsub g f | .fmul => .fmul g f | .ffma => .ffma g f | .fmin => .fmin g f
  | .fmax => .fmax g f

/-- R283, R161, R162: the fields of a float operation are not reserved. -/
def FpOp.laneOk (o : FpOp) (x : Group) (f : Fields) (t : Ty) : Bool :=
  t.isFloat && decide (f.low < 4) && f.cOk && x.tyOk t f.dst.toNat && x.tyOk t f.a.toNat
    && (if o = .ffma then x.tyOk t f.b.toNat && (f.imm || x.tyOk t (f.c.toNat % 256))
        else f.bOk && (f.imm || x.tyOk t f.b.toNat))

/-- A float source of a lane. -/
def fpSrc (x : Group) (f : Fields) (t : Ty) (l r : Nat) (imm : Bool) : Val :=
  t.fmt.decode (if imm then t.immOf f.imm16 else x.laneVal l r t.wide)

/-- The rounded result of a lane, with its flags (R283). -/
def FpOp.result (o : FpOp) (x : Group) (f : Fields) (t : Ty) (l : Nat) : Nat × NFlags :=
  fpResult t.fmt f.low (o.eval f.low (fpSrc x f t l f.a.toNat false)
    (fpSrc x f t l f.b.toNat (f.imm && !decide (o = .ffma))) (fpSrc x f t l (f.c.toNat % 256) f.imm))

/-- A sticky flag of LANE_FLAGS: set when it was set or when a lane raises it (R284). -/
def Sticky (s t : State) (c : Nat) (x : Fld) (raised : Bool) : Prop :=
  t.flag (R.laneFlags c) x = (s.flag (R.laneFlags c) x || raised)

/-- A sticky flag of a register: set when it was set or when it is raised. -/
def Sticky' (s t : State) (a : Nat) (x : Fld) (raised : Bool) : Prop := t.flag a x = (s.flag a x || raised)

/-- R278, R279: the fields of a conversion are not reserved. -/
def cvtOk (x : Group) (f : Fields) (w : CvtWord) : Bool :=
  f.imm && decide (f.typ < 2) && decide (f.low ≤ 4)
    && x.lOk f.a.toNat (regSize (decide (w.fin.width = 64))) && x.lOk f.dst.toNat (regSize (decide (w.fout.width = 64)))
    && (if w.scaleReg || decide (f.low = 4) then x.lOk f.b.toNat else decide (f.b = 0))

/-- The comparison of QCMP on one lane. -/
def qcmpHit (x : Group) (f : Fields) (t : Ty) (l : Nat) : Bool :=
  let v (n : Nat) : Val := if t.isFloat then t.fmt.decode n else Val.ofInt (if t.signed then signedOf t.width n else n)
  Val.cmp f.low (v (x.laneVal l f.a.toNat t.wide)) (v (laneB x f t l))

/-! ## Memory instructions -/

/-- An access of a group at a virtual address is translated by entry `t` of its core's TLB: the context is enabled and
kept by the cluster's walker, it belongs to the cluster's partition, and the entry admits the access and names a page
(R502 to R514). -/
def coreMaps (s : State) (g : GroupRef) (t : TlbEnt) (acc : XAcc) (va : Nat) : Prop :=
  s.flag R.ctxBase F.ctxBase_enable = true
    ∧ (∃ e, (s.walker (coreCl g.core.val)).ctxs.find? (fun e => decide (e.ctx = (s.grp g).ctx.toNat)) = some e
        ∧ e.part = s.corePart g.core.val)
    ∧ (s.core g.core.val).tlb.find? (fun t => t.covers (s.grp g).ctx.toNat (va % 2 ^ 48)) = some t
    ∧ t.denies acc false = none ∧ t.pa % 2 ^ 16 = 0

/-- The owning cluster serves a core's request to a tile address (R453, R455, R457, R583). -/
def tileServes (s : State) (c pa : Nat) : Prop :=
  regionOf pa = .tile ∧ ∃ cl o, tileOwner pa = some (cl, o) ∧ s.cdUp (cl / 8) = true ∧ s.inI4 (cl / 8) = false
    ∧ s.inI3 cl = false ∧ s.flag (R.l2Stat cl) F.l2Stat_tileChanging = false ∧ o < s.tileSize cl
    ∧ s.fld (R.l2Stat cl) F.l2Stat_part = s.corePart c
    ∧ s.fld (R.wvClEpoch cl) F.wvClEpoch_epoch = s.fld (R.wvClEpoch (coreCl c)) F.wvClEpoch_epoch

/-- A byte of tile memory, by its physical address (R453). -/
def State.tileByte (s : State) (pa : Nat) : Byte := Sparse.get (fun _ => 0) s.tile (pa - tileBase)

/-- The 64 B blocks of a line of tile memory are free of poison. -/
def tileSound (s : State) (pa : Nat) : Prop :=
  ∀ q, q < 2 → Sparse.get (fun _ => false) s.tileBad ((pa - tileBase) / 128 * 2 + q) = false

/-- The physical address of a lane's access under an entry of the TLB. -/
def lanePa (x : Group) (f : Fields) (t : TlbEnt) (l : Nat) : Nat := t.addr (x.memVa f l % 2 ^ 48)

/-- Byte `i` of a number. -/
def byteNo (v i : Nat) : Byte := BitVec.ofNat 8 (v / 256 ^ i)

/-- The value a lane stores. -/
def laneData (x : Group) (f : Fields) (l : Nat) : Nat := x.laneRegs l f.dst.toNat (sizeRegs f.low)

/-- Memory instructions change their core, counts, and what is named besides: all other groups are as before. -/
def OnlyLaneMem (g : GroupRef) (s t : State) : Prop :=
  t = { s with cores := t.cores, regs := t.regs, drawn := t.drawn, tile := t.tile, tileBad := t.tileBad, resp := t.resp,
               hold := false }
    ∧ (∀ h, h ≠ g → t.grp h = s.grp h)
    ∧ RegsKept s t (R.cluCntL1 (coreCl g.core.val) (g.core.val % 16) :: issueRegs g.core.val)

/-- A reduction finds its line in the reduction buffer of a home that serves it, and no cache holds the line (R420 to
R424). -/
def redReady (s : State) (tag : ReqTag) (pa : Nat) (l : Line) : Prop :=
  regionOf pa = .dram ∧ s.miss = [] ∧ s.cdUp (s.place pa).cd = true ∧ s.inI4 (s.place pa).cd = false
    ∧ s.refusesWrite tag pa = none ∧ s.dirEnt (pa / 128) = {} ∧ s.redLine (pa / 128) = some l ∧ l.poison = 0

/-! ## The engines of a core -/

/-- Nothing stands in the way of an engine instruction: the group takes it together, no word of the operand cache or of the
accumulator memory is bad, nothing waits for a route link, and no route link of the cluster is valid (R174, R257, R567). -/
def engineReady (s : State) (g : GroupRef) (f : Fields) : Prop :=
  s.ready g = true ∧ Together (s.grp g) f ∧ (s.core g.core.val).opcBad = [] ∧ (s.core g.core.val).accBad = []
    ∧ (s.core g.core.val).wrote = []
    ∧ ∀ j, j < 128 → F.route_valid.get (s.reg (R.route (coreCl g.core.val) j)) = 0

/-- A byte of the operand cache and of the accumulator memory. -/
def CoreSt.opcByte (k : CoreSt) (a : Nat) : Byte := Sparse.get (fun _ => 0) k.opc a
def CoreSt.accByte (k : CoreSt) (a : Nat) : Byte := Sparse.get (fun _ => 0) k.acc a

/-- Bytes of the operand cache, or of the accumulator memory, outside a range are as before. -/
def OpcKept (k l : CoreSt) (a n : Nat) : Prop := ∀ b, b < a ∨ a + n ≤ b → l.opcByte b = k.opcByte b
def AccKept (k l : CoreSt) (a n : Nat) : Prop := ∀ b, b < a ∨ a + n ≤ b → l.accByte b = k.accByte b

/-- An engine instruction changes its group, its core's operand cache, accumulator memory, tables, halt and registers, and
the sentinel's interrupt; other cores, other groups and memory are as before (R227, R292). -/
def OnlyEngine (g : GroupRef) (s t : State) : Prop :=
  t = { s with cores := t.cores, regs := t.regs, imsic := t.imsic, drawn := t.drawn, resp := t.resp, hold := false }
    ∧ (∀ h, h ≠ g → t.grp h = s.grp h) ∧ (∀ c, c ≠ g.core.val → t.core c = s.core c)
    ∧ (t.core g.core.val).blocks = (s.core g.core.val).blocks ∧ (t.core g.core.val).mbuf = (s.core g.core.val).mbuf
    ∧ (t.core g.core.val).l1 = (s.core g.core.val).l1 ∧ (t.core g.core.val).tlb = (s.core g.core.val).tlb
    ∧ (∀ a, ¬ (coreBase g.core.val ≤ a ∧ a < coreBase g.core.val + 0x1_0000) →
        a ≠ R.msiCtrl (coreSite g.core.val) (8 + coreK g.core.val) → t.reg a = s.reg a)

/-- R227 to R231: the operand registers of an MMA or MMAZ are not reserved. -/
def mmaOk (x : Group) (f : Fields) : Bool :=
  x.uOk f.dst.toNat && x.uOk f.a.toNat && x.uOk f.b.toNat && fmtWordOk x f && decide (f.low ≤ 4)
    && (decide (f.typ = 0) || decide (f.typ = 4) || decide (f.typ = 5))

/-- R241, R245: the operand registers of ACCLD and ACCST are not reserved. -/
def accOk (x : Group) (f : Fields) : Bool :=
  fmtWordOk x f && x.uOk f.dst.toNat && x.uOk f.a.toNat && x.uOk f.b.toNat

/-- Element (i, j) of the product of an MMA, computed alone (R232 to R236, R249). -/
def mmaAlone (s : State) (c : Nat) (o : MmaOps) (len i j : Nat) : MxOut :=
  if o.ty = .long then mmaCertElem o (s.core c).opc { core := s.core c } i j
  else mmaElem s c o len (s.core c).opc { core := s.core c } i j

/-- A signed byte of the operand cache. -/
def CoreSt.opcI8 (k : CoreSt) (a : Nat) : Int := (k.opcByte a).toInt

/-- Cut an integer to the range of 32 bits (R236). -/
def sat32 (v : Int) : Int := max (-(2 ^ 31)) (min v (2 ^ 31 - 1))

/-- A long-sum record in a byte array (R248). -/
def recAt (m : Sparse Byte) (a i : Nat) : LongSum := LongSum.ofImage (bytesLE m (a + i * recSize) recSize)

/-! ## The vector engine -/

/-- The instruction of an elementwise operation. -/
def VOp.instr (o : VOp) (g : GroupRef) (f : Fields) : Instr :=
  match o with
  | .fp .fadd => .vadd g f | .fp .fsub => .vsub g f | .fp .fmul => .vmul g f | .fp .ffma => .vfma g f
  | .fp .fmin => .vmin g f | .fp .fmax => .vmax g f
  | .and => .vand g f | .or => .vor g f | .xor => .vxor g f

/-- A byte belongs to a row of a vector operand. -/
def VDesc.holds (d : VDesc) (a : Nat) : Prop := ∃ r, r < d.rows ∧ d.off + r * d.pitch ≤ a ∧ a < d.off + r * d.pitch + d.rowBytes

/-- A vector destination: the elements of `hit` hold their codes, the other elements keep theirs, and no byte outside the
rows of the destination and none of the accumulator memory changes. -/
def DestGets (k l : CoreSt) (d : VDesc) (hit : Nat → Bool) (v : Nat → Nat) : Prop :=
  (∀ e, e < d.n → hit e = true → d.code l.opc e = v e % 2 ^ d.fmt.width)
    ∧ (∀ e, e < d.n → hit e = false → d.code l.opc e = d.code k.opc e)
    ∧ (∀ a, ¬ d.holds a → l.opcByte a = k.opcByte a) ∧ l.acc = k.acc

/-- An instruction of the vector engine completes: it is counted (R321), its group moves on, and only what an engine
instruction may change changes. -/
def VeDone (g : GroupRef) (s t : State) : Prop :=
  t.fld (R.veCntInstr g.core.val) F.veCntInstr_instr = (s.fld (R.veCntInstr g.core.val) F.veCntInstr_instr + 1) % 2 ^ 64
    ∧ OnlyEngine g s t

/-- As `VeDone`, for an instruction that writes no uniform register. -/
def VePass (g : GroupRef) (s t : State) : Prop :=
  VeDone g s t ∧ t.grp g = { s.grp g with pc := (s.grp g).pc + 8 }

/-- As `VeDone`, for an instruction that only writes uniform register `n`. -/
def VeWord (g : GroupRef) (s t : State) (n : Nat) (ok : Word → Prop) : Prop :=
  VeDone g s t ∧ UniGets (s.grp g) (t.grp g) true n ok ∧ (t.core g.core.val).opc = (s.core g.core.val).opc
    ∧ (t.core g.core.val).acc = (s.core g.core.val).acc

/-- The fields of a vector instruction are not reserved, and nothing stands in its way. -/
def vReady (s : State) (g : GroupRef) (f : Fields) (u : VUse) : Prop := engineReady s g f ∧ vFieldsOk (s.grp g) f u = true

/-- The second source of an instruction that admits BSCALAR: under BSCALAR the first source stands in for its shape. -/
def secondDesc (x : Group) (f : Fields) (a : VDesc) : Option VDesc := if f.m3 then some a else x.desc f.b.toNat

/-- Element `e` of the second source: an element, or the scalar of U[SRCB] (R319). -/
def secondVal (x : Group) (f : Fields) (k : CoreSt) (ct : Fmt) (b : VDesc) (e : Nat) : Val :=
  if f.m3 then scalarOf ct (x.uni f.b.toNat) else b.val k.opc e

/-- A row that R357 sends to NaN holds a NaN or an infinity. -/
def VDesc.badRow (d : VDesc) (k : CoreSt) (r : Nat) : Prop :=
  ∃ i, i < d.len ∧ ((d.val k.opc (r * d.len + i)).isNan = true ∨ (d.val k.opc (r * d.len + i)).isInf = true)

/-- R339, R340: the exact running sum up to element `e` of an integer scan: it starts at the carry, and again at every
segment start. -/
def scanSum (x : Nat → Int) (start : Nat → Bool) (carry : Int) : Nat → Int
  | 0 => if start 0 then x 0 else carry + x 0
  | e + 1 => if start (e + 1) then x (e + 1) else scanSum x start carry e + x (e + 1)

/-- R340: the value of element `e` of an exclusive scan. -/
def scanBefore (x : Nat → Int) (start : Nat → Bool) (carry : Int) (e : Nat) : Int :=
  if start e then 0 else match e with | 0 => carry | n + 1 => scanSum x start carry n

/-- An integer saturated to the range of a two's complement width (R336, R339). -/
def cutTo (w : Nat) (v : Int) : Int := max (-(2 ^ (w - 1) : Nat) : Int) (min v ((2 ^ (w - 1) : Nat) - 1))

/-- The image of slot `i` of a VTLOAD (R346, R352). -/
def imageWord (k : CoreSt) (a i w : Nat) : Word := Word.of (bytesLE k.opc (a + i * 4160 + w * 8) 8)

/-! ## Dies, links and the rest of the package -/

/-- Only dies, links, registers and interrupts change. -/
def OnlyLinks (s t : State) : Prop :=
  t = { s with dies := t.dies, links := t.links, regs := t.regs, imsic := t.imsic, ras := t.ras, told := t.told,
               resp := t.resp, hold := false }

/-- STATE of a link as its registers show it: at both ends of an edge link (R57, R63). -/
def linkShows (t : State) (l v : Nat) : Prop :=
  if l < 8 then ∀ b, t.fld (R.edgeStat (edgeAt l b).1 (edgeAt l b).2) F.edgeStat_state = v
  else t.fld (R.olStat (l - 8)) F.olStat_state = v

/-- No die leaves service with a link: it is an edge link, or its far die is not in service. -/
def linkFree (s : State) (l : Nat) : Prop := 8 ≤ l → s.up (linkSite l true) = false

/-- The answer of a die that the spindle admits on its port (R19, R20, R52, R54). -/
def goodAnswer (s : State) (port : Nat) : Prop :=
  let d := s.die (port + 1)
  d.accepted = true ∧ d.facts.siteId = port + 1 ∧ steppingOk (siteKind (port + 1)) d.facts.stepping = true
    ∧ s.fld R.capsPkg F.capsPkg_caps &&& d.facts.caps.toNat = s.fld R.capsPkg F.capsPkg_caps

/-! ## Register accesses -/

/-- A register that only holds what is written: a store does no more than change it. -/
def holdsWrites (a : Nat) : Prop := ∀ (s : State) (m : Master) (w : Word), s.regStore m a w 0 = s.setReg a w

/-- A register of the catalogue at a plain address (R79), reached by an access of a master that can send it: its die is in
service, a compute die is not in I4. -/
def reaches (s : State) (m : Master) (a : Nat) (row : RegRow) : Prop :=
  regCopy a = 0 ∧ a % 8 = 0 ∧ regRow a = some (row, false) ∧ filePage (a - a % 0x1000) = none ∧ s.canIssue m = true
    ∧ s.up (a / 0x1_0000_0000) = true ∧ ∀ cd, cd < 8 → a / 0x1_0000_0000 = cd + 1 → s.inI4 cd = false

/-! ## Time and idle states -/

/-- The effect of a command finds nothing that it would have to wait for, so that it takes place at once. -/
def clear (s : State) (effect : State → State) : Prop :=
  (effect s.fresh).hold = false ∧ (effect s.fresh).resp.status ≠ .held

/-- Residency counts of a die (R153). -/
def idleRegs (cd : Nat) : List Nat := [R.idleRes cd 0, R.idleRes cd 1, R.idleRes cd 2, R.idleRes cd 3, R.idleRes cd 4]

/-- Of the whole state only how units of a die stand in the idle states changes. -/
def OnlyIdle (s t : State) (l : List Nat) : Prop :=
  t = { s with sleep := t.sleep, waking := t.waking, idleSince := t.idleSince, regs := t.regs, resp := t.resp, hold := false }
    ∧ RegsKept s t l

/-- R124, R125: the class that a hop grants: P0 before P1 before P2 before P3; a P3 request that has watched P3_GUARD grants
counts as P2; P1 and P2 take turns when P1_ALT is 1. -/
def grantsBefore (k : HopSt) (guard : Nat) (alt : Bool) (ws : List HopRequest) (r : HopRequest) : Prop :=
  ∀ x ∈ ws, k.rank guard r ≤ k.rank guard x
    ∨ (alt = true ∧ k.lastP1 = true ∧ k.rank guard x = 1 ∧ k.rank guard r = 2)

/-! ## Memory controllers -/

/-- A request of a tag finds its codeword served at once: the home die is in service and awake, the request is not refused,
the regulator that pays holds the tokens or is off, no miss register, reduction buffer or mirror stands in the way (R402 to
R412, R424, R631). -/
def memOpen (s : State) (tag : ReqTag) (pa cost : Nat) (write : Bool) : Prop :=
  let p := s.place pa
  s.cdUp p.cd = true ∧ s.inI4 p.cd = false
    ∧ (if write then s.refusesWrite tag pa else s.refuses tag pa) = none
    ∧ (∀ q, s.payer tag pa = some q → s.flag (R.mcReg p.cd p.ctrl q) F.mcReg_enable = true →
        cost ≤ s.fld (R.mcRegStat p.cd p.ctrl q) F.mcRegStat_tokens)
    ∧ s.miss = [] ∧ s.redLine (pa / 128) = none ∧ (write = true → s.mirroring false = false)

/-- The registers in which an admitted request is accounted (R410, R441). -/
def memRegs (s : State) (tag : ReqTag) (pa : Nat) : List Nat :=
  let p := s.place pa
  match s.payer tag pa with
  | some q => [R.mcRegStat p.cd p.ctrl q, R.mcCntCw p.cd p.ctrl q]
  | none => []

/-- A byte of DRAM by its physical cell. -/
def State.dramByte (s : State) (cell : Nat) : Byte := Sparse.get (fun _ => 0) s.dram cell

/-- The codewords of DRAM outside a range of cells are as before, poison included. -/
def CellsKept (s t : State) (lo n : Nat) : Prop :=
  (∀ c, c < lo ∨ lo + n ≤ c → t.dramByte c = s.dramByte c)
    ∧ (∀ w, w * 64 < lo ∨ lo + n ≤ w * 64 →
        Sparse.get (fun _ => false) t.bad w = Sparse.get (fun _ => false) s.bad w
          ∧ Sparse.get (fun _ => ({} : CwTag)) t.tags w = Sparse.get (fun _ => {}) s.tags w)

/-- Of the whole state only codewords of DRAM within a range of cells, and registers of a list, change. -/
def OnlyCells (s t : State) (lo n : Nat) (l : List Nat) : Prop :=
  t = { s with dram := t.dram, tags := t.tags, bad := t.bad, regs := t.regs, resp := t.resp, hold := false }
    ∧ CellsKept s t lo n ∧ RegsKept s t l

/-- The registers that a detection of the die at a site moves (R737, R739). -/
def recRegs (site : Nat) : List Nat :=
  [R.rasProd, R.rasCnt, R.msiCtrl site 1, R.msiCtrl site 2, R.msiCtrl 0 1, R.msiCtrl 0 2]

/-- Error records of a die, what the controllers know of corrected rows, and registers of a list change. -/
def OnlyRecords (s t : State) (site : Nat) (l : List Nat) : Prop :=
  t = { s with ras := t.ras, imsic := t.imsic, regs := t.regs, rowCe := t.rowCe, marked := t.marked, resp := t.resp,
               hold := false }
    ∧ RegsKept s t (recRegs site ++ l)

/-! ## The directory protocol -/

/-- The agent that a holder is at the home of a line (R467). -/
def agentAt (s : State) (h line : Nat) : Nat := if h = xlIx then 27 else (agentOf (s.home line) h).getD 0

/-- A holder's requests reach the home of a line as its agent, and find no fill, no full directory set and no regulator in
the way (R460, R461, R467, R474). -/
def cohReady (s : State) (h line : Nat) : Prop :=
  s.up (holderSite h) = true ∧ s.cacheOn h = true
    ∧ (h = xlIx ∨ s.path (holderSite h) (s.home line) = .direct ∧ (agentOf (s.home line) h).isSome = true)
    ∧ memOpen s (s.holderTag h) (linePa line) 2 false
    ∧ (s.dir.filter (fun e => decide (e.1 % dirSets = line % dirSets) && decide (s.home e.1 = s.home line))).length < 16

/-- Both codewords of a line are free of poison. -/
def lineSound (s : State) (line : Nat) : Prop := s.cwBad (linePa line) = false ∧ s.cwBad (linePa line + 64) = false

/-- What memory holds of a line. -/
def State.memLine (s : State) (line : Nat) : Line :=
  ⟨BitVec.ofNat 1024 (s.cwData (linePa line) + s.cwData (linePa line + 64) * 2 ^ 512), 0⟩

/-- A line can be written back: its home is in service and awake, the regulator of its owner has room, no mirror and no
reduction buffer stands in the way, and its key has been drawn (R407, R410, R424, R434, R633). -/
def wbOpen (s : State) (line : Nat) : Prop :=
  let p := s.place (linePa line)
  s.cdUp p.cd = true ∧ s.inI4 p.cd = false ∧ s.redLine line = none ∧ s.miss = []
    ∧ (∀ r, rangeAt s.ranges (linePa line) = some r → s.flag (R.mcReg p.cd p.ctrl (r.owner % 8)) F.mcReg_enable = true →
        2 ≤ s.fld (R.mcRegStat p.cd p.ctrl (r.owner % 8)) F.mcRegStat_tokens)
    ∧ s.mirroring true = false ∧ s.mirroring false = false ∧ s.key (keyIndex s.ranges (linePa line)) ≠ 0

/-- Memory holds a line's data, and no poison. -/
def memHolds (t : State) (line : Nat) (v : BitVec 1024) : Prop :=
  t.memLine line = ⟨v, 0⟩ ∧ lineSound t line

/-- The cache lines of a holder, or the directory entries, other than that of one line are as before. -/
def LinesKept (s t : State) (h line : Nat) : Prop :=
  ∀ k l, l < 2 ^ 34 → ¬ (k = h ∧ l = line) → t.cline k l = s.cline k l
def DirKept (s t : State) (line : Nat) : Prop := ∀ l, l ≠ line → t.dirEnt l = s.dirEnt l

/-- A way of a cache that is open to a tag is free in the set of a line. -/
def wayFree (s : State) (h line : Nat) (tag : ReqTag) : Prop :=
  ∃ w ∈ s.waysOf h tag, ∀ e ∈ s.inSet h line, e.2.way ≠ w

/-- The registers that the protocol moves for a line at a holder: counts of its home, of the caches and of the regulators
(R410, R441, R497 to R501). -/
def cohRegs (s : State) (h line : Nat) : List Nat :=
  let p := s.place (linePa line)
  [R.homeCntReq p.cd, R.homeCntInv p.cd, R.homeCntFwd p.cd, R.xlCntMiss, R.xlCntHit, R.xlCntBackinv, R.cohCntSnoop]
    ++ (if h < 64 then [R.cluCntL2Miss h, R.cluCntL2Hit h, R.cluCntL2Wb h, R.cluCntSnoop h] else [])
    ++ (List.range 8).flatMap (fun q => [R.mcRegStat p.cd p.ctrl q, R.mcCntCw p.cd p.ctrl q])

/-- Of the whole state only directory, far-cache records, miss registers, cache lines, memory of one line and the counts of
`cohRegs` change. -/
def OnlyCoh (s t : State) (h line : Nat) : Prop :=
  t = { s with lines := t.lines, subs := t.subs, dir := t.dir, miss := t.miss, stamp := t.stamp, dram := t.dram,
               tags := t.tags, bad := t.bad, regs := t.regs, resp := t.resp, hold := false }
    ∧ CellsKept s t ((s.place (linePa line)).cell) 128 ∧ DirKept s t line ∧ RegsKept s t (cohRegs s h line)

/-- As `OnlyCoh`, with all of memory as before. -/
def CohReads (s t : State) (h line : Nat) : Prop :=
  OnlyCoh s t h line ∧ t.dram = s.dram ∧ t.tags = s.tags ∧ t.bad = s.bad

/-- An uncached request of a site reaches the home of a line, directly or past a far cache that does not hold it (R461,
R464). -/
def uncReady (s : State) (r : Requester) (line : Nat) (cost : Nat) (write : Bool) : Prop :=
  s.up r.site = true ∧ memOpen s (s.requesterTag r line) (linePa line) cost write
    ∧ (s.path r.site (s.home line) = .direct
        ∨ (s.path r.site (s.home line) = .far ∧ (s.sub line).owner = none ∧ s.cacheOn xlIx = false))
    ∧ (s.dirEnt line).sharers = 0 ∧ ((s.dirEnt line).st = .u ∨ (s.dirEnt line).st = .s)

/-! ## Commands of the caches -/

/-- The dirty lines of a cache. -/
def State.dirtyOf (s : State) (h : Nat) : List (Nat × CacheLine) := (s.heldBy h).filter (fun e => e.2.st.dirty)

/-- A cache has nothing to clean, or one line, of which it is the owner, that its home lets it write back at once (R462,
R471, R472). -/
def cleanReady (s : State) (h : Nat) : Prop :=
  s.dirtyOf h = [] ∨ ∃ ln, s.dirtyOf h = [(ln, s.cline h ln)] ∧ wbOpen s ln ∧ (s.cline h ln).val.poison = 0
    ∧ (s.dirEnt ln).st = .m ∧ (s.dirEnt ln).owner = agentAt s h ln ∧ (s.dirEnt ln).sharers = 0
    ∧ (if h = xlIx then (s.sub ln).mask = 0 ∧ (s.sub ln).owner = none
       else s.path (holderSite h) (s.home ln) = .direct ∧ (agentOf (s.home ln) h).isSome = true)
    ∧ (s.dir.filter (fun e => decide (e.1 % dirSets = ln % dirSets) && decide (s.home e.1 = s.home ln))).length < 16

/-- R471, R481, R495: every dirty line of a cache is in memory, and the cache keeps it clean; its other lines, and registers
other than the counts and those of a list, are as before. -/
def Cleaned (s t : State) (h : Nat) (l : List Nat) : Prop :=
  (∀ e ∈ s.dirtyOf h, memHolds t e.1 e.2.val.data ∧ (t.cline h e.1).st = .s ∧ (t.cline h e.1).val = e.2.val)
    ∧ (∀ k l, l < 2 ^ 34 → k ≠ h ∨ (s.cline k l).st.dirty = false → t.cline k l = s.cline k l)
    ∧ (∀ a, a ∉ l → (∀ e ∈ s.dirtyOf h, a ∉ cohRegs s h e.1) → t.reg a = s.reg a)
    ∧ t = { s with lines := t.lines, subs := t.subs, dir := t.dir, stamp := t.stamp, dram := t.dram, tags := t.tags,
                   bad := t.bad, regs := t.regs, resp := t.resp, hold := false }

/-- A store to the control register of an L2 leaves its ENABLE alone: the cache stands as ENABLE says (R481). -/
def l2Steady (s : State) (cl : Nat) : Prop := s.flag (R.l2Ctrl cl) F.l2Ctrl_enable = true ∨ s.flag (R.l2Stat cl) F.l2Stat_enabled = false

/-- The offset of a cluster's tile memory. -/
def tileLow (cl : Nat) : Nat := (cl / 8 + 1) * 2 ^ 32 + cl % 8 * 2 ^ 24

/-! ## Translation and faults -/

/-- A doubleword of a table in DRAM reads as `x` for a walker of a site, at once: the line's home serves tag HOST, its
regulator is off, no fill, buffer, owner or poison stands in the way (R505). -/
def tableHolds (s : State) (site pa : Nat) (x : Word) : Prop :=
  let line := pa / 128
  pa < 2 ^ 40 ∧ pa % 8 = 0 ∧ memOpen s .host (linePa line) 2 false
    ∧ (∀ q, s.payer .host (linePa line) = some q →
        s.flag (R.mcReg (s.place (linePa line)).cd (s.place (linePa line)).ctrl q) F.mcReg_enable = false)
    ∧ (s.path site (s.home line) = .direct
        ∨ (s.path site (s.home line) = .far ∧ (s.sub line).owner = none ∧ s.cacheOn xlIx = false))
    ∧ ((s.dirEnt line).st = .u ∨ (s.dirEnt line).st = .s) ∧ lineSound s line
    ∧ x = Word.of (bits (s.memLine line).data.toNat (8 * (pa % 128)) 64)

/-- R506 to R509: from a table of a level the walk reaches leaf word `e` at level `k`, over good pointers alone. -/
def walksTo (s : State) (site va : Nat) : Nat → Nat → Nat → Nat → Nat → Prop
  | 0, _, _, _, _ => False
  | n + 1, level, table, e, k => ∃ x, tableHolds s site (table + 8 * levelIdx va level) x ∧ x.toNat % 2 = 1
      ∧ ((bits x.toNat 1 1 = 1 ∧ badPointer x.toNat level = false
            ∧ walksTo s site va n (level + 1) (bits x.toNat 14 30 * 2 ^ 14) e k)
          ∨ (bits x.toNat 1 1 = 0 ∧ badLeaf x.toNat level (levelIdx va level) = false ∧ e = x.toNat ∧ k = level))

/-- Reads of tables move the counts of homes, regulators and the far cache (R410, R441, R497, R501) and no other register
outside a list. -/
def TableRegs (s t : State) (l : List Nat) : Prop :=
  ∀ a, a ∉ l → a ≠ R.xlCntMiss → (∀ n, n < 8 → a ≠ R.homeCntReq n)
    → (∀ cd c q, cd < 8 → c < 2 → q < 8 → a ≠ R.mcCntCw cd c q) → t.reg a = s.reg a

/-- R507: the bytes of the page a leaf maps. -/
def leafBytes (e : Nat) : Nat := if bits e 7 2 = 0 then 2 ^ 16 else if bits e 7 2 = 1 then 2 ^ 21 else 2 ^ 30

/-- R103: source `i` of a die in service has been raised: its identity is pending in the file it names, or the source
itself is pending. -/
def raised (t : State) (site i : Nat) : Prop :=
  t.up site = true →
    t.flag (R.msiCtrl site i) F.msiCtrl_pend = true
      ∨ (t.file (t.fld (R.msiAddr site i) F.msiAddr_file * 0x1000 - regSpace)).getLsbD
          (t.fld (R.msiCtrl site i) F.msiCtrl_ident) = true

/-- The registers of a partition's fault queue, with its interrupt sources (R546, R547, R555). -/
def fqRegs (p : Nat) : List Nat := [R.fqProd p, R.fqStat p, R.cntFq p, R.msiCtrl 0 (8 + p), R.msiCtrl 0 (16 + p)]

/-- `n` bytes of DRAM can be written by the spindle at once (R546). -/
def hubOpen (s : State) (pa n : Nat) : Prop :=
  regionOf pa = .dram ∧ pa % 128 + n ≤ 128 ∧ s.refuses .host pa = none
    ∧ uncReady s .onyx (pa / 128) (wrCost (spanOf pa n)) true ∧ lineSound s (pa / 128)
    ∧ s.key (keyIndex s.ranges (linePa (pa / 128))) ≠ 0

/-- Memory holds bytes at an address, and the rest of their line as before. -/
def bytesPut (s t : State) (pa : Nat) (bs : List Byte) : Prop :=
  ∀ b, b < 128 → byteNo (t.memLine (pa / 128)).data.toNat b
    = if pa % 128 ≤ b ∧ b < pa % 128 + bs.length then bs.getD (b - pa % 128) 0 else byteNo (s.memLine (pa / 128)).data.toNat b

/-- A shootdown hits a translation: its context and a page overlap (R519). -/
def shootHits (ctx lo hi : Nat) (t : TlbEnt) : Bool := decide (t.ctx = ctx) && decide (t.page < hi) && decide (lo < t.page + t.pages)

/-! ## Shuttle engines -/

/-- The interrupt source of an engine (R557), and its register. -/
def seSrc : SeRef → Nat
  | .cd _ e => 16 + e.val
  | .hub e => 24 + e.val
def seMsi (e : SeRef) : Nat := R.msiCtrl e.site (seSrc e)

/-- An uncached read of a line by a site is answered at once with what memory holds (R461, R464, R472). -/
def lineReads (s : State) (site : Nat) (tag : ReqTag) (line : Nat) : Prop :=
  memOpen s tag (linePa line) 2 false
    ∧ (s.path site (s.home line) = .direct
        ∨ (s.path site (s.home line) = .far ∧ (s.sub line).owner = none ∧ s.cacheOn xlIx = false))
    ∧ ((s.dirEnt line).st = .u ∨ (s.dirEnt line).st = .s) ∧ lineSound s line

/-- An engine's access to an address of its context is translated by entry `t` of its die's walker (R503, R514). -/
def seMaps (s : State) (e : SeRef) (t : TlbEnt) (acc : XAcc) (va : Nat) : Prop :=
  let ctx := s.fld e.ctrl F.seCtrl_ctx
  s.flag R.ctxBase F.ctxBase_enable = true
    ∧ (∃ c, (s.walker e.walker).ctxs.find? (fun c => decide (c.ctx = ctx)) = some c ∧ c.part = s.sePart e)
    ∧ (s.walker e.walker).tlb.find? (fun t => t.covers ctx va) = some t
    ∧ t.denies acc (s.flag e.ctrl F.seCtrl_hostAccess) = none ∧ regionOf (t.addr va) = .dram

/-- The cluster that owns a tile address serves a requester of a tag (R453, R455, R457). -/
def tileOpen (s : State) (tag : ReqTag) (pa : Nat) : Prop :=
  regionOf pa = .tile ∧ ∃ cl o, tileOwner pa = some (cl, o) ∧ s.cdUp (cl / 8) = true ∧ s.inI4 (cl / 8) = false
    ∧ s.inI3 cl = false ∧ s.flag (R.l2Stat cl) F.l2Stat_tileChanging = false ∧ o < s.tileSize cl
    ∧ tag = .part (BitVec.ofNat 3 (s.fld (R.l2Stat cl) F.l2Stat_part))

/-- A translated address of a descriptor (R530). -/
def SeDesc.at_ (d : SeDesc) (acc : XAcc) (va : Nat) : Nat :=
  match findRun d.runs (va / 2 ^ 16) acc with | some p => p.pa + va % 2 ^ 16 | none => 0

/-- Byte `b` of the first row of a descriptor lies in tile memory that is open to its engine; a source byte is sound (R531,
R536). -/
def srcInTile (s : State) (e : SeRef) (d : SeDesc) (b : Nat) : Prop :=
  (findRun d.runs ((d.src 0 + b) / 2 ^ 16) .read).isSome = true ∧ tileOpen s (s.seTag e) (d.at_ .read (d.src 0 + b))
    ∧ tileSound s (d.at_ .read (d.src 0 + b))
def dstInTile (s : State) (e : SeRef) (d : SeDesc) (b : Nat) : Prop :=
  (findRun d.runs ((d.dst 0 + b) / 2 ^ 16) .write).isSome = true ∧ tileOpen s (s.seTag e) (d.at_ .write (d.dst 0 + b))

/-- An engine's front descriptor, of one row, with its pages translated, is ready to run from its beginning (R533, R535, R541). -/
def seReady (s : State) (e : SeRef) (d : SeDesc) : Prop :=
  let k := s.seSt e.ix
  s.up e.site = true ∧ s.flag e.ctrl F.seCtrl_enable = true ∧ k.paused = false ∧ k.error = false
    ∧ s.unitFault (seUnit e.ix) = none ∧ k.front = some d ∧ d.status = none ∧ d.start = none ∧ d.bytes = 0
    ∧ d.marked = false ∧ d.rows = 1 ∧ (∀ p ∈ d.runs, p.pa % 2 ^ 16 = 0) ∧ (d.deadline = 0 ∨ d.late = true ∨ s.tick ≤ d.fetched + d.deadline)

/-- A descriptor has moved `n` bytes and ended its data writes with status OK, and the engine counts the bytes (R535). -/
def seDid (s t : State) (e : SeRef) (d : SeDesc) (n : Nat) : Prop :=
  t.seSt e.ix = (s.seSt e.ix).put { d with start := some s.tick, bytes := n, status := some 0, ended := some s.tick }
    ∧ (∀ i, i ≠ e.ix → t.seSt i = s.seSt i)
    ∧ t.fld e.cntBytes F.seCntBytes_bytes = (s.fld e.cntBytes F.seCntBytes_bytes + n) % 2 ^ 64

/-! ## The weave loader -/

/-- A byte of memory as a reader sees it. -/
def State.memByte (s : State) (pa : Nat) : Byte := byteNo (s.memLine (pa / 128)).data.toNat (pa % 128)

/-- The bytes of the image that the loader is to copy (R579). -/
def State.imageBytes (s : State) : List Byte :=
  (List.range (s.fld R.wvImgLen F.wvImgLen_len)).map (fun i => s.memByte (s.fld R.wvImgAddr F.wvImgAddr_addr * 64 + i))

/-- The loader can read the lines of its image at once: tag HOST, regulators off (R579). -/
def imageReads (s : State) : Prop :=
  let lo := s.fld R.wvImgAddr F.wvImgAddr_addr * 64
  let len := s.fld R.wvImgLen F.wvImgLen_len
  len % 64 = 0 ∧ 0 < len ∧ len ≤ imageMax ∧ lo + len ≤ 2 ^ 40
    ∧ ∀ line, lo / 128 ≤ line → line ≤ (lo + len - 1) / 128 → lineReads s 0 .host line
      ∧ ∀ q, s.payer .host (linePa line) = some q →
          s.flag (R.mcReg (s.place (linePa line)).cd (s.place (linePa line)).ctrl q) F.mcReg_enable = false

/-- The clusters in service that a candidate configures (R585). -/
def State.voteMask (s : State) (im : Image) : Word :=
  ((List.range 64).filter (fun cl => im.scope.getLsbD cl && s.cdUp (cl / 8))).foldl (fun w cl => w ||| BitVec.twoPow 64 cl) 0

/-- The thread groups of every core are in canonical form, at slots below 256 (R157). -/
def groupsWf (s : State) : Prop :=
  ∀ c, c < 1024 → Sparse.wf (fun _ => ({} : Group)) (s.core c).groups = true ∧ ∀ e ∈ (s.core c).groups, e.1 < 256

/-- The registers of the loader that a commit moves, with its interrupt sources (R587, R595). -/
def wvRegs : List Nat :=
  [R.wvCmd, R.wvStat, R.wvEpoch, R.wvVote, R.wvScope, R.wvCntCommit, R.wvCntFence, R.wvCntRefused, R.msiCtrl 0 32, R.msiCtrl 0 33]
    ++ (List.range 3).map R.wvSeWait ++ (List.range 64).map R.wvClEpoch

/-- Of the whole state only the loader, its registers and groups that parked change. -/
def OnlyWeave (s t : State) : Prop :=
  t = { s with wv := t.wv, cores := t.cores, regs := t.regs, imsic := t.imsic, resp := t.resp, hold := false }
    ∧ RegsKept s t wvRegs
    ∧ (∀ g, t.grp g = s.grp g ∨ ((s.grp g).wait = .parked ∧ t.grp g = { s.grp g with wait := .none }))

/-! ## Command rings -/

/-- A ring's access to an address of its context is translated by entry `x` of the hub's walker (R503, R514, R603). -/
def ringMaps (s : State) (n : Nat) (x : TlbEnt) (acc : XAcc) (va : Nat) : Prop :=
  let ctx := s.fld (R.ringCtrl n) F.ringCtrl_ctx
  va < 2 ^ 48 ∧ s.flag R.ctxBase F.ctxBase_enable = true
    ∧ (∃ c, (s.walker 72).ctxs.find? (fun c => decide (c.ctx = ctx)) = some c ∧ c.part = s.ringPart n)
    ∧ (s.walker 72).tlb.find? (fun t => t.covers ctx va) = some x ∧ x.denies acc false = none ∧ regionOf (x.addr va) = .dram

/-- A ring may start a command, and `c` is the command at FETCH, which the hub reads at once (R603 to R605). -/
def ringNext (s : State) (n : Nat) (c : RingCmd) : Prop :=
  let fetch := s.fld (R.ringCtrl n) F.ringCtrl_fetch
  let va := s.fld (R.ringBase n) F.ringBase_ring * 64 + 64 * (fetch % 2 ^ s.fld (R.ringCtrl n) F.ringCtrl_sizeLog2)
  s.ringRuns n = true ∧ (s.ring n).aborted = false
    ∧ ∃ x, ringMaps s n x .read va ∧ lineReads s 0 (.part (BitVec.ofNat 3 (s.ringPart n))) (x.addr va / 128)
        ∧ c = { idx := fetch,
                words := wordsOf 8 (bits (s.memLine (x.addr va / 128)).data.toNat (8 * (x.addr va % 128)) 512) }

/-- A command joined its ring and FETCH moved past it; the read of the command moved counts of its home and regulator, and
other registers outside a list are as before (R410, R441, R501). -/
def ringTook (s t : State) (n : Nat) (c : RingCmd) (l : List Nat) : Prop :=
  t.ring n = { s.ring n with queue := (s.ring n).queue ++ [c] } ∧ (∀ i, i ≠ n → t.ring i = s.ring i)
    ∧ t.fld (R.ringCtrl n) F.ringCtrl_fetch = (s.fld (R.ringCtrl n) F.ringCtrl_fetch + 1) % 2 ^ 32
    ∧ ∀ a, a ∉ R.ringCtrl n :: l → a ≠ R.xlCntMiss → (∀ k, k < 8 → a ≠ R.homeCntReq k)
        → (∀ cd c q, cd < 8 → c < 2 → q < 8 → a ≠ R.mcCntCw cd c q ∧ a ≠ R.mcRegStat cd c q) → t.reg a = s.reg a

/-- A command left the front of its ring and is counted as completed (R609). -/
def ringLeft (s t : State) (n : Nat) (c : RingCmd) (rest : List RingCmd) : Prop :=
  t.ring n = { s.ring n with queue := rest } ∧ (∀ i, i ≠ n → t.ring i = s.ring i)
    ∧ t.fld (R.hostDb n) F.hostDb_done = (c.idx + 1) % 2 ^ 32
    ∧ t.fld R.hostCntCmd F.hostCntCmd_commands = (s.fld R.hostCntCmd F.hostCntCmd_commands + 1) % 2 ^ 64

/-! ## Host dies -/

/-- An uncached request of a tag from a site reaches the home of a line at once (R461, R464). -/
def uncOpen (s : State) (site : Nat) (tag : ReqTag) (line cost : Nat) (write : Bool) : Prop :=
  memOpen s tag (linePa line) cost write
    ∧ (s.path site (s.home line) = .direct
        ∨ (s.path site (s.home line) = .far ∧ (s.sub line).owner = none ∧ s.cacheOn xlIx = false))
    ∧ (s.dirEnt line).sharers = 0 ∧ ((s.dirEnt line).st = .u ∨ (s.dirEnt line).st = .s)

/-- What resets a host die: an action of HOST_CTRL, the die itself, or its link (R602, R616). -/
def resetsHost (s : State) (hd : Fin 2) : Instr → Prop
  | .resetHd0 m => hd = 0 ∧ passes s m R.hostCtrl = true
  | .resetHd1 m => hd = 1 ∧ passes s m R.hostCtrl = true
  | .hostSelfReset h => h = hd ∧ s.up (9 + hd.val) = true
  | .hostLinkTimeout h => h = hd ∧ s.up (9 + hd.val) = true ∧ s.moving (16 + hd.val) = true
  | _ => False

/-- Whether a register holds an enable or a control word of an interrupt entry (R101, R609). -/
def isMsiCtrl (a : Nat) : Prop :=
  (0x3000 ≤ a % 0x1_0000_0000 ∧ a % 0x1_0000_0000 < 0x4000 ∧ a % 0x10 = 8)
    ∨ (0xB1000 ≤ a ∧ a < 0xB1800 ∧ a % 0x20 = 0x18)

/-! ## The twin link -/

/-- Of the whole state only the twin link, the registers of a list and interrupts change. -/
def OnlyTwin (s t : State) (l : List Nat) : Prop :=
  t = { s with twn := t.twn, regs := t.regs, imsic := t.imsic, resp := t.resp, hold := false }
    ∧ RegsKept s t (R.twnStat :: R.msiCtrl 0 40 :: l)

/-- As `OnlyTwin`, with an entry of a type in the audit log (R671). -/
def TwinLogs (s t : State) (typ : Nat) (l : List Nat) : Prop :=
  t = { s with twn := t.twn, onyx := t.onyx, regs := t.regs, imsic := t.imsic, drawn := t.drawn, resp := t.resp, hold := false }
    ∧ RegsKept s t (R.twnStat :: R.msiCtrl 0 40 :: (List.range 6).map (R.secMeas 8) ++ l)
    ∧ t.onyx.logNext = s.onyx.logNext + 1
    ∧ ∃ e, t.onyx.log.getLast? = some e ∧ e.seq = s.onyx.logNext ∧ e.typ.toNat = typ ∧ e.tick = s.tick

/-- The link has reached a state that carries no requests (R634, R637, R668). -/
def twinFell (s t : State) (v : Nat) : Prop :=
  t.fld R.twnStat F.twnStat_state = v ∧ t.twn.keyed = none ∧ t.twn.rekey = false
    ∧ (s.mirroring false = true → s.flag R.mirCtrl F.mirCtrl_onLinkLoss = true → t.flag R.twnStat F.twnStat_resyncNeeded = true)
    ∧ t.twn.lost = (if s.flag R.twnStat F.twnStat_peerSeen then none else some (s.twn.lost.getD s.tick))
    ∧ t.twn.tail = s.twn.tail ∧ t.twn.rx = s.twn.rx

/-- The state to which training brings the link: before authentication, or DOWN for want of lanes (R626). -/
def trainsTo (s : State) (good : Nat) : Nat := if good < s.fld R.twnCtrl F.twnCtrl_minLanes then 0 else 2

/-- The secondary has taken over (R638). -/
def tookOver (s t : State) : Prop :=
  t.flag R.twnCtrl F.twnCtrl_role = false ∧ t.fld R.twnCtrl F.twnCtrl_mode = 0 ∧ t.flag R.twnStat F.twnStat_takenOver = true
    ∧ t.twn = { s.twn with rx := [], asked := false }

/-- A partner's digest meets the module's: counted, the status of the command, and the record of a mismatch (R641). -/
def dcMeets (s t : State) (ring : BitVec 6) (idx tag : Nat) (mine theirs : Word) : Prop :=
  t.fld R.twnCntDc F.twnCntDc_compared = min (s.fld R.twnCntDc F.twnCntDc_compared + 1) (2 ^ 32 - 1)
    ∧ t.fld R.twnCntDc F.twnCntDc_mismatches
        = (if mine = theirs then s.fld R.twnCntDc F.twnCntDc_mismatches else min (s.fld R.twnCntDc F.twnCntDc_mismatches + 1) (2 ^ 32 - 1))
    ∧ (mine ≠ theirs → (s.reg (R.dcRec 0)).getLsbD 0 = false →
        t.reg (R.dcRec 0) = Word.of (1 + ring.toNat * 4 + idx * 2 ^ 8) ∧ t.reg (R.dcRec 1) = Word.of tag
          ∧ t.reg (R.dcRec 2) = mine ∧ t.reg (R.dcRec 3) = theirs ∧ raised t 0 41)
    ∧ (mine = theirs ∨ (s.reg (R.dcRec 0)).getLsbD 0 = true → ∀ i, i < 4 → t.reg (R.dcRec i) = s.reg (R.dcRec i))

/-- The registers that a comparison of digests and its ring move. -/
def dcRegs (n : Nat) : List Nat :=
  [R.twnCntDc, R.dcRec 0, R.dcRec 1, R.dcRec 2, R.dcRec 3, R.msiCtrl 0 41, R.ringCtrl n]

/-- The records of a receive journal can be applied at once: homes in service, no copy, buffer or key in the way, and no two
codewords in one cell (R633). -/
def rxReady (s : State) : Prop :=
  (∀ r ∈ s.twn.rx, ∃ pa v, r = .word pa v false ∧ pa % 64 = 0 ∧ pa < 2 ^ 40 ∧ s.cdUp (s.place pa).cd = true
      ∧ s.redLine (pa / 128) = none ∧ s.dirEnt (pa / 128) = {} ∧ s.key (keyIndex s.ranges pa) ≠ 0) ∧ s.miss = []
    ∧ ∀ p v p' v', TwnRec.word p v false ∈ s.twn.rx → TwnRec.word p' v' false ∈ s.twn.rx → (s.place p).cell = (s.place p').cell → p = p'

/-! ## Onyx -/

/-- Of the whole state only Onyx, the registers of a list and interrupts change, and free values are used up. -/
def OnlyOnyx (s t : State) (l : List Nat) : Prop :=
  t = { s with onyx := t.onyx, regs := t.regs, imsic := t.imsic, drawn := t.drawn, resp := t.resp, hold := false }
    ∧ RegsKept s t l

/-- The audit log has an entry of a type more, at this tick, that follows the previous one (R671). -/
def Logged (s t : State) (typ : Nat) : Prop :=
  t.onyx.logNext = s.onyx.logNext + 1
    ∧ ∃ e, t.onyx.log.getLast? = some e ∧ e.seq = s.onyx.logNext ∧ e.typ.toNat = typ ∧ e.tick = s.tick
        ∧ e.chain = BitVec.ofNat 128 (ofBytes (sha384 (e.head ++ toBytes 16
            (match s.onyx.log.getLast? with | some p => p.chain | none => (0 : BitVec 128)).toNat)))

/-- The slot of the log (R655, R671). -/
def logSlot : List Nat := (List.range 6).map (R.secMeas 8)

/-- Onyx can write the lines of the mailbox's response at once (R665). -/
def mboxOpen (s : State) : Prop :=
  ∀ line, (s.mboxAt + 0x1000) / 128 ≤ line → line < (s.mboxAt + 0x2000) / 128 →
    uncOpen s 0 .onyx line 2 true ∧ lineSound s line ∧ s.key (keyIndex s.ranges (linePa line)) ≠ 0

/-- A request of the mailbox has ended: nothing is in progress, BUSY is 0 and MBOX_DONE has been shown (R665). -/
def mboxDone (s t : State) : Prop :=
  t.onyx.mbox = none ∧ t.flag R.mboxCtrl F.mboxCtrl_busy = false ∧ t.flag R.secEvent F.secEvent_mboxDone = true
    ∧ (s.flag R.secEvent F.secEvent_mboxDone = false → raised t 0 49)

/-- The response that memory holds at the mailbox (R665). -/
def mboxSays (s t : State) (typ status : Nat) (payload : List Byte) : Prop :=
  bytesPut s t (s.mboxAt + 0x1000) (toBytes 8 (typ + status * 2 ^ 16 + payload.length * 2 ^ 32) ++ payload)

/-- Every volatile state of the dies is as after reset; the store with its log, fuses, save slots and the ciphertext in DRAM
stay (R651, R654, R672, R729). -/
def packageReset (s t : State) : Prop :=
  (∀ a, t.reg a = regReset a) ∧ (∀ n, t.die n = {}) ∧ t.keys = [] ∧ t.cores = [] ∧ t.lines = [] ∧ t.dir = [] ∧ t.tile = []
    ∧ t.sync = [] ∧ t.rings = [] ∧ t.se = [] ∧ t.walk = [] ∧ t.ras = [] ∧ t.tick = 0
    ∧ t.onyx.fused = s.onyx.fused ∧ t.onyx.revoked = s.onyx.revoked ∧ t.onyx.fuse = s.onyx.fuse ∧ t.onyx.store = s.onyx.store

/-! ## Saves -/

/-- A save runs with a cause: into the slot that does not hold the newest, with the next sequence number and the items of
R696, none of them yet valid (R700 to R703, R705). -/
def saveRuns (s t : State) (cause : Nat) (only : Bool) : Prop :=
  ∃ r, t.pwr.save = some r ∧ r.slot = s.saveSlot ∧ r.cause = cause ∧ r.only = only
    ∧ r.image.cause = cause ∧ r.image.complete = false ∧ r.image.seq = s.onyx.saves + 1 ∧ r.image.tick = s.tick
    ∧ r.image.epoch = s.fld R.wvEpoch F.wvEpoch_epoch ∧ r.image.items.length = 5 + s.pwr.list.length
    ∧ (∀ i ∈ r.image.items, i.valid = false) ∧ t.onyx.slots.getD r.slot none = some r.image
    ∧ t.onyx.saves = s.onyx.saves + 1 ∧ t.fld R.saveStat F.saveStat_state = 1

/-- The module has been powered down for a cause: every volatile state is gone, and it waits for what the cause asks (R704,
R712, R714). -/
def poweredDown (s t : State) (cause : Nat) (cycle : Bool) : Prop :=
  packageReset s t ∧ t.pwr.save = none ∧ t.pwr.cycle = false
    ∧ t.pwr.phase = (if cycle = true ∧ cause = 5 then .starting else .standby)
    ∧ t.pwr.waitVin = (s.pwr.waitVin || decide (cause < 3))
    ∧ t.pwr.waitOn = (s.pwr.waitOn || decide (cause = 3) || (decide (cause = 5) && !cycle))
    ∧ t.pwr.thermal = (s.pwr.thermal || decide (cause = 3))

/-! ## Losses and errors -/

/-- A compute die has left service (R731): no group, descriptor, table entry or tile byte of it is left, no cache holds a line of
its memory, its caches hold none, its registers are as after reset, and the loss is counted and told. -/
def dieGone (s t : State) (cd : Nat) : Prop :=
  t.up (cd + 1) = false ∧ (t.die (cd + 1)).out = true ∧ (∀ n, n ≠ cd + 1 → t.die n = s.die n)
    ∧ (∀ c, c / 128 = cd → t.core c = {}) ∧ (∀ j, j / 16 = cd → t.seSt j = {}) ∧ (∀ id, id / 2048 = cd → t.obj id = {})
    ∧ (∀ a, a / 2 ^ 32 = cd + 1 → Sparse.get (fun _ => (0 : Byte)) t.tile a = 0)
    ∧ (∀ k l, l < 2 ^ 33 → s.home l = cd → t.cline k l = {})
    ∧ (∀ k l, l < 2 ^ 34 → k / 8 = cd ∨ k = 64 + cd → t.cline k l = {})
    ∧ (∀ l, l < 2 ^ 33 → s.home l = cd → t.dirEnt l = {})
    ∧ t.fld R.rasCnt F.rasCnt_dieLosses = min (s.fld R.rasCnt F.rasCnt_dieLosses + 1) (2 ^ 16 - 1)
    ∧ (.dieLost cd) ∈ t.told

/-- The class and code are one of the correctable errors of R738's table. -/
def Detection.isCe (d : Detection) : Bool :=
  (decide (d.cls = 2) && (decide (d.code = 1) || decide (d.code = 4)))
    || (decide (d.cls = 4) && (decide (d.code = 1) || decide (d.code = 2)))
    || ((decide (d.cls = 5) || decide (d.cls = 8) || decide (d.cls = 9)) && decide (d.code = 1))

/-- The source that a detection raises (R739). -/
def errSource (s : State) (d : Detection) : Nat × Nat :=
  (if s.up d.die.toNat then d.die.toNat else 0, if d.severity = 0 then 1 else 2)

/-- The registers that a detection moves, with its interrupt (R739). -/
def errRegs (s : State) (d : Detection) : List Nat :=
  [R.rasProd, R.rasCnt, R.msiCtrl (errSource s d).1 (errSource s d).2]

/-- A detection has been recorded: a new record takes the next sequence number, or the newest correctable record of the same
fault and second counts one more (R739 to R741). -/
def recorded (s t : State) (d : Detection) : Prop :=
  match (if d.severity = 0 then newestRec (fun r => decide (r.det.severity = 0)) s.ras else none) with
  | some n =>
    if n.merges d s.tick then
      t.ras = s.ras.map (fun r => if r.seq = n.seq then { r with count := min (r.count + 1) (2 ^ 32 - 1) } else r)
        ∧ t.reg R.rasProd = s.reg R.rasProd
    else t.ras = s.ras ++ [⟨s.fld R.rasProd F.rasProd_prod, s.tick, d, 1⟩]
      ∧ t.fld R.rasProd F.rasProd_prod = (s.fld R.rasProd F.rasProd_prod + 1) % 2 ^ 64
      ∧ raised t (errSource s d).1 (errSource s d).2
  | none => t.ras = s.ras ++ [⟨s.fld R.rasProd F.rasProd_prod, s.tick, d, 1⟩]
      ∧ t.fld R.rasProd F.rasProd_prod = (s.fld R.rasProd F.rasProd_prod + 1) % 2 ^ 64
      ∧ raised t (errSource s d).1 (errSource s d).2

end Sys2Proof.Machine

namespace Sys2Proof

/-- The one command to which the spec promises no effect: an input voltage above the absolute maximum (R688). -/
def Instr.beyond : Instr → Bool
  | .vinWarn v => decide (10_000 < v)
  | _ => false

/-- A run of `n` steps is safe when it ends in no fault and no refusal. -/
def SafeRun (n : Nat) (s : Machine.State) : Prop := ∃ t, core.run n s = .next t

end Sys2Proof
end

