-- ==== Sys2Proof/Certificates/Slice0/Obligations.lean ====
section
/-!
DEFINITION. The statements about the model for the provers: what the commands do, where each completes, and what the
machine as a whole keeps. Each docstring cites the rules of the spec that its statement rests on.
-/

open Sys2Proof Sys2Proof.Machine

/-! ## The queue of commands -/

/-- A step takes the command at the front of the queue and is its execution on the state with the rest of the queue. -/
def Obligations.StepRunsFront : Prop :=
  ∀ (c : Instr) (cs : List Instr) (s : State), step { s with pending := c :: cs } = exec c { s with pending := cs }

/-- With an empty queue the block idles: one tick passes, the queue stays empty, and nothing outside Onyx's log and its
registers changes (log entry 10). -/
def Obligations.IdleTick : Prop :=
  ∀ s : State, s.pending = [] → ∃ t, step s = .next t ∧ t.tick = s.tick + 1 ∧ t.pending = []
    ∧ t = { s with tick := t.tick, onyx := t.onyx, regs := t.regs, imsic := t.imsic, resp := t.resp }

/-- Every command of the table to which the spec promises an effect has one, wherever it comes: a queue of `n` such
commands runs to its end in `n` steps, first in, first out, with no fault and no refusal. -/
def Obligations.QueueDrains : Prop :=
  ∀ s : State, (∀ c ∈ s.pending, c.beyond = false) →
    ∃ t, core.run s.pending.length s = .next t ∧ t.pending = []

/-- A command is one event: whatever the state, every step leaves nothing half done and takes exactly the front of the
queue. -/
def Obligations.StepIsAtomic : Prop :=
  ∀ s t : State, s.settled → step s = .next t → t.settled ∧ t.pending = s.pending.drop 1

/-- R688: an input voltage above 1,000 V has no effect the spec promises; every other reading of the input has one. -/
def Obligations.BeyondMaximumStops : Prop :=
  ∀ (v : Nat) (s : State), (10_000 < v → exec (.vinWarn v) s = .fault .absoluteMaximum)
    ∧ (v ≤ 10_000 → ∃ t, exec (.vinWarn v) s = .next t)

/--
- After reset every register that is not one of an absent or undefined offset reads the reset value of its fields, no
  object, line, byte or record is held, and the time is 0 (R116).
- After reset nothing is half done. -/
def Obligations.ResetState : Prop :=
  (
      (∀ a r, regRow a = some (r, false) → State.reset.reg a = resetWord r.fields) ∧ State.reset.tick = 0
        ∧ (∀ site, State.reset.up site = false) ∧ State.reset.ras = [] ∧ Memory.wf State.reset = true)
  ∧ (
     State.reset.settled ∧ State.reset.pending = [])

/-- Whatever the state and the command, a step keeps the bytes of memory and of tile memory in their canonical form: equal
contents stay equal data. -/
def Obligations.MemoryStaysCanonical : Prop :=
  ∀ s t : State, Memory.wf s = true → step s = .next t → Memory.wf t = true

/-! ## Lanes and uniform registers -/

/--
- R745: MOV to POPC of the group class write the result to the destination of every executing lane, and nothing else
  but the PC and the issue counts changes.
- R745, R746: MOV to POPC of the scalar class act once, on uniform registers, when a lane executes. -/
def Obligations.IntegerResult : Prop :=
  (
      ∀ (o : IntOp) (g : GroupRef) (f : Fields) (s : State) (ty : Ty), s.ready g = true → Ty.ofCode f.typ = some ty →
        o.laneOk (s.grp g) f ty = true →
        Does (o.instr g false f) s fun t =>
          LanesGet (s.grp g) (t.grp g) ((s.grp g).execLanes f) f.dst.toNat ty.wide
            (fun l => o.eval ty (o.laneA (s.grp g) f ty l) (laneB (s.grp g) f ty l)) ∧ OnlyGroup g s t [])
  ∧ (
      ∀ (o : IntOp) (g : GroupRef) (f : Fields) (s : State) (ty : Ty), s.ready g = true → Ty.ofCode f.typ = some ty →
        o.scalarOk (s.grp g) f ty = true →
        Does (o.instr g true f) s fun t =>
          UniGets (s.grp g) (t.grp g) ((s.grp g).acts f) f.dst.toNat
            (ty.inWord (o.eval ty (o.uniA (s.grp g) f ty) (uniB (s.grp g) f ty))) ∧ OnlyGroup g s t [])

/-- R745: what the integer operations compute, in the arithmetic of words of the type's width. -/
def Obligations.IntegerArithmetic : Prop :=
  ∀ (t : Ty) (x y : BitVec t.width), t.isFloat = false →
    IntOp.add.eval t x.toNat y.toNat = (x + y).toNat
    ∧ IntOp.sub.eval t x.toNat y.toNat = (x - y).toNat
    ∧ IntOp.mul.eval t x.toNat y.toNat = (x * y).toNat
    ∧ IntOp.and.eval t x.toNat y.toNat = (x &&& y).toNat
    ∧ IntOp.or.eval t x.toNat y.toNat = (x ||| y).toNat
    ∧ IntOp.xor.eval t x.toNat y.toNat = (x ^^^ y).toNat
    ∧ IntOp.not.eval t x.toNat y.toNat = (~~~ x).toNat
    ∧ IntOp.shl.eval t x.toNat y.toNat = (x <<< (y.toNat % t.width)).toNat
    ∧ IntOp.shr.eval t x.toNat y.toNat = (x >>> (y.toNat % t.width)).toNat
    ∧ IntOp.sar.eval t x.toNat y.toNat = (x.sshiftRight (y.toNat % t.width)).toNat
    ∧ IntOp.min.eval t x.toNat y.toNat = (if (if t.signed then x.slt y else x.ult y) then x else y).toNat
    ∧ IntOp.max.eval t x.toNat y.toNat = (if (if t.signed then x.slt y else x.ult y) then y else x).toNat
    ∧ IntOp.abs.eval t x.toNat y.toNat = (if t.signed && x.msb then -x else x).toNat
    ∧ IntOp.mulh.eval t x.toNat y.toNat = (if t.signed
        then (x.signExtend (2 * t.width) * y.signExtend (2 * t.width)).extractLsb' t.width t.width
        else (x.setWidth (2 * t.width) * y.setWidth (2 * t.width)).extractLsb' t.width t.width).toNat

/--
- R163, R206: an integer instruction with a reserved field is not executed: its group halts with ILLEGAL at it, its
  registers as before, and the error is counted.
- R174: a barrier, a synchronizing or an engine instruction that the active lanes do not take together halts its group
  with DIV_COLLECTIVE; one that no lane executes is passed over.
- R163, R178, R504: a memory instruction with a reserved field halts its group with ILLEGAL, one with an unaligned lane
  with MISALIGNED, and one whose context is not enabled with REG_ACCESS. -/
def Obligations.IllegalInstructions : Prop :=
  (
      ∀ (o : IntOp) (g : GroupRef) (f : Fields) (s : State) (ty : Ty), s.ready g = true → Ty.ofCode f.typ = some ty →
        o.laneOk (s.grp g) f ty = false → Does (o.instr g false f) s fun t => Halts g s t 1)
  ∧ (
      ∀ (g : GroupRef) (f : Fields) (s : State), s.ready g = true → f.syncOk = true → f.imm = false → f.cOk = true →
        ((s.grp g).active ≠ (s.grp g).full ∨ ((s.grp g).execMask f ≠ 0 ∧ (s.grp g).execMask f ≠ (s.grp g).active) →
          Does (.bar g f) s fun t => Halts g s t 2)
        ∧ ((s.grp g).active = (s.grp g).full → (s.grp g).execMask f = 0 → Does (.bar g f) s fun t =>
          t.grp g = { s.grp g with pc := (s.grp g).pc + 8 } ∧ OnlyGroup g s t []))
  ∧ (
      ∀ (g : GroupRef) (f : Fields) (s : State) (i : Instr), s.ready g = true →
        (i = .ld g f ∨ i = .st g f ∨ i = .lds g f ∨ i = .sts g f) →
        ((s.grp g).memOk f = false → Does i s fun t => Halts g s t 1)
        ∧ ((s.grp g).memOk f = true → (∃ l ∈ (s.grp g).execLanes f, (s.grp g).memVa f l % sizeBytes f.low ≠ 0) →
          Does i s fun t => Halts g s t 4)
        ∧ ((s.grp g).memOk f = true → (s.grp g).execLanes f ≠ [] →
          (∀ l ∈ (s.grp g).execLanes f, (s.grp g).memVa f l % sizeBytes f.low = 0) →
          s.flag R.ctxBase F.ctxBase_enable = false → Does i s fun t => Halts g s t 5))

/--
- R283, R284: FADD to FMAX write each executing lane's rounded result and set the sticky flags its lanes raise.
- R278 to R282: CVT writes each executing lane's converted value; an overflow sets CVT_OVF. -/
def Obligations.FloatResult : Prop :=
  (
      ∀ (o : FpOp) (g : GroupRef) (f : Fields) (s : State) (ty : Ty), s.ready g = true → Ty.ofCode f.typ = some ty →
        o.laneOk (s.grp g) f ty = true →
        Does (o.instr g f) s fun t =>
          LanesGet (s.grp g) (t.grp g) ((s.grp g).execLanes f) f.dst.toNat ty.wide (fun l => (o.result (s.grp g) f ty l).1)
          ∧ Sticky s t g.core.val F.laneFlags_invalid
              (((s.grp g).execLanes f).any (fun l => (o.result (s.grp g) f ty l).2.invalid))
          ∧ Sticky s t g.core.val F.laneFlags_overflow
              (((s.grp g).execLanes f).any (fun l => (o.result (s.grp g) f ty l).2.overflow))
          ∧ Sticky s t g.core.val F.laneFlags_underflow
              (((s.grp g).execLanes f).any (fun l => (o.result (s.grp g) f ty l).2.underflow))
          ∧ Sticky s t g.core.val F.laneFlags_inexact
              (((s.grp g).execLanes f).any (fun l => (o.result (s.grp g) f ty l).2.inexact))
          ∧ OnlyCore 8 g s t)
  ∧ (
      ∀ (g : GroupRef) (f : Fields) (s : State) (w : CvtWord), s.ready g = true → CvtWord.of f.c = some w →
        cvtOk (s.grp g) f w = true →
        Does (.cvt g f) s fun t =>
          let r := cvtLane f w (s.reg (R.srSeed g.core.val)) (s.grp g)
          LanesGet (s.grp g) { t.grp g with dsum := (s.grp g).dsum } ((s.grp g).execLanes f) f.dst.toNat
              (decide (w.fout.width = 64)) (fun l => (r l).1)
          ∧ Sticky s t g.core.val F.laneFlags_cvtOvf (((s.grp g).execLanes f).any (fun l => (r l).2.overflow))
          ∧ Sticky s t g.core.val F.laneFlags_inexact (((s.grp g).execLanes f).any (fun l => (r l).2.inexact))
          ∧ OnlyCore 8 g s t)

/--
- R164, R161: QCMP and QLOG write a predicate in the executing lanes; a predicate other than the destination, and the
  other lanes of the destination, are as before, and Q0 stays true.
- R164: PICK, LXCH, LANEID and U2L write the lanes they execute in: a source chosen by a predicate, another lane's
  register as it stood before, the lane's number, a uniform register or the immediate.
- R164, R746, R114: QPOLL, L2U, RDTB and RDID write one uniform register: a summary of a predicate over the executing
  lanes, one lane's register, the timebase, the group's identity in the packing of log entry 2. -/
def Obligations.PredicatesAndMoves : Prop :=
  (
      (∀ (g : GroupRef) (f : Fields) (s : State) (ty : Ty), s.ready g = true → Ty.ofCode f.typ = some ty → f.low < 7 →
          f.dst.toNat < 16 → f.cOk = true → f.bOk = true → (s.grp g).tyOk ty f.a.toNat = true →
          (f.imm || (s.grp g).tyOk ty f.b.toNat) = true →
          Does (.qcmp g f) s fun t =>
            (∀ l, l < (s.grp g).width → l < 64 → ((t.grp g).pred f.dst.toNat).getLsbD l =
              (decide (f.dst = 0) || (if l ∈ (s.grp g).execLanes f then qcmpHit (s.grp g) f ty l
                else ((s.grp g).pred f.dst.toNat).getLsbD l)))
            ∧ (∀ q, q ≠ f.dst.toNat → (t.grp g).pred q = (s.grp g).pred q)
            ∧ t.grp g = { s.grp g with pc := (s.grp g).pc + 8, preds := (t.grp g).preds } ∧ OnlyGroup g s t [])
      ∧ (∀ (g : GroupRef) (f : Fields) (s : State), s.ready g = true → f.typ < 6 → f.low < 4 → f.imm = false → f.cOk = true →
          f.dst.toNat < 16 → f.a.toNat < 16 → f.b.toNat < 16 →
          Does (.qlog g f) s fun t =>
            (∀ l, l < 64 → ((t.grp g).pred f.dst.toNat).getLsbD l =
              (decide (f.dst = 0) || (if ((s.grp g).execMask f).getLsbD l then
                  (let a := ((s.grp g).pred f.a.toNat).getLsbD l
                   let b := ((s.grp g).pred f.b.toNat).getLsbD l
                   if f.low = 0 then a && b else if f.low = 1 then a || b else if f.low = 2 then a != b else a && !b)
                else ((s.grp g).pred f.dst.toNat).getLsbD l)))
            ∧ (∀ q, q ≠ f.dst.toNat → (t.grp g).pred q = (s.grp g).pred q)
            ∧ t.grp g = { s.grp g with pc := (s.grp g).pc + 8, preds := (t.grp g).preds } ∧ OnlyGroup g s t []))
  ∧ (
      ∀ (g : GroupRef) (f : Fields) (s : State) (ty : Ty), s.ready g = true → Ty.ofCode f.typ = some ty → f.low = 0 →
        (s.grp g).tyOk ty f.dst.toNat = true →
        (f.imm = false → f.c.toNat < 16 → (s.grp g).tyOk ty f.a.toNat = true → (s.grp g).tyOk ty f.b.toNat = true →
          Does (.pick g f) s fun t =>
            LanesGet (s.grp g) (t.grp g) ((s.grp g).execLanes f) f.dst.toNat ty.wide
              (fun l => (s.grp g).laneVal l
                (if ((s.grp g).pred f.c.toNat).getLsbD l then f.a.toNat else f.b.toNat) ty.wide) ∧ OnlyGroup g s t [])
        ∧ (f.cOk = true → f.bOk = true → (s.grp g).tyOk ty f.a.toNat = true → (f.imm || (s.grp g).lOk f.b.toNat) = true →
          Does (.lxch g f) s fun t =>
            LanesGet (s.grp g) (t.grp g) ((s.grp g).execLanes f) f.dst.toNat ty.wide
              (fun l => (s.grp g).laneVal
                (if f.imm then (f.imm16 % ((s.grp g).width : Int)).toNat
                  else ((s.grp g).lane l f.b.toNat).toNat % (s.grp g).width) f.a.toNat ty.wide) ∧ OnlyGroup g s t [])
        ∧ (f.imm = false → f.cOk = true →
          Does (.laneid g f) s fun t =>
            LanesGet (s.grp g) (t.grp g) ((s.grp g).execLanes f) f.dst.toNat ty.wide (fun l => l) ∧ OnlyGroup g s t [])
        ∧ (f.cOk = true → (f.imm || (s.grp g).uOk f.a.toNat) = true →
          Does (.u2l g f) s fun t =>
            LanesGet (s.grp g) (t.grp g) ((s.grp g).execLanes f) f.dst.toNat ty.wide
              (fun _ => if f.imm then ty.immOf f.imm16 else ((s.grp g).uni f.a.toNat).toNat) ∧ OnlyGroup g s t []))
  ∧ (
      ∀ (g : GroupRef) (f : Fields) (s : State), s.ready g = true → (s.grp g).uOk f.dst.toNat = true →
        (f.typ < 6 → f.low < 3 → f.imm = false → f.cOk = true → f.a.toNat < 16 →
          Does (.qpoll g f) s fun t =>
            UniGets (s.grp g) (t.grp g) true f.dst.toNat (fun w =>
              let e := (s.grp g).execMask f
              let q := (s.grp g).pred f.a.toNat &&& e
              w = if f.low = 0 then (if q = 0 then 0 else 1) else if f.low = 1 then (if q = e then 1 else 0) else q)
            ∧ OnlyGroup g s t [])
        ∧ (∀ ty, Ty.ofCode f.typ = some ty → f.low = 0 → f.imm = true → f.c.toNat < (s.grp g).width →
          (s.grp g).tyOk ty f.a.toNat = true →
          Does (.l2u g f) s fun t =>
            UniGets (s.grp g) (t.grp g) ((s.grp g).acts f) f.dst.toNat
              (ty.inWord ((s.grp g).laneVal f.c.toNat f.a.toNat ty.wide)) ∧ OnlyGroup g s t [])
        ∧ (f.typ < 6 → f.low = 0 → f.imm = false → f.cOk = true →
          Does (.rdtb g f) s fun t =>
            UniGets (s.grp g) (t.grp g) ((s.grp g).acts f) f.dst.toNat (fun w => w = Word.of s.tick) ∧ OnlyGroup g s t [])
        ∧ (f.typ < 6 → f.low = 0 → f.imm = false → f.cOk = true →
          Does (.rdid g f) s fun t =>
            UniGets (s.grp g) (t.grp g) ((s.grp g).acts f) f.dst.toNat
              (fun w => w = Config.rdid g.slot.val (s.grp g).index (s.grp g).blockNo (s.grp g).width) ∧ OnlyGroup g s t []))

/-! ## Control flow, barriers and synchronization -/

/--
- R169, R171, R173: BRA, BRU and JMPU move the PC: a lane branch whose active lanes all take it, or none of them, a
  uniform branch, and a jump to a multiple of 8. Nothing else of the group changes.
- R169, R170: lanes that split at a BRA push an entry and the taking lanes go first; at the JOIN with the entry's tag
  the other lanes go from behind the BRA, and then all of them meet behind the JOIN. A JOIN with another tag only goes on. A
  33rd entry is not pushed: the group halts with RECONV_OVERFLOW. -/
def Obligations.BranchesAndDivergence : Prop :=
  (
      ∀ (g : GroupRef) (f : Fields) (s : State), s.ready g = true →
        ((s.grp g).execMask f = (s.grp g).active → Does (.bra g f) s fun t =>
          t.grp g = { s.grp g with pc := branchTarget (s.grp g) f } ∧ OnlyGroup g s t [])
        ∧ ((s.grp g).execMask f = 0 → (s.grp g).active ≠ 0 → Does (.bra g f) s fun t =>
          t.grp g = { s.grp g with pc := (s.grp g).pc + 8 } ∧ OnlyGroup g s t [])
        ∧ ((s.grp g).uOk f.a.toNat = true → f.low = 0 → Does (.bru g f) s fun t =>
          t.grp g = { s.grp g with pc := (if decide ((s.grp g).uni f.a.toNat = 0) = f.pneg
            then branchTarget (s.grp g) f else (s.grp g).pc + 8) } ∧ OnlyGroup g s t [])
        ∧ ((s.grp g).uOk f.a.toNat = true → f.low = 0 → Does (.jmpu g f) s fun t =>
          t.grp g = { s.grp g with pc := ((s.grp g).uni f.a.toNat).setWidth 48 &&& ~~~ 7 } ∧ OnlyGroup g s t []))
  ∧ (
      ∀ (g : GroupRef) (f : Fields) (s : State), s.ready g = true →
        ((s.grp g).execMask f ≠ 0 → (s.grp g).execMask f ≠ (s.grp g).active → (s.grp g).stack.length < 32 →
          Does (.bra g f) s fun t =>
            t.grp g = { s.grp g with
              stack := ⟨f.mod.setWidth 4, (s.grp g).active, (s.grp g).active &&& ~~~ (s.grp g).execMask f,
                (s.grp g).pc + 8, none⟩ :: (s.grp g).stack
              active := (s.grp g).execMask f
              pc := branchTarget (s.grp g) f } ∧ OnlyGroup g s t [])
        ∧ ((s.grp g).execMask f ≠ 0 → (s.grp g).execMask f ≠ (s.grp g).active → 32 ≤ (s.grp g).stack.length →
          Does (.bra g f) s fun t => Halts g s t 3)
        ∧ (∀ e rest, (s.grp g).stack = e :: rest → e.tag = f.mod.setWidth 4 → e.notTaken ≠ 0 →
          Does (.join g f) s fun t =>
            t.grp g = { s.grp g with
              active := e.notTaken
              pc := e.pc
              stack := { e with notTaken := 0, join := some ((s.grp g).pc + 8) } :: rest } ∧ OnlyGroup g s t [])
        ∧ (∀ e rest, (s.grp g).stack = e :: rest → e.tag = f.mod.setWidth 4 → e.notTaken = 0 →
          e.active &&& (s.grp g).full ≠ 0 → Does (.join g f) s fun t =>
            t.grp g = { s.grp g with active := e.active &&& (s.grp g).full, pc := (s.grp g).pc + 8, stack := rest }
              ∧ OnlyGroup g s t [])
        ∧ ((∀ e rest, (s.grp g).stack = e :: rest → e.tag ≠ f.mod.setWidth 4) → Does (.join g f) s fun t =>
            t.grp g = { s.grp g with pc := (s.grp g).pc + 8 } ∧ OnlyGroup g s t []))

/--
- R172: EXIT ends the executing lanes: none of them is active again, and the lane, uniform and predicate registers of
  the group stay; while active lanes remain they go on behind it. With no lane left the group has ended: its slot is free
  and its block expects it no more (R185).
- R167, R206: SETPRI writes the group's priority; HALT halts the group with SOFT_HALT, or with ILLEGAL where its MODE
  field is not 0. -/
def Obligations.ExitAndHalt : Prop :=
  (
      ∀ (g : GroupRef) (f : Fields) (s : State), s.ready g = true → f.low = 0 →
        ((s.grp g).full &&& ~~~ (s.grp g).execMask f ≠ 0 → Does (.exit g f) s fun t =>
          (t.grp g).full = (s.grp g).full &&& ~~~ (s.grp g).execMask f
            ∧ (t.grp g).active &&& (s.grp g).execMask f = 0
            ∧ (t.grp g).lregs = (s.grp g).lregs ∧ (t.grp g).uregs = (s.grp g).uregs ∧ (t.grp g).preds = (s.grp g).preds
            ∧ ((s.grp g).active &&& ~~~ (s.grp g).execMask f ≠ 0 →
                (t.grp g).active = (s.grp g).active &&& ~~~ (s.grp g).execMask f ∧ (t.grp g).pc = (s.grp g).pc + 8)
            ∧ OnlyGroup g s t [])
        ∧ ((s.grp g).full &&& ~~~ (s.grp g).execMask f = 0 → Does (.exit g f) s fun t =>
          (t.grp g).resident = false
            ∧ g.slot.val ∉ (t.block g.core.val (s.grp g).unit).members
            ∧ t.dram = s.dram ∧ t.tile = s.tile ∧ t.lines = s.lines ∧ t.dies = s.dies))
  ∧ (
      ∀ (g : GroupRef) (f : Fields) (s : State), s.ready g = true →
        (f.low = 0 → Does (.setpri g f) s fun t =>
          t.grp g = { s.grp g with prio := f.c.setWidth 3, pc := (s.grp g).pc + 8 } ∧ OnlyGroup g s t [])
        ∧ (f.low = 0 → Does (.halt g f) s fun t => Halts g s t 8)
        ∧ (f.low ≠ 0 → Does (.halt g f) s fun t => Halts g s t 1))

/-- R184 to R187: a group that arrives at its block's barrier waits there, or completes the phase: then the phase
number rises, nobody is arrived or waits, and every group that waited goes on behind its instruction. BART adds a status
and a timeout; at its timeout it goes on with TIMEOUT and stays arrived. -/
def Obligations.BlockBarrier : Prop :=
  (∀ (g : GroupRef) (f : Fields) (s : State), s.ready g = true → Together (s.grp g) f → barrierCalm s g →
    let c := g.core.val
    let x := s.grp g
    let b := s.block c x.unit;
    (f.syncOk = true → f.imm = false → f.cOk = true → phaseDone b g.slot.val = false →
      Does (.bar g f) s fun t =>
        t.grp g = { x with wait := .barrier none }
          ∧ t.block c x.unit = { b with arrived := arrivals b g.slot.val, waiting := b.waiting ++ [⟨g.slot.val, none, none⟩] }
          ∧ (∀ h, h ≠ g → t.grp h = s.grp h) ∧ RegsKept s t (issueRegs c))
    ∧ (f.syncOk = true → f.imm = false → f.cOk = true → phaseDone b g.slot.val = true →
      Does (.bar g f) s fun t =>
        t.grp g = { x with pc := x.pc + 8 }
          ∧ t.block c x.unit = { b with phase := b.phase + 1, arrived := [], waiting := [] }
          ∧ (∀ w ∈ b.waiting, ∀ d, (t.grp (groupAt c w.slot)).wait ≠ .barrier d)
          ∧ (∀ h, h ≠ g → (∀ w ∈ b.waiting, h ≠ groupAt c w.slot) → t.grp h = s.grp h) ∧ RegsKept s t (issueRegs c))
    ∧ (f.syncOk = true → f.cOk = true → x.uOk f.dst.toNat = true → (f.imm || x.uOk (f.c.toNat % 256)) = true →
      (phaseDone b g.slot.val = true → Does (.bart g f) s fun t =>
        UniGets x (t.grp g) true f.dst.toNat (fun w => w = 0) ∧ RegsKept s t (issueRegs c)
          ∧ t.block c x.unit = { b with phase := b.phase + 1, arrived := [], waiting := [] })
      ∧ (phaseDone b g.slot.val = false → x.uniOrImm f (f.c.toNat % 256) % 2 ^ 32 = 0 → Does (.bart g f) s fun t =>
        UniGets x (t.grp g) true f.dst.toNat (fun w => w = 1) ∧ RegsKept s t (issueRegs c)
          ∧ t.block c x.unit = { b with arrived := arrivals b g.slot.val })
      ∧ (phaseDone b g.slot.val = false → x.uniOrImm f (f.c.toNat % 256) % 2 ^ 32 ≠ 0 → Does (.bart g f) s fun t =>
        let k := x.uniOrImm f (f.c.toNat % 256) % 2 ^ 32
        t.grp g = { x with wait := .barrier (some f.dst.toNat) } ∧ RegsKept s t (issueRegs c)
          ∧ t.block c x.unit = { b with
              arrived := arrivals b g.slot.val
              waiting := b.waiting ++ [⟨g.slot.val, some f.dst.toNat,
                (if k = 0xFFFF_FFFF then none else some (s.tick + k))⟩] })))
  ∧ (∀ (g : GroupRef) (s : State) (w : BarWaiter) (d : Nat), (s.grp g).resident = true →
    (s.block g.core.val (s.grp g).unit).waiting.find? (fun w => decide (w.slot = g.slot.val)) = some w →
    w.deadline = some d → w.dst ≠ none → Does (.barrierTimeout g) s fun t =>
      t.tick = max s.tick d ∧ w.dst.map (t.grp g).uni = some 1 ∧ (t.grp g).pc = (s.grp g).pc + 8
        ∧ (∀ e, (t.grp g).wait ≠ .barrier e) ∧ (∀ h, h ≠ g → t.grp h = s.grp h)
        ∧ (t.block g.core.val (s.grp g).unit).arrived = (s.block g.core.val (s.grp g).unit).arrived ∧ t.regs = s.regs)

/--
- R192, R193: SIG adds its amount to a counter that saturates; WAIT takes its amount when the counter has it and nobody
  is queued, queues its group with its timeout when it has not, and gets TIMEOUT at once for a timeout of 0. The status
  goes to a uniform register.
- R193: a signal serves the head of the queue: when the value has reached what the waiting group asked for, the group
  goes on with status 0 and its amount is taken. R134: when its timeout wins instead, it goes on with TIMEOUT and nothing is
  taken. -/
def Obligations.CounterInstructions : Prop :=
  (
      ∀ (g : GroupRef) (f : Fields) (s : State), s.ready g = true → f.syncOk = true → f.cOk = true →
        (s.grp g).uOk f.dst.toNat = true → (s.grp g).uOk f.a.toNat = true → (s.grp g).acts f = true →
        (s.core g.core.val).mbuf = [] → groupObj s g ((s.grp g).uni f.a.toNat).toNat .counter = true →
        let x := s.grp g
        let id := (x.uni f.a.toNat).toNat
        let o := s.obj id
        let l := syncRegs (id / 2048) ++ issueRegs g.core.val;
        (f.bOk = true → (f.imm || x.uOk f.b.toNat) = true → Does (.sig g f) s fun t =>
          UniGets x (t.grp g) true f.dst.toNat (fun w => w = 0)
            ∧ t.obj id = { o with value := BitVec.ofNat 32 (min (o.value.toNat + x.uniOrImm f f.b.toNat) 0xFFFF_FFFF)
                                  ovf := o.ovf || decide (0xFFFF_FFFF < o.value.toNat + x.uniOrImm f f.b.toNat) }
            ∧ (∀ i, i ≠ id → t.obj i = s.obj i) ∧ (∀ h, h ≠ g → t.grp h = s.grp h) ∧ OnlySync s t l)
        ∧ (x.uOk f.b.toNat = true → (f.imm || x.uOk (f.c.toNat % 256)) = true →
          let n := (x.uni f.b.toNat).toNat
          let k := x.uniOrImm f (f.c.toNat % 256) % 2 ^ 32;
          (n ≤ o.value.toNat → Does (.wait g f) s fun t =>
            UniGets x (t.grp g) true f.dst.toNat (fun w => w = 0)
              ∧ t.obj id = { o with value := o.value - BitVec.ofNat 32 n } ∧ (t.core g.core.val).l1 = []
              ∧ (∀ i, i ≠ id → t.obj i = s.obj i) ∧ (∀ h, h ≠ g → t.grp h = s.grp h) ∧ OnlySync s t l)
          ∧ (o.value.toNat < n → k ≠ 0 → s.waitersOf (id / 2048) < 4096 → Does (.wait g f) s fun t =>
            t.grp g = { x with wait := .counter id f.dst.toNat }
              ∧ t.obj id = { o with queue := [⟨.group g, n, if k = 0xFFFF_FFFF then none else some (s.tick + k)⟩] }
              ∧ (∀ i, i ≠ id → t.obj i = s.obj i) ∧ (∀ h, h ≠ g → t.grp h = s.grp h) ∧ OnlySync s t l)
          ∧ (o.value.toNat < n → k = 0 → Does (.wait g f) s fun t =>
            UniGets x (t.grp g) true f.dst.toNat (fun w => w = 1) ∧ (∀ i, t.obj i = s.obj i)
              ∧ (∀ h, h ≠ g → t.grp h = s.grp h) ∧ OnlySync s t l)))
  ∧ (
      ∀ (m : Master) (cd : Cd) (obj : BitVec 11) (s : State) (w : Waiter) (h : GroupRef) (o dst : Nat),
        let id := cd.val * 2048 + obj.toNat
        (s.obj id).typ = .counter → (s.obj id).queue = [w] → w.who = .group h → (s.grp h).wait = .counter o dst →
        s.cdUp cd.val = true →
        (∀ amount : BitVec 32, passes s m (R.syncCmd cd.val) = true → s.flag (R.syncCtrl cd.val) F.syncCtrl_enable = true →
          (∀ d, w.deadline = some d → s.tick ≤ d) → (s.obj id).value.toNat + amount.toNat ≤ 0xFFFF_FFFF →
          w.amount ≤ (s.obj id).value.toNat + amount.toNat →
          Does (.syncSignal m cd obj amount) s fun t =>
            (t.obj id).value.toNat = (s.obj id).value.toNat + amount.toNat - w.amount ∧ (t.obj id).queue = []
              ∧ (t.grp h).uni dst = 0 ∧ (t.grp h).pc = (s.grp h).pc + 8 ∧ (∀ e d, (t.grp h).wait ≠ .counter e d)
              ∧ (∀ i, i ≠ h → t.grp i = s.grp i) ∧ OnlySync s t (syncRegs cd.val))
        ∧ (∀ d, w.deadline = some d → Does (.syncTimeout cd obj w.who) s fun t =>
            t.tick = max s.tick d ∧ (t.obj id).value = (s.obj id).value ∧ (t.obj id).queue = []
              ∧ (t.grp h).uni dst = 1 ∧ (t.grp h).pc = (s.grp h).pc + 8 ∧ (∀ e d, (t.grp h).wait ≠ .counter e d)
              ∧ (∀ i, i ≠ h → t.grp i = s.grp i) ∧ RegsKept s t (syncRegs cd.val)))

/--
- R196 to R198: ACQ of one lane takes a free lock, whose owner is then that lane; another holder leaves it queued; a
  second lane of the group that names the same lock gets HELD_OWN_GROUP. REL frees the lane's own lock, and answers
  NOT_OWNER for any other.
- R199: ACQG of one lane that finds its lock free opens the region with that lane alone active; RELG frees the lock and,
  when no lane is left without its turn, closes the region with the lanes of its entry active, or goes back to the ACQG. -/
def Obligations.LocksAndRegions : Prop :=
  (
      ∀ (g : GroupRef) (f : Fields) (s : State) (l : Nat), s.ready g = true → (s.grp g).acqOk f = true →
        (s.core g.core.val).mbuf = [] →
        let x := s.grp g
        let id := (x.lane l f.a.toNat).toNat
        let o := s.obj id
        let me := ownerOf (.lane g (Fin.ofNat 64 l))
        let k := x.uniOrImm f (f.c.toNat % 256) % 2 ^ 32
        let regs := syncRegs (id / 2048) ++ issueRegs g.core.val;
        groupObj s g id .lock = true →
        (x.execLanes f = [l] → o.owner = none → Does (.acq g f) s fun t =>
          t.obj id = { o with owner := some me, nextAband := false } ∧ (t.core g.core.val).l1 = []
            ∧ LanesGet x (t.grp g) [l] f.dst.toNat false (fun _ => if o.nextAband then 7 else 0)
            ∧ (∀ i, i ≠ id → t.obj i = s.obj i) ∧ OnlySync s t regs)
        ∧ (∀ l2, l < l2 → x.execLanes f = [l, l2] → (x.lane l2 f.a.toNat).toNat = id → o.owner = none →
            Does (.acq g f) s fun t =>
              t.obj id = { o with owner := some me, nextAband := false }
                ∧ LanesGet x (t.grp g) [l, l2] f.dst.toNat false (fun i => if i = l2 then 2 else if o.nextAband then 7 else 0)
                ∧ OnlySync s t regs)
        ∧ (∀ y, x.execLanes f = [l] → o.owner = some y → ({ y with lane := me.lane } : Owner) ≠ me → k ≠ 0 →
            s.waitersOf (id / 2048) < 4096 → Does (.acq g f) s fun t =>
              t.obj id = { o with queue := [⟨.lane g (Fin.ofNat 64 l), 0, if k = 0xFFFF_FFFF then none else some (s.tick + k)⟩] }
                ∧ t.grp g = { x with wait := .locks (BitVec.twoPow 64 l) [] f.dst.toNat false } ∧ OnlySync s t regs)
        ∧ (x.execLanes f = [l] → f.imm = false → o.owner = some me → Does (.rel g f) s fun t =>
          t.obj id = { o with owner := none, abandoned := false, nextAband := false }
            ∧ LanesGet x (t.grp g) [l] f.dst.toNat false (fun _ => 0)
            ∧ (∀ i, i ≠ id → t.obj i = s.obj i) ∧ OnlySync s t regs)
        ∧ (x.execLanes f = [l] → f.imm = false → o.owner ≠ some me → Does (.rel g f) s fun t =>
          LanesGet x (t.grp g) [l] f.dst.toNat false (fun _ => 4) ∧ (∀ i, t.obj i = s.obj i) ∧ OnlySync s t regs))
  ∧ (
      ∀ (g : GroupRef) (f : Fields) (s : State) (l : Nat), s.ready g = true →
        (∀ k close, (s.grp g).acqOk f = true → (s.grp g).region = none → s.kernelOf g.core.val (s.grp g) = some k →
          k.closeAfter (s.grp g).pc.toNat = some close → (s.grp g).execLanes f = [l] →
          groupObj s g ((s.grp g).lane l f.a.toNat).toNat .lock = true →
          (s.obj ((s.grp g).lane l f.a.toNat).toNat).owner = none →
          Does (.acqg g f) s fun t =>
            let id := ((s.grp g).lane l f.a.toNat).toNat
            (t.obj id).owner = some (ownerOf (.lane g (Fin.ofNat 64 l)))
              ∧ (t.grp g).active = BitVec.twoPow 64 l &&& (s.grp g).full ∧ (t.grp g).pc = (s.grp g).pc + 8
              ∧ (∃ r, (t.grp g).region = some r ∧ r.granted = [(l, id)] ∧ r.entry = (s.grp g).active
                  ∧ r.acqg = (s.grp g).pc ∧ r.close = BitVec.ofNat 48 close)
              ∧ OnlySync s t (syncRegs (id / 2048) ++ issueRegs g.core.val))
        ∧ (∀ r id, f.syncOk = true → f.imm = false → f.a = 0 → f.b = 0 → f.c = 0 → (s.core g.core.val).mbuf = [] →
          (s.grp g).region = some r → r.granted = [(l, id)] → (s.grp g).full.getLsbD l = true →
          groupObj s g id .lock = true → (s.obj id).owner = some (ownerOf (.lane g (Fin.ofNat 64 l))) →
          r.entry &&& (s.grp g).full ≠ 0 →
          Does (.relg g f) s fun t =>
            (t.obj id).owner = none ∧ (t.grp g).active = r.entry &&& (s.grp g).full
              ∧ (r.remaining &&& (s.grp g).full = 0 → (t.grp g).region = none ∧ (t.grp g).pc = (s.grp g).pc + 8)
              ∧ (r.remaining &&& (s.grp g).full ≠ 0 → (t.grp g).pc = r.acqg
                  ∧ (t.grp g).region = some { r with granted := [], remaining := r.remaining &&& (s.grp g).full })
              ∧ OnlySync s t (syncRegs (id / 2048) ++ issueRegs g.core.val)))

/-- R215: the operations of SYNC_CMD on an object nobody is queued at: signal, initialize, free, try, release and force.
SYNC_CMD_STAT shows DONE and the status; nothing but the object and the unit's registers changes. -/
def Obligations.SyncCommands : Prop :=
  ∀ (m : Master) (cd : Cd) (obj : BitVec 11) (part : BitVec 3) (amount : BitVec 32) (s : State),
    passes s m (R.syncCmd cd.val) = true → s.flag (R.syncCtrl cd.val) F.syncCtrl_enable = true →
    let id := cd.val * 2048 + obj.toNat
    let o := s.obj id
    let Ok := fun (t : State) (o' : SyncObj) (st : Nat) =>
      t.obj id = o' ∧ t.fld (R.syncCmdStat cd.val) F.syncCmdStat_status = st
        ∧ t.flag (R.syncCmdStat cd.val) F.syncCmdStat_done = true
        ∧ (∀ i, i ≠ id → t.obj i = s.obj i) ∧ (∀ h, t.grp h = s.grp h) ∧ OnlySync s t (syncRegs cd.val);
    o.queue = [] →
    (o.typ = .counter → Does (.syncSignal m cd obj amount) s fun t =>
      Ok t { o with value := BitVec.ofNat 32 (min (o.value.toNat + amount.toNat) 0xFFFF_FFFF)
                    ovf := o.ovf || decide (0xFFFF_FFFF < o.value.toNat + amount.toNat) } 0)
    ∧ Does (.initCounter m cd obj part amount) s (fun t => Ok t { typ := .counter, value := amount, part := part } 0)
    ∧ Does (.initLock m cd obj part) s (fun t => Ok t { typ := .lock, part := part } 0)
    ∧ (o.typ ≠ .unused → Does (.free m cd obj) s fun t => Ok t {} 0)
    ∧ (o.typ = .unused → Does (.free m cd obj) s fun t => Ok t o 9)
    ∧ (o.typ = .lock → o.owner = none → Does (.tryAcquire m cd obj) s fun t =>
      Ok t { o with owner := some m.owner, nextAband := false } (if o.nextAband then 7 else 0))
    ∧ (o.typ = .lock → ∀ y, o.owner = some y → Does (.tryAcquire m cd obj) s fun t =>
      Ok t o (if y = m.owner then 3 else 1))
    ∧ (o.typ = .lock → o.owner = some m.owner → Does (.release m cd obj) s fun t =>
      Ok t { o with owner := none, abandoned := false, nextAband := false } 0)
    ∧ (o.typ = .lock → o.owner ≠ some m.owner → Does (.release m cd obj) s fun t => Ok t o 4)
    ∧ (o.typ = .lock → o.owner.isSome = true → Does (.forceRelease m cd obj) s fun t =>
      Ok t { o with owner := none, abandoned := true, nextAband := true } 0)

/-- R207, R208: the commands of CORE_SEQ_CMD: a core that runs halts with cause 1 and a halted one keeps its cause, a
core halt is released, a halted group is to issue its instruction again, a group is ended and its launch marked. -/
def Obligations.CoreCommands : Prop :=
  ∀ (m : Master) (s : State),
    (∀ c : CoreIx, passes s m (R.seqCmd c.val) = true →
      Does (.haltCore m c) s (fun t =>
        t.core c.val = { s.core c.val with halted := if (s.core c.val).halted = 0 then 1 else (s.core c.val).halted }
          ∧ (∀ d, d ≠ c.val → t.core d = s.core d) ∧ RegsKept s t [R.seqCmd c.val]
          ∧ t = { s with cores := t.cores, regs := t.regs, resp := t.resp, hold := false })
      ∧ Does (.resumeCore m c) s (fun t =>
        t.core c.val = { s.core c.val with halted := 0 } ∧ (∀ d, d ≠ c.val → t.core d = s.core d)
          ∧ RegsKept s t [R.seqCmd c.val]
          ∧ t = { s with cores := t.cores, regs := t.regs, resp := t.resp, hold := false }))
    ∧ (∀ g : GroupRef, passes s m (R.seqCmd g.core.val) = true → (s.grp g).resident = true →
      ((s.grp g).halt ≠ none → Does (.resumeGroup m g) s fun t =>
        t.grp g = { s.grp g with halt := none } ∧ (∀ h, h ≠ g → t.grp h = s.grp h) ∧ RegsKept s t [R.seqCmd g.core.val]
          ∧ t = { s with cores := t.cores, regs := t.regs, resp := t.resp, hold := false })
      ∧ Does (.killGroup m g) s (fun t =>
        (t.grp g).resident = false ∧ ((s.grp g).ring, (s.grp g).launch) ∈ t.killed
          ∧ g.slot.val ∉ (t.block g.core.val (s.grp g).unit).members ∧ t.dram = s.dram ∧ t.dies = s.dies))

/-! ## Memory instructions of the cores -/

/--
- R177 to R181, R416: LD (lines) and LDS (sectors) of lanes whose accesses lie in one unit of tile memory: each lane
  gets the bytes at its address, every other lane register stays, and no byte of memory changes.
- R180, R447, R448: the stores of an ST enter the core's merging buffer as one entry for their line: exactly the bytes
  the lanes store are enabled, each holds the byte of the highest lane that stores it, and memory is not yet written.
- R180, R418, R453: an STS of lanes whose accesses lie in one sector of tile memory writes it there: each byte of the
  highest lane that stores it, and every other byte of tile memory reads as before. -/
def Obligations.LoadsAndStores : Prop :=
  (
      ∀ (g : GroupRef) (f : Fields) (s : State) (t : TlbEnt) (unit q : Nat) (i : Instr), s.ready g = true →
        (s.grp g).memOk f = true → (s.core g.core.val).mbuf = [] → (unit = 128 ∧ i = .ld g f ∨ unit = 32 ∧ i = .lds g f) →
        (unit = 128 → s.l1On g.core.val = false ∨ ∀ pa, (s.l1Line g.core.val pa).st = .i) →
        (∀ l ∈ (s.grp g).execLanes f, (s.grp g).memVa f l / unit = q ∧ (s.grp g).memVa f l % sizeBytes f.low = 0
          ∧ coreMaps s g t .read ((s.grp g).memVa f l) ∧ tileServes s g.core.val (lanePa (s.grp g) f t l)
          ∧ tileSound s (lanePa (s.grp g) f t l)) →
        Does i s fun u =>
          (∀ l ∈ (s.grp g).execLanes f, ∀ b, b < sizeBytes f.low →
            byteNo ((u.grp g).laneRegs l f.dst.toNat (sizeRegs f.low)) b = s.tileByte (lanePa (s.grp g) f t l + b))
          ∧ (∀ l r, r < 256 → ¬ (l ∈ (s.grp g).execLanes f ∧ f.dst.toNat ≤ r ∧ r < f.dst.toNat + sizeRegs f.low) →
            (u.grp g).lane l r = (s.grp g).lane l r)
          ∧ u.grp g = { s.grp g with pc := (s.grp g).pc + 8, lregs := (u.grp g).lregs }
          ∧ OnlyLaneMem g s u ∧ u.tile = s.tile)
  ∧ (
      ∀ (g : GroupRef) (f : Fields) (s : State) (t : TlbEnt) (q line : Nat), s.ready g = true → (s.grp g).memOk f = true →
        (s.core g.core.val).mbuf = [] → (s.grp g).execLanes f ≠ [] →
        (∀ l ∈ (s.grp g).execLanes f, (s.grp g).memVa f l / 128 = q ∧ (s.grp g).memVa f l % sizeBytes f.low = 0
          ∧ coreMaps s g t .write ((s.grp g).memVa f l) ∧ lanePa (s.grp g) f t l / 128 = line
          ∧ regionOf (lanePa (s.grp g) f t l) ≠ .reg) →
        Does (.st g f) s fun u =>
          (∃ e, (u.core g.core.val).mbuf = [e] ∧ e.line = line ∧ e.since = s.tick ∧ e.slots = [g.slot.val]
            ∧ (∀ b, b < 128 → (e.en.getLsbD b = true ↔ ∃ l ∈ (s.grp g).execLanes f,
                lanePa (s.grp g) f t l % 128 ≤ b ∧ b < lanePa (s.grp g) f t l % 128 + sizeBytes f.low))
            ∧ (∀ l ∈ (s.grp g).execLanes f, ∀ b, b < sizeBytes f.low →
                (∀ l2 ∈ (s.grp g).execLanes f, l < l2 →
                  ¬ (lanePa (s.grp g) f t l2 ≤ lanePa (s.grp g) f t l + b
                    ∧ lanePa (s.grp g) f t l + b < lanePa (s.grp g) f t l2 + sizeBytes f.low)) →
                byteNo e.val.data.toNat (lanePa (s.grp g) f t l % 128 + b) = byteNo (laneData (s.grp g) f l) b))
          ∧ u.grp g = { s.grp g with pc := (s.grp g).pc + 8 } ∧ OnlyLaneMem g s u ∧ u.tile = s.tile ∧ u.tileBad = s.tileBad)
  ∧ (
      ∀ (g : GroupRef) (f : Fields) (s : State) (t : TlbEnt) (q : Nat), s.ready g = true → (s.grp g).memOk f = true →
        (s.core g.core.val).mbuf = [] →
        (∀ l ∈ (s.grp g).execLanes f, (s.grp g).memVa f l / 32 = q ∧ (s.grp g).memVa f l % sizeBytes f.low = 0
          ∧ coreMaps s g t .write ((s.grp g).memVa f l) ∧ tileServes s g.core.val (lanePa (s.grp g) f t l)
          ∧ tileSound s (lanePa (s.grp g) f t l)) →
        Does (.sts g f) s fun u =>
          (∀ l ∈ (s.grp g).execLanes f, ∀ b, b < sizeBytes f.low →
            (∀ l2 ∈ (s.grp g).execLanes f, l < l2 →
              ¬ (lanePa (s.grp g) f t l2 ≤ lanePa (s.grp g) f t l + b
                ∧ lanePa (s.grp g) f t l + b < lanePa (s.grp g) f t l2 + sizeBytes f.low)) →
            u.tileByte (lanePa (s.grp g) f t l + b) = byteNo (laneData (s.grp g) f l) b)
          ∧ (∀ a, tileBase ≤ a → (∀ l ∈ (s.grp g).execLanes f, ¬ (lanePa (s.grp g) f t l ≤ a
              ∧ a < lanePa (s.grp g) f t l + sizeBytes f.low)) → u.tileByte a = s.tileByte a)
          ∧ u.grp g = { s.grp g with pc := (s.grp g).pc + 8 } ∧ OnlyLaneMem g s u)

/--
- R420 to R424: a REDUCTION_OP, and an ATOM of one lane, replace the word in the reduction buffer by the result, leave
  every other byte of the line, count the operation, and return the word as it was.
- R218, R325 to R327: FILL copies a row of tile memory into the operand cache, DRAIN copies it back; no other byte of
  either changes. -/
def Obligations.AtomicsAndTransfers : Prop :=
  (
      (∀ (r : ReductionRequest) (s : State) (l : Line) (n : Nat) (fmt : Option Fmt),
        redKind r.op.toNat r.fmt.toNat = some (n, fmt) → redReady s r.tag r.pa.toNat l →
        Does (.reductionOp r) s fun t =>
          let pa := r.pa.toNat
          let off := pa % 128 / n * n
          let old := bits l.data.toNat (8 * off) (8 * n)
          t.resp.data = [Word.of old]
            ∧ (∃ l2, t.redLine (pa / 128) = some l2 ∧ l2.poison = 0
              ∧ bits l2.data.toNat (8 * off) (8 * n) = redNew r.op.toNat n fmt old r.operand.toNat r.compare.toNat % 2 ^ (8 * n)
              ∧ (∀ b, b < 128 → b < off ∨ off + n ≤ b → byteNo l2.data.toNat b = byteNo l.data.toNat b))
            ∧ t.dram = s.dram ∧ t.bad = s.bad ∧ t.lines = s.lines ∧ t.cores = s.cores)
      ∧ (∀ (g : GroupRef) (f : Fields) (s : State) (t : TlbEnt) (l : Line) (k n : Nat), s.ready g = true →
        s.atomOk g (s.grp g) f = true → (s.core g.core.val).mbuf = [] → (s.grp g).execLanes f = [k] →
        redKind f.typ f.low = some (n, none) → f.typ ≤ 2 → (s.grp g).memVa f k % n = 0 →
        coreMaps s g t .atomic ((s.grp g).memVa f k) → redReady s (s.coreTag g.core.val) (lanePa (s.grp g) f t k) l →
        Does (.atom g f) s fun u =>
          let pa := lanePa (s.grp g) f t k
          let old := bits l.data.toNat (8 * (pa % 128)) (8 * n)
          (∃ l2, u.redLine (pa / 128) = some l2
            ∧ bits l2.data.toNat (8 * (pa % 128)) (8 * n) = redNew f.typ n none old (laneData (s.grp g) f k) 0)
          ∧ (f.fetch = true → LanesGet (s.grp g) (u.grp g) [k] f.dst.toNat (decide (n = 8)) (fun _ => old))
          ∧ (f.fetch = false → u.grp g = { s.grp g with pc := (s.grp g).pc + 8 })
          ∧ u.dram = s.dram ∧ u.tile = s.tile))
  ∧ (
      ∀ (g : GroupRef) (f : Fields) (s : State) (t : TlbEnt), s.ready g = true → (s.core g.core.val).mbuf = [] →
        (s.core g.core.val).opcBad = [] → (s.core g.core.val).wrote = [] →
        (∀ j, j < 128 → F.route_valid.get (s.reg (R.route (coreCl g.core.val) j)) = 0) →
        let ar := (s.grp g).area f
        let pa := t.addr (ar.va % 2 ^ 48)
        let k := s.core g.core.val;
        areaOk (s.grp g) f ar = true → ar.rows = 1 → ar.va + ar.rowBytes ≤ 2 ^ 48 →
        (∀ b, b < ar.rowBytes → tileServes s g.core.val (pa + b) ∧ tileSound s (pa + b)) →
        ((∀ b, b < ar.rowBytes → coreMaps s g t .read (ar.va + b)) → Does (.fill g f) s fun u =>
          (∀ o, Sparse.get (fun _ => (0 : Byte)) (u.core g.core.val).opc o
            = if ar.off ≤ o ∧ o < ar.off + ar.rowBytes then s.tileByte (pa + (o - ar.off)) else Sparse.get (fun _ => 0) k.opc o)
          ∧ u.grp g = { s.grp g with pc := (s.grp g).pc + 8 } ∧ u.tile = s.tile ∧ (u.core g.core.val).acc = k.acc
          ∧ OnlyLaneMem g s u)
        ∧ ((∀ b, b < ar.rowBytes → coreMaps s g t .write (ar.va + b)) → Does (.drain g f) s fun u =>
          (∀ a, tileBase ≤ a → u.tileByte a = if pa ≤ a ∧ a < pa + ar.rowBytes
            then Sparse.get (fun _ => 0) k.opc (ar.off + (a - pa)) else s.tileByte a)
          ∧ u.grp g = { s.grp g with pc := (s.grp g).pc + 8 } ∧ (u.core g.core.val).opc = k.opc ∧ OnlyLaneMem g s u))

/--
- R182, R449, R486, R491 to R493, R466: the fences of a core whose merging buffer is empty, and of one with an entry of
  tile memory: FENCE writes the buffered bytes out and drops the L1 as its kind says, TFENCE ends every twin copy, PFENCE
  of an empty range only waits for the core's stores; MERGE_BUFFER_TIMEOUT writes an entry out.
- R449, R450, R453: an entry of the merging buffer that drains to tile memory leaves the buffer, and its enabled bytes,
  and no others, are written there. -/
def Obligations.FencesAndBuffers : Prop :=
  (
      ∀ (g : GroupRef) (f : Fields) (s : State), s.ready g = true → (s.core g.core.val).mbuf = [] →
        (f.low ≤ 4 → f.mod.toNat / 8 % 4 ≤ 2 → f.mod.toNat / 32 % 4 = 0 → Does (.fence g f) s fun t =>
          t.grp g = { s.grp g with pc := (s.grp g).pc + 8 }
            ∧ (t.core g.core.val).l1 = (if (s.grp g).acts f ∧ f.low ≠ 0 ∧ f.mod.toNat / 8 % 4 ≠ 2 then [] else (s.core g.core.val).l1)
            ∧ OnlyLaneMem g s t ∧ t.tile = s.tile)
        ∧ (f.pred = 0 → f.mod = 0 → (s.grp g).uOk f.a.toNat = true → (s.grp g).uOk f.b.toNat = true →
          ((s.grp g).uni f.a.toNat).toNat % 128 = 0 → (s.grp g).uni f.b.toNat = 0 → Does (.pfence g f) s fun t =>
            t.grp g = { s.grp g with pc := (s.grp g).pc + 8 } ∧ OnlyLaneMem g s t ∧ t.tile = s.tile)
        ∧ (f.pred = 0 → f.mod = 0 → f.a = 0 → f.b = 0 → f.c = 0 → Does (.tfence g f) s fun t =>
            t.grp g = { s.grp g with pc := (s.grp g).pc + 8 } ∧ (t.core g.core.val).l1 = []
              ∧ (∀ k, 2 ^ 33 ≤ k → k < 2 ^ 34 → (t.cline xlIx k).st = .i)
              ∧ (∀ h k, h ≠ xlIx ∨ k < 2 ^ 33 → k < 2 ^ 34 → t.cline h k = s.cline h k) ∧ t.dram = s.dram ∧ t.tile = s.tile))
  ∧ (
      ∀ (c : CoreIx) (s : State) (e : MergeEnt), s.up (coreSite c.val) = true → (s.core c.val).mbuf = [e] →
        tileServes s c.val (e.line * 128) → Does (.mergeBufferTimeout c (BitVec.ofNat 41 e.line)) s fun t =>
          (t.core c.val).mbuf = []
            ∧ (∀ b, b < 128 → t.tileByte (e.line * 128 + b)
                = if e.en.getLsbD b then byteNo e.val.data.toNat b else s.tileByte (e.line * 128 + b))
            ∧ (∀ a, tileBase ≤ a → a / 128 ≠ e.line → t.tileByte a = s.tileByte a)
            ∧ t = { s with cores := t.cores, tile := t.tile, tileBad := t.tileBad, resp := t.resp, hold := false }
            ∧ (∀ h, t.grp h = s.grp h))

/-! ## The matrix and vector engines -/

/--
- R223, R227 to R240, R247, R249: MMA and MMAZ in every legal form: each element of the accumulator tile is what its row
  and column give it, computed alone; no other byte of the accumulator memory and no byte of the operand cache changes; the
  chain length of a fast-class tile grows by K; the instruction, its beats and its products are counted.
- R232, R234: in an INT8 product an element is the old value plus its products, saturated to 32 bits after each chunk of 32. -/
def Obligations.MatrixAndIntegerProducts : Prop :=
  (
      ∀ (zero : Bool) (g : GroupRef) (f : Fields) (s : State) (o : MmaOps), engineReady s g f → mmaOk (s.grp g) f = true →
        mmaOps (s.grp g) f zero = some o →
        Does (if zero then .mmaz g f else .mma g f) s fun t =>
          let c := g.core.val
          let k := s.core c
          let len := if zero then 0 else s.chain c o.d
          (∀ i j, i < o.shape.m → j < o.shape.n →
            bytesLE (t.core c).acc (o.d + (i * o.shape.n + j) * o.ty.size) o.ty.size
              = bytesLE (mmaAlone s c o len i j).core.acc (o.d + (i * o.shape.n + j) * o.ty.size) o.ty.size)
          ∧ AccKept k (t.core c) o.d (o.shape.m * o.shape.n * o.ty.size) ∧ (t.core c).opc = k.opc
          ∧ (o.ty ≠ .long → t.chain c o.d = min (len + o.shape.k) (2 ^ 32 - 1))
          ∧ t.fld (R.mxCntInstr c) F.mxCntInstr_instr = (s.fld (R.mxCntInstr c) F.mxCntInstr_instr + 1) % 2 ^ 64
          ∧ t.fld (R.mxCntMac c) F.mxCntMac_macs
              = (s.fld (R.mxCntMac c) F.mxCntMac_macs + o.shape.m * o.shape.n * o.shape.k) % 2 ^ 64
          ∧ t.grp g = { s.grp g with pc := (s.grp g).pc + 8 } ∧ OnlyEngine g s t)
  ∧ (
      ∀ (zero : Bool) (g : GroupRef) (f : Fields) (s : State) (o : MmaOps) (i j : Nat), engineReady s g f →
        mmaOk (s.grp g) f = true → mmaOps (s.grp g) f zero = some o → o.fa = ⟨.i8, false⟩ → o.fb = ⟨.i8, false⟩ →
        i < 64 → j < 64 →
        Does (if zero then .mmaz g f else .mma g f) s fun t =>
          let k := s.core g.core.val
          let a := o.d + (i * 64 + j) * 4
          let sum (q : Nat) : Int := ((List.range 32).map fun r =>
            k.opcI8 (o.a + i * 64 + (q * 32 + r)) * k.opcI8 (o.b + j * 64 + (q * 32 + r))).sum
          signedOf 32 (bytesLE (t.core g.core.val).acc a 4)
            = sat32 (sat32 ((if zero then 0 else signedOf 32 (bytesLE k.acc a 4)) + sum 0) + sum 1))

/--
- R239, R244 to R246: ACCZ clears an accumulator tile and its chain length, ACCLD loads one from the operand cache with
  the chain length of its register, ACCAMAX writes the greatest magnitude of one to a uniform register.
- R241 to R243: ACCST converts an accumulator tile into the operand cache, transposed or not: each element of a format
  without block scales is its accumulator's value scaled and rounded once; the accumulator tile stays, bytes outside the
  output tile stay, and the status in the uniform register carries the tile's magnitude and whether it holds a NaN. -/
def Obligations.AccumulatorMovesAndStores : Prop :=
  (
      ∀ (g : GroupRef) (f : Fields) (s : State) (ty : AccTy), engineReady s g f → AccTy.ofCode f.typ = some ty →
        let x := s.grp g
        let c := g.core.val
        let k := s.core c;
        (noFmtWord f = true → f.a = 0 → f.b = 0 → x.uOk f.dst.toNat = true → ty.placed (x.off f.dst) = true →
          Does (.accz g f) s fun t =>
            (∀ b, b < ty.bytes → (t.core c).accByte (x.off f.dst + b) = 0) ∧ AccKept k (t.core c) (x.off f.dst) ty.bytes
              ∧ (t.core c).opc = k.opc ∧ t.chain c (x.off f.dst) = 0
              ∧ t.grp g = { x with pc := x.pc + 8 } ∧ OnlyEngine g s t)
        ∧ (∀ m, f.low = 0 → accOk x f = true → MxFmt.ofCode (bits (fmtWord x f) 0 4) = some m →
          bits (fmtWord x f) 11 5 = 0 → accldOk ty m = true → ty.placed (x.off f.dst) = true →
          tilePlaced (x.off f.a) (m.tileBytes ty.dim ty.dim) = true →
          Does (.accld g f) s fun t =>
            (∀ i, i < ty.dim * ty.dim → bytesLE (t.core c).acc (x.off f.dst + i * ty.size) ty.size
              = (ty.fmt.round 0 true 0 m.fmt.isInt (m.fmt.decode (elemCode k.opc (x.off f.a) m.fmt.width i))).1)
              ∧ AccKept k (t.core c) (x.off f.dst) ty.bytes ∧ (t.core c).opc = k.opc
              ∧ t.chain c (x.off f.dst) = x.off f.b % 2 ^ 32 ∧ t.grp g = { x with pc := x.pc + 8 } ∧ OnlyEngine g s t)
        ∧ (noFmtWord f = true → f.b = 0 → x.uOk f.dst.toNat = true → x.uOk f.a.toNat = true → ty.placed (x.off f.a) = true →
          Does (.accamax g f) s fun t =>
            UniGets x (t.grp g) true f.dst.toNat (fun w => w = Word.of (if ty = .i32 then amaxCode ty (accMax k ty (x.off f.a))
              else (Fmt.f64.round 0 true 0 false (accMax k ty (x.off f.a))).1))
              ∧ (t.core c).acc = k.acc ∧ (t.core c).opc = k.opc ∧ OnlyEngine g s t))
  ∧ (
      ∀ (g : GroupRef) (f : Fields) (s : State) (ty : AccTy) (m : MxFmt), engineReady s g f → AccTy.ofCode f.typ = some ty →
        let x := s.grp g
        let c := g.core.val
        let k := s.core c
        let w := fmtWord x f
        let d := ty.dim;
        f.low ≤ 4 → accOk x f = true → MxFmt.ofCode (bits w 0 4) = some m → bits w 11 5 = 0 → accstOk ty m = true →
        (m.mx = true → bits w 16 8 = 127) → ty.placed (x.off f.a) = true → tilePlaced (x.off f.b) (m.tileBytes d d) = true →
        Does (.accst g f) s fun t =>
          (m.mx = false → ∀ i j, i < d → j < d →
            let idx := if decide (bits w 10 1 = 1) then j * d + i else i * d + j
            let byte := x.off f.b + idx * m.fmt.width / 8
            elemCode (t.core c).opc (x.off f.b) m.fmt.width idx
              = (m.fmt.round f.low (decide (bits w 9 1 = 1))
                  (srDraw (s.reg (R.srSeed c)) (srKey 2 byte) (Word.of (bits w 32 32))) ty.fmt.isInt
                  (scaleBy (accVal k ty (x.off f.a) (i * d + j)) (bits w 16 8) false)).1)
          ∧ OpcKept k (t.core c) (x.off f.b) (m.tileBytes d d) ∧ (t.core c).acc = k.acc
          ∧ UniGets x (t.grp g) true f.dst.toNat (fun u =>
              u.toNat % 2 ^ 32 = amaxCode ty (accMax k ty (x.off f.a)) % 2 ^ 32
                ∧ u.getLsbD 45 = (accMax k ty (x.off f.a)).isNan)
          ∧ OnlyEngine g s t)

/-- R248, R250 to R252: LSZ empties the records of a long tile, LSST copies it to the operand cache, LSADD merges records
of the operand cache into it, and a record that is none of VERSION 1 makes its element NaN and sets BAD_RECORD; LSRND
rounds each record once. -/
def Obligations.LongTiles : Prop :=
  ∀ (g : GroupRef) (f : Fields) (s : State), engineReady s g f → f.typ = 0 → f.b = 0 →
    let x := s.grp g
    let c := g.core.val
    let k := s.core c
    let d := x.off f.dst
    let a := x.off f.a;
    x.uOk f.dst.toNat = true → AccTy.long.placed d = true →
    (noFmtWord f = true → f.a = 0 → Does (.lsz g f) s fun t =>
      (∀ i, i < 256 → recAt (t.core c).acc d i = {}) ∧ AccKept k (t.core c) d longBytes ∧ (t.core c).opc = k.opc
        ∧ t.grp g = { x with pc := x.pc + 8 } ∧ OnlyEngine g s t)
    ∧ (noFmtWord f = true → x.uOk f.a.toNat = true → tilePlaced a longBytes = true → Does (.lsst g f) s fun t =>
      (∀ b, b < longBytes → (t.core c).opcByte (a + b) = k.accByte (d + b)) ∧ OpcKept k (t.core c) a longBytes
        ∧ (t.core c).acc = k.acc ∧ t.grp g = { x with pc := x.pc + 8 } ∧ OnlyEngine g s t)
    ∧ (noFmtWord f = true → x.uOk f.a.toNat = true → a + longBytes ≤ opcSize → Does (.lsadd g f) s fun t =>
      (∀ i, i < 256 → recAt (t.core c).acc d i
        = ((recAt k.acc d i).mergeImage (bytesLE k.opc (a + i * recSize) recSize)).1)
        ∧ AccKept k (t.core c) d longBytes ∧ (t.core c).opc = k.opc
        ∧ Sticky' s t (R.mxFlags c) F.mxFlags_badRecord ((List.range 256).any fun i =>
            ((recAt k.acc d i).mergeImage (bytesLE k.opc (a + i * recSize) recSize)).2)
        ∧ t.grp g = { x with pc := x.pc + 8 } ∧ OnlyEngine g s t)
    ∧ (∀ m, f.low < 4 → fmtWordOk x f = true → x.uOk f.a.toNat = true → MxFmt.ofCode (bits (fmtWord x f) 0 4) = some m →
      bits (fmtWord x f) 11 5 = 0 → (m.fmt = .f32 ∨ m.fmt = .f64) → tilePlaced a (m.tileBytes 16 16) = true →
      Does (.lsrnd g f) s fun t =>
        (∀ i j, i < 16 → j < 16 →
          elemCode (t.core c).opc a m.fmt.width (if decide (bits (fmtWord x f) 10 1 = 1) then j * 16 + i else i * 16 + j)
            = ((recAt k.acc d (i * 16 + j)).round m.fmt f.low).1)
          ∧ OpcKept k (t.core c) a (m.tileBytes 16 16) ∧ (t.core c).acc = k.acc
          ∧ t.grp g = { x with pc := x.pc + 8, dsum := (t.grp g).dsum } ∧ OnlyEngine g s t)

/--
- R317, R318, R319, R329: VADD to VMAX compute each unmasked element in the compute type of their operands and convert it
  once; VAND to VXOR act on integers, or on masks bit by bit; masked-off elements and all other bytes stay.
- R317 to R319, R330: VCMP writes one bit per unmasked element, VSEL takes each element from one of two sources, and VCVT
  converts each unmasked element once; an MX destination takes a scale for each block with an unmasked element. -/
def Obligations.VectorArithmeticAndMoves : Prop :=
  (
      ∀ (o : VOp) (g : GroupRef) (f : Fields) (s : State) (d a b : VDesc) (mask : Option VDesc),
        vReady s g f { b := true, mask := true, m3 := true } →
        let x := s.grp g
        let k := s.core g.core.val
        let fs := if f.m3 then [d.fmt, a.fmt] else [d.fmt, a.fmt, b.fmt];
        x.desc f.dst.toNat = some d → x.desc f.a.toNat = some a → secondDesc x f a = some b → vMask x f a = some mask →
        d.n = a.n → b.n = a.n → d.apart (a :: b :: maskSrc mask) = true →
        (∀ ct df, computeType fs = some ct → d.fmt = .num df → (o.isLogic = true → ct.isInt = true) →
          Does (o.instr g f) s fun t =>
            DestGets k (t.core g.core.val) d (maskBit mask k.opc) (fun e =>
              let r := (o.eval ct.width f.low (a.val k.opc e) (secondVal x f k ct b e) (d.val k.opc e)).1
              (df.round f.low f.ieee 0 ct.isInt (inType ct f.low r).1).1) ∧ VePass g s t)
        ∧ (o.isLogic = true → (∀ q ∈ fs, q = .mask) → Does (o.instr g f) s fun t =>
            DestGets k (t.core g.core.val) d (maskBit mask k.opc) (fun e =>
              o.logic (a.code k.opc e) (if f.m3 then (x.uni f.b.toNat).toNat % 2 else b.code k.opc e)) ∧ VePass g s t))
  ∧ (
      ∀ (g : GroupRef) (f : Fields) (s : State) (d a : VDesc) (mask : Option VDesc),
        let x := s.grp g
        let k := s.core g.core.val;
        x.desc f.dst.toNat = some d → x.desc f.a.toNat = some a → vMask x f a = some mask → d.n = a.n →
        (∀ b ct, vReady s g f { b := true, mask := true, m3 := true, low := 6 } → secondDesc x f a = some b → b.n = a.n →
          computeType (if f.m3 then [a.fmt] else [a.fmt, b.fmt]) = some ct → d.fmt = .mask →
          d.apart (a :: b :: maskSrc mask) = true → Does (.vcmp g f) s fun t =>
            DestGets k (t.core g.core.val) d (maskBit mask k.opc)
              (fun e => b2n (Val.cmp f.low (a.val k.opc e) (secondVal x f k ct b e))) ∧ VePass g s t)
        ∧ (∀ b q, vReady s g f { b := true, c := true } → x.desc f.b.toNat = some b → x.desc f.c.toNat = some q →
          b.n = a.n → q.n = a.n → q.fmt = .mask → d.apart [a, b, q] = true →
          let pick (e : Nat) : VDesc := if q.code k.opc e = 1 then a else b;
          (∀ ct df, computeType [d.fmt, a.fmt, b.fmt] = some ct → d.fmt = .num df → Does (.vsel g f) s fun t =>
            DestGets k (t.core g.core.val) d (fun _ => true) (fun e =>
              (df.round f.low f.ieee 0 ct.isInt (inType ct f.low ((pick e).val k.opc e)).1).1) ∧ VePass g s t)
          ∧ (d.fmt = .mask → a.fmt = .mask → b.fmt = .mask → Does (.vsel g f) s fun t =>
            DestGets k (t.core g.core.val) d (fun _ => true) (fun e => (pick e).code k.opc e) ∧ VePass g s t))
        ∧ (vReady s g f { b := decide (f.low = 4), mask := true, low := 4 } → a.fmt ≠ .mask →
          d.apart (a :: maskSrc mask) = true →
          (∀ df, d.fmt = .num df → Does (.vcvt g f) s fun t =>
            DestGets k (t.core g.core.val) d (maskBit mask k.opc) (fun e =>
              (df.round (s.veMode g.core.val f.low) f.ieee (s.veDraw g.core.val d (x.uni f.b.toNat) e) a.fmt.isInt
                (a.val k.opc e)).1) ∧ VePass g s t)
          ∧ (∀ m, d.fmt = .mx m → Does (.vcvt g f) s fun t =>
            (∀ blk, blk < d.n / 32 → ((elems a.n mask k.opc).filter (fun e => decide (e / 32 = blk))) ≠ [] →
              bytesLE (t.core g.core.val).opc (d.scaleAt (blk * 32)) 1
                = blockScale m (((elems a.n mask k.opc).filter (fun e => decide (e / 32 = blk))).map (a.val k.opc)) % 256)
            ∧ (∀ e, e < d.n → maskBit mask k.opc e = false → d.code (t.core g.core.val).opc e = d.code k.opc e)
            ∧ (∀ b, ¬ d.holds b → (t.core g.core.val).opcByte b = k.opcByte b) ∧ (t.core g.core.val).acc = k.acc
            ∧ VePass g s t)))

/--
- R335 to R338: over unmasked elements an integer VRSUM or VRDOT writes the exact sum saturated to INT64 and a float one the
  fixed-order sum, or NaN where an operand is NaN; VRMAX to VRARGMIN write an extreme element or the lowest index that holds
  it; VRAND to VRXOR combine words or mask bits; VANY to VFIRST summarize a mask.
- R339 to R341: every scan of integers writes the exact running sums, saturated to the destination, and its carry; a
  segmented scan starts anew at every start bit, an exclusive one writes the sum before each element. A scan of floats writes
  the sums of the strips in their fixed order. -/
def Obligations.VectorReductionsAndScans : Prop :=
  (
      ∀ (g : GroupRef) (f : Fields) (s : State) (a : VDesc) (mask : Option VDesc),
        let x := s.grp g
        let k := s.core g.core.val
        let es := elems a.n mask k.opc
        let live := es.filter (fun e => !(a.val k.opc e).isNan);
        x.desc f.a.toNat = some a → vMask x f a = some mask →
        (∀ (dot : Bool) b ct, vReady s g f { b := dot, mask := true } → (if dot then x.desc f.b.toNat else some a) = some b →
          b.n = a.n → computeType [a.fmt, b.fmt] = some ct →
          Does (if dot then .vrdot g f else .vrsum g f) s fun t => VeWord g s t f.dst.toNat fun w =>
            (ct.isInt = true → w.toInt = cutTo 64 ((es.map fun e =>
              (a.val k.opc e).toInt * (if dot then (b.val k.opc e).toInt else 1)).sum))
            ∧ (ct.isInt = false → (∃ e ∈ es, (a.val k.opc e).isNan = true ∨ (dot = true ∧ (b.val k.opc e).isNan = true)) →
                w = Word.of ct.nanCode)
            ∧ (ct.isInt = false → (∀ e ∈ es, (a.val k.opc e).isNan = false ∧ (dot = true → (b.val k.opc e).isNan = false)) →
                w = resultWord ct ((floatSum ct f.low es
                  (fun e => if dot then Val.mul (a.val k.opc e) (b.val k.opc e) else (a.val k.opc e, none))
                  (fun e v => if dot then Val.fma f.low (a.val k.opc e) (b.val k.opc e) v
                    else Val.add f.low v (a.val k.opc e))).val.getD (.zero false))))
        ∧ (∀ (max arg : Bool) ct, vReady s g f { mask := true } → computeType [a.fmt] = some ct →
          Does (if max then (if arg then .vrargmax g f else .vrmax g f) else (if arg then .vrargmin g f else .vrmin g f)) s
            fun t => VeWord g s t f.dst.toNat fun w =>
              (∀ e ∈ live, (∀ e' ∈ live, (if max then (a.val k.opc e).below (a.val k.opc e')
                  else (a.val k.opc e').below (a.val k.opc e)) = false ∧ (e' < e → (if max then (a.val k.opc e').below (a.val k.opc e)
                  else (a.val k.opc e).below (a.val k.opc e')) = true)) →
                w = if arg then Word.of e else resultWord ct (a.val k.opc e))
              ∧ (live = [] → arg = true → w = Word.of (2 ^ 64 - 1))
              ∧ (live = [] → arg = false → w = if es = [] then resultWord ct (emptyExtreme ct max) else Word.of ct.nanCode))
        ∧ (∀ o : VOp, o.isLogic = true → vReady s g f { mask := true } → (a.fmt = .mask ∨ a.fmt.isInt = true) →
          Does (if o = .and then .vrand g f else if o = .or then .vror g f else .vrxor g f) s fun t =>
            VeWord g s t f.dst.toNat fun w => ∀ i, i < 64 → (a.fmt = .mask → es ≠ [] → i = 0) →
              w.getLsbD i = (es.foldl (fun r e => o.logic r (wrapBits 64 (a.val k.opc e).toInt))
                (if o = .and then 2 ^ 64 - 1 else 0)).testBit i)
        ∧ (vReady s g f {} → a.fmt = .mask →
          let ones := (upTo a.n).filter (fun e => decide (a.code k.opc e = 1));
          (Does (.vany g f) s fun t => VeWord g s t f.dst.toNat (fun w => w = if ones = [] then 0 else 1))
          ∧ (Does (.vall g f) s fun t => VeWord g s t f.dst.toNat (fun w => w = if ones.length = a.n then 1 else 0))
          ∧ (Does (.vcount g f) s fun t => VeWord g s t f.dst.toNat (fun w => w.toNat = ones.length))
          ∧ (Does (.vfirst g f) s fun t => VeWord g s t f.dst.toNat (fun w =>
              (∀ e ∈ ones, (∀ e' ∈ ones, e ≤ e') → w.toNat = e) ∧ (ones = [] → w.toNat = 2 ^ 64 - 1)))))
  ∧ (
      ∀ (seg excl : Bool) (g : GroupRef) (f : Fields) (s : State) (d a q : VDesc) (df ct : Fmt),
        let x := s.grp g
        let k := s.core g.core.val
        let start (e : Nat) : Bool := seg && decide (q.code k.opc e = 1)
        let carry : Int := if f.m3 then (scalarOf ct (x.uni f.b.toNat)).toInt else 0
        let sum := scanSum (fun e => (a.val k.opc e).toInt) start carry
        let before := scanBefore (fun e => (a.val k.opc e).toInt) start carry
        let strips := scanAll ct f.low ((a.n + 63) / 64) (if f.m3 then some (scalarOf ct (x.uni f.b.toNat)) else none)
          ((upTo a.n).map (fun e => ⟨a.val k.opc e, start e, {}, none⟩));
        vReady s g f { b := true, c := seg, m3 := true } → x.desc f.dst.toNat = some d → x.desc f.a.toNat = some a →
        (if seg then x.desc f.c.toNat else some a) = some q → computeType [d.fmt, a.fmt] = some ct → d.fmt = .num df →
        d.n = a.n → q.n = a.n → (seg = true → q.fmt = .mask) → d.apart [a, q] = true →
        Does (if seg then (if excl then .vsscanx g f else .vsscan g f) else (if excl then .vscanx g f else .vscan g f)) s
          fun t =>
            (ct.isInt = true → DestGets k (t.core g.core.val) d (fun _ => true)
              (fun e => wrapBits df.width (cutTo df.width (if excl then before e else sum e))))
            ∧ (ct.isInt = false → excl = false → DestGets k (t.core g.core.val) d (fun _ => true)
              (fun e => (df.round f.low f.ieee 0 false ((strips.map ScanEl.val).getD e .nan)).1))
            ∧ (∀ b, ¬ d.holds b → (t.core g.core.val).opcByte b = k.opcByte b) ∧ (t.core g.core.val).acc = k.acc
            ∧ UniGets x (t.grp g) true f.b.toNat (fun w => ct.isInt = true → w.toInt = cutTo ct.width (sum (a.n - 1)))
            ∧ VeDone g s t)

/-- R345 to R349: VSF evaluates the slot of the active bank for each unmasked element; a slot that is not valid gives NaN.
R352: VTLOAD takes the images of the named slots and leaves the active bank; when its copy ends, the banks switch, the named
slots hold the images and the others what the old active bank held. R353: SWITCH and a write of TBL_DATA act on the banks,
or are ignored and counted while a copy runs. -/
def Obligations.TableBanks : Prop :=
  (∀ (g : GroupRef) (f : Fields) (s : State) (d a : VDesc) (mask : Option VDesc) (df : Fmt),
    let x := s.grp g
    let c := g.core.val
    let k := s.core c
    let slot := (x.uni f.b.toNat).toNat % 16;
    vReady s g f { b := true, mask := true, low := 4 } → k.tblLoad = none → x.desc f.dst.toNat = some d →
    x.desc f.a.toNat = some a → vMask x f a = some mask → d.fmt = .num df → d.n = a.n → d.apart (a :: maskSrc mask) = true →
    a.fmt.isFloat = true → a.fmt ≠ .num .f64 → df.isInt = false → df ≠ .f64 →
    ∃ free : Nat → Nat, Does (.vsf g f) s fun t => VePass g s t
      ∧ (t.core c).tbl = k.tbl ∧ (t.core c).tblBank = k.tblBank
      ∧ DestGets k (t.core c) d (maskBit mask k.opc) (fun e =>
          let y : Val := match k.slotHead k.tblBank slot with
            | none => .nan
            | some h => (k.sfEval k.tblBank slot h (free e) (a.val k.opc e)).val
          (df.round (s.veMode c f.low) f.ieee (s.veDraw c d (x.uni f.b.toNat) e) false
            (if flushes df y then .zero false else y)).1))
  ∧ (∀ (g : GroupRef) (f : Fields) (s : State),
    let x := s.grp g
    let c := g.core.val
    let k := s.core c
    let a := x.off f.a
    let named (i : Nat) : Bool := (x.uni f.b.toNat).getLsbD i;
    vReady s g f { d := false, b := true } → k.tblLoad = none → a % 64 = 0 →
    (∀ i, i < 16 → named i = true → a + (i + 1) * 4160 ≤ opcSize) →
    Does (.vtload g f) s fun t => VePass g s t ∧ (t.core c).tbl = k.tbl ∧ (t.core c).tblBank = k.tblBank
      ∧ (t.core c).opc = k.opc ∧ (t.core c).acc = k.acc
      ∧ Does (.vtloadCopyEnd g.core) t fun u =>
          (u.core c).tblBank = !k.tblBank ∧ (u.core c).tblLoad = none
          ∧ (∀ i w, i < 16 → w < slotWords → (u.core c).tblWord (!k.tblBank) i w
              = if named i then imageWord k a i w else k.tblWord k.tblBank i w)
          ∧ (∀ i w, i < 16 → w < slotWords → (u.core c).tblWord k.tblBank i w = k.tblWord k.tblBank i w))
  ∧ (∀ (m : Master) (c : CoreIx) (v : Word) (s : State), passes s m (R.tblData c.val) = true →
    (s.core c.val).tblLoad = none →
    let k := s.core c.val
    let i := s.fld (R.tblAddr c.val) F.tblAddr_slot
    let w := s.fld (R.tblAddr c.val) F.tblAddr_word;
    i < 16 → w < slotWords →
    Does (.tblDataWrite m c v) s fun t => (t.core c.val).tblWord (!k.tblBank) i w = v
      ∧ (t.core c.val).tblBank = k.tblBank
      ∧ (∀ b j u, j < 16 → u < slotWords → (b ≠ (!k.tblBank) ∨ j ≠ i ∨ u ≠ w) →
          (t.core c.val).tblWord b j u = k.tblWord b j u)
      ∧ RegsKept s t [R.tblAddr c.val] ∧ t = { s with cores := t.cores, regs := t.regs, resp := t.resp, hold := false })
  ∧ (∀ (m : Master) (c : CoreIx) (s : State), passes s m (R.tblCtrl c.val) = true →
    Does (.switch m c) s fun t =>
      (t.core c.val).tblBank = (if (s.core c.val).tblLoad = none then !(s.core c.val).tblBank else (s.core c.val).tblBank)
      ∧ (t.core c.val).tbl = (s.core c.val).tbl
      ∧ t.fld (R.veCntTblRej c.val) F.veCntTblRej_rejected = min (s.fld (R.veCntTblRej c.val) F.veCntTblRej_rejected
          + (if (s.core c.val).tblLoad = none then 0 else 1)) (2 ^ 32 - 1)
      ∧ RegsKept s t [R.veCntTblRej c.val]
      ∧ t = { s with cores := t.cores, regs := t.regs, resp := t.resp, hold := false })

/-- R355 to R360: in VMOMENTS, VLNORM and VRMSNORM a row with a NaN or an infinity gives the canonical NaN in every output,
and any other row what its moments give; VSMAX gives NaN over a row with a NaN, +0 over a row with no unmasked element, and
writes the counts of such rows. -/
def Obligations.NormalizationAndSoftmax : Prop :=
  ∀ (g : GroupRef) (f : Fields) (s : State) (d a : VDesc),
    let x := s.grp g
    let c := g.core.val
    let k := s.core c;
    x.desc f.dst.toNat = some d → x.desc f.a.toNat = some a → d.rows = a.rows →
    (∀ df af, vReady s g f {} → d.fmt = .num df → df.isInt = false → a.fmt = .num af → af.isInt = false → d.len = 2 →
      d.apart [a] = true → Does (.vmoments g f) s fun t => VePass g s t
        ∧ DestGets k (t.core c) d (fun _ => true) (fun e =>
            let r := e / 2
            let ct := normType af
            let q := moments ct false (a.row k.opc r)
            let w : Wide := if e % 2 = 0 then (⟨q.s, false⟩ : Wide).add ct q.m else q.var
            if rowBad (a.row k.opc r) then (df.round f.low f.ieee 0 false .nan).1
            else (df.round f.low f.ieee 0 false (inType ct 0 w.val).1).1))
    ∧ (∀ (rms : Bool) df af, vReady s g f { b := true } → d.fmt = .num df → df.isInt = false → a.fmt = .num af →
      af.isInt = false → d.len = a.len → d.apart [a] = true →
      Does (if rms then .vrmsnorm g f else .vlnorm g f) s fun t => VePass g s t
        ∧ DestGets k (t.core c) d (fun _ => true) (fun e =>
            let xs := a.row k.opc (e / a.len)
            let ct := normType af
            let e0 := scalarOf ct (x.uni f.b.toNat)
            let eps : Val := if e0.isNan || (e0.isNeg && !e0.eq (.zero false)) then .zero false else e0.abs
            let q := moments ct rms xs
            let r := (q.var.add ct ⟨eps, false⟩).rsqrt ct
            let v := a.val k.opc e
            let fac : Wide := if rms then ⟨v, false⟩ else (toWide ct (Val.add 0 v q.s.neg).1 false).sub ct q.m
            if rowBad xs then (df.round f.low f.ieee 0 false .nan).1
            else (df.round f.low f.ieee 0 false (inType ct 0 (normOut ct r fac none none).1.val).1).1))
    ∧ (∀ mask df af, vReady s g f { b := true, mask := true } → smaxFmt d.fmt = some df → smaxFmt a.fmt = some af →
      vMask x f a = some mask → d.len = a.len → d.apart (a :: maskSrc mask) = true →
      let live (r : Nat) := ((upTo a.len).map (fun i => r * a.len + i)).filter (maskBit mask k.opc)
      let nan (r : Nat) := (live r).any fun e => (a.val k.opc e).isNan
      let hot (r : Nat) := !nan r && (live r).any fun e => decide (a.val k.opc e = .inf false)
      let empty (r : Nat) := !nan r && (live r).all fun e => decide (a.val k.opc e = .inf true);
      Does (.vsmax g f) s fun t => VeDone g s t
        ∧ (∀ e, e < a.n → nan (e / a.len) = true →
            d.code (t.core c).opc e = (df.round f.low f.ieee 0 false .nan).1 % 2 ^ d.fmt.width)
        ∧ (∀ e, e < a.n → empty (e / a.len) = true → d.code (t.core c).opc e = 0)
        ∧ (∀ e, e < a.n → nan (e / a.len) = false → maskBit mask k.opc e = false → d.code (t.core c).opc e = 0)
        ∧ (∀ b, ¬ d.holds b → (t.core c).opcByte b = k.opcByte b) ∧ (t.core c).acc = k.acc
        ∧ UniGets x (t.grp g) true f.b.toNat (fun w =>
            w.toNat % 2 ^ 16 = ((upTo a.rows).filter empty).length
            ∧ w.toNat / 2 ^ 16 % 2 ^ 16 = ((upTo a.rows).filter nan).length
            ∧ w.toNat / 2 ^ 32 % 2 ^ 16 = ((upTo a.rows).filter hot).length))

/-- R342, R343: VLSZ empties a record, VSUMC and VDOTC enter each unmasked value or product in it, VLSADD merges a record into
it, and VLSRND rounds one once to a uniform register. -/
def Obligations.VectorLongSums : Prop :=
  ∀ (g : GroupRef) (f : Fields) (s : State),
    let x := s.grp g
    let c := g.core.val
    let k := s.core c
    let r := x.off f.dst
    let out (t : State) (v : LongSum) : Prop :=
      bytesLE (t.core c).opc r recSize = v.image % 2 ^ (8 * recSize) ∧ OpcKept k (t.core c) r recSize
        ∧ (t.core c).acc = k.acc ∧ VePass g s t;
    (vReady s g f { a := false } → recordOk r = true → Does (.vlsz g f) s fun t => out t {})
    ∧ (∀ (dot : Bool) a b mask, vReady s g f { b := dot, mask := true } → recordOk r = true →
      x.desc f.a.toNat = some a → (if dot then x.desc f.b.toNat else some a) = some b → vMask x f a = some mask →
      b.n = a.n → (a.fmt = .num .f32 ∨ a.fmt = .num .f64) → (b.fmt = .num .f32 ∨ b.fmt = .num .f64) →
      (a :: b :: maskSrc mask).all (fun q => !Rng.meets (r, recSize) q.span) = true →
      Does (if dot then .vdotc g f else .vsumc g f) s fun t =>
        let es := elems a.n mask k.opc
        let m := es.foldl (fun (p : LongSum) e =>
          p.enter (if dot then (Val.mul (a.val k.opc e) (b.val k.opc e)).1 else a.val k.opc e)) (k.record r)
        out t { m with terms := satTerms (m.terms + es.length) })
    ∧ (vReady s g f {} → recordOk r = true → recordOk (x.off f.a) = true →
      (x.off f.a = r ∨ Rng.meets (r, recSize) (x.off f.a, recSize) = false) →
      Does (.vlsadd g f) s fun t =>
        out t ((k.record r).mergeImage (bytesLE k.opc (x.off f.a) recSize)).1
          ∧ Sticky' s t (R.veFlags c) F.veFlags_badRecord ((k.record r).mergeImage (bytesLE k.opc (x.off f.a) recSize)).2)
    ∧ (vReady s g f { m3 := true } → recordOk (x.off f.a) = true → Does (.vlsrnd g f) s fun t =>
        VeDone g s t ∧ (t.core c).opc = k.opc ∧ (t.core c).acc = k.acc
          ∧ UniGets x { t.grp g with dsum := x.dsum } true f.dst.toNat
              (fun w => w = Word.of ((k.record (x.off f.a)).round (if f.m3 then .f64 else .f32) f.low).1))

/-- R373 to R380: VLSEL and VLUPD take a ledger entry, start it anew where it is lost, select a scale or record and close a
step, and answer its status. R383: VTSEL answers whether a step is sampled. R392 to R394: VMUPD adds to each unmasked master
weight and rounds once. -/
def Obligations.TrainingSupport : Prop :=
  ∀ (g : GroupRef) (f : Fields) (s : State),
    let x := s.grp g
    let c := g.core.val
    let k := s.core c
    let a := x.off f.a;
    (∀ p, vReady s g f { b := true, c := true, m3 := true, low := 0 } → f.ieee = false → a % 128 = 0 →
      a + entryBytes ≤ opcSize → LgPar.of (x.uni f.b.toNat) = some p →
      let e0 : Entry := ⟨bytesLE k.opc a entryBytes⟩
      let old := if e0.lost p then Entry.fresh p else e0
      let out (t : State) (e : Entry) : Prop :=
        bytesLE (t.core c).opc a entryBytes = e.img % 2 ^ 1024 ∧ OpcKept k (t.core c) a entryBytes
          ∧ (t.core c).acc = k.acc ∧ VeDone g s t
          ∧ t.fld (R.lgCnt c) F.lgCnt_lost = min (s.fld (R.lgCnt c) F.lgCnt_lost + b2n (e0.lost p)) (2 ^ 32 - 1);
      (Does (.vlsel g f) s fun t =>
        let n := old.select p f.m3 (Fmt.f64.decode (x.uni f.c.toNat).toNat)
        out t n.1 ∧ UniGets x (t.grp g) true f.dst.toNat (fun w => w = n.1.status n.2 (e0.lost p) false))
      ∧ (Does (.vlupd g f) s fun t =>
        let r := old.record (x.uni f.c.toNat)
        let e := if f.m3 then r.close else r
        out t e ∧ UniGets x (t.grp g) true f.dst.toNat
          (fun w => w = e.status false (e0.lost p) (f.m3 && decide (r.get Lg.curNan = 1)))))
    ∧ (vReady s g f { b := true, low := 0 } → f.ieee = false → Does (.vtsel g f) s fun t =>
        VeWord g s t f.dst.toNat (fun w => w = Word.of (b2n (s.flag (R.tsCtrl c) F.tsCtrl_enable
          && decide (((x.uni f.a.toNat).toNat % 2 ^ 32 + (x.uni f.b.toNat).toNat % 2 ^ 32)
            % 2 ^ s.fld (R.tsCtrl c) F.tsCtrl_k = 0)))))
    ∧ (∀ d q mask, vReady s g f { b := true, mask := true, low := 4 } → x.desc f.dst.toNat = some d →
      x.desc f.a.toNat = some q → vMask x f q = some mask → d.n = q.n → d.apart (q :: maskSrc mask) = true →
      d.fmt = .num .f32 → (q.fmt = .num .f32 ∨ q.fmt = .num .bf16 ∨ q.fmt = .num .f16) →
      let par := (x.uni f.b.toNat).toNat
      let tail := par % 2 ^ 20
      let pt := (2 * d.len + 63) / 64 * 64
      let at_ (e : Nat) := tail + e / d.len * pt + 2 * (e % d.len)
      let key := Word.of (par / 2 ^ 20)
      let sum (e : Nat) := masterRound (s.veMode c f.low) f.ieee
        (srDraw (s.reg (R.srSeed c)) (srKey 5 (d.rowBase e + 4 * (e % d.len))) key)
        (Val.add (s.veMode c f.low) (masterVal (d.code k.opc e) (bytesLE k.opc (at_ e) 2)) (q.val k.opc e)).1;
      tail % 64 = 0 → tail + d.rows * pt ≤ opcSize →
      (d :: q :: maskSrc mask).all (fun z => !Rng.meets (tail, d.rows * pt) z.span) = true →
      Does (.vmupd g f) s fun t => VePass g s t
        ∧ (∀ e, e < d.n → maskBit mask k.opc e = true →
            d.code (t.core c).opc e = (sum e).1 ∧ bytesLE (t.core c).opc (at_ e) 2 = (sum e).2.1)
        ∧ (∀ e, e < d.n → maskBit mask k.opc e = false →
            d.code (t.core c).opc e = d.code k.opc e ∧ bytesLE (t.core c).opc (at_ e) 2 = bytesLE k.opc (at_ e) 2)
        ∧ (∀ b, ¬ d.holds b → (b < tail ∨ tail + d.rows * pt ≤ b) → (t.core c).opcByte b = k.opcByte b)
        ∧ (t.core c).acc = k.acc)

/-- R384 to R388: VTCMP answers the relative error with WARN, ALARM and NONFINITE, counts the comparison, and changes no
operand. R387: REARM frees the touchstone record. R291, R308: a report of a created NaN is counted, and kept when the
sentinel's record is free; REARM frees that record. R305: SR_TEST_WRITE computes the generator's word. -/
def Obligations.TouchstoneAndSentinel : Prop :=
  (∀ (g : GroupRef) (f : Fields) (s : State) (a b : VDesc),
    let x := s.grp g
    let c := g.core.val
    let k := s.core c
    let sc : Int := if a.fmt.isMx then 0 else Int.ofNat (bits (x.uni f.c.toNat).toNat 32 8) - 127
    let as := (upTo a.n).map (fun e => (a.val k.opc e).scale sc)
    let bs := (upTo a.n).map (b.val k.opc)
    let nonfin := (as ++ bs).any (fun v => v.isNan || v.isInf)
    let r := if nonfin then Fmt.f32.nanCode else touchError as bs
    let atLeast (t : Nat) : Bool := (Fmt.f32.decode t).lt (Fmt.f32.decode r) || (Fmt.f32.decode t).eq (Fmt.f32.decode r)
    let warn := atLeast (s.fld (R.tsThr c) F.tsThr_warn)
    let alarm := atLeast (s.fld (R.tsThr c) F.tsThr_alarm) || nonfin;
    vReady s g f { b := true, c := true, low := 0 } → f.ieee = false → x.desc f.a.toNat = some a →
    x.desc f.b.toNat = some b → b.n = a.n → touchFmt a.fmt = true → (b.fmt = .num .f32 ∨ b.fmt = .num .f64) →
    ∃ t, exec (.vtcmp g f) s = .next t ∧ t.resp.status = .ok
      ∧ t.fld (R.tsCnt c) F.tsCnt_compared = (s.fld (R.tsCnt c) F.tsCnt_compared + 1) % 2 ^ 64
      ∧ t.fld (R.tsCntX c) F.tsCntX_warn = min (s.fld (R.tsCntX c) F.tsCntX_warn + b2n warn) (2 ^ 32 - 1)
      ∧ t.fld (R.tsCntX c) F.tsCntX_alarm = min (s.fld (R.tsCntX c) F.tsCntX_alarm + b2n alarm) (2 ^ 32 - 1)
      ∧ UniGets x (t.grp g) true f.dst.toNat
          (fun w => w = Word.of (r + b2n warn * 2 ^ 32 + b2n alarm * 2 ^ 33 + b2n nonfin * 2 ^ 34))
      ∧ t.reg (R.veFlags c) = s.reg (R.veFlags c) ∧ (t.core c).opc = k.opc ∧ (t.core c).acc = k.acc
      ∧ (∀ h, h ≠ g → t.grp h = s.grp h)
      ∧ t = { s with cores := t.cores, regs := t.regs, imsic := t.imsic, drawn := t.drawn, resp := t.resp, hold := false })
  ∧ (∀ (m : Master) (c : CoreIx) (s : State),
    (passes s m (R.tsCtrl c.val) = true → Does (.tsRearm m c) s fun t =>
      OnlyRegs s t [R.tsRec c.val 0] ∧ t.reg (R.tsRec c.val 0) = s.reg (R.tsRec c.val 0) &&& ~~~ 1)
    ∧ (passes s m (R.nsCtrl c.val) = true → Does (.nsRearm m c) s fun t =>
      OnlyRegs s t [R.nsRec c.val 0] ∧ t.reg (R.nsRec c.val 0) = s.reg (R.nsRec c.val 0) &&& ~~~ 1)
    ∧ (∀ (w : SrReg) (v : Word), passes s m (w.reg c.val) = true → Does (.srTestWrite m c w v) s fun t =>
      OnlyRegs s t [w.reg c.val, R.srTestOut c.val] ∧ t.reg (w.reg c.val) = v
        ∧ t.fld (R.srTestOut c.val) F.srTestOut_draw
          = srDraw (t.reg (R.srSeed c.val)) (t.reg (R.srTestK1 c.val)) (t.reg (R.srTestK2 c.val))))
  ∧ (∀ (c : CoreIx) (rep : NanReport) (s : State), s.up (coreSite c.val) = true → Does (.nanReport c rep) s fun t =>
    t.fld (R.nsCnt c.val) F.nsCnt_reports = min (s.fld (R.nsCnt c.val) F.nsCnt_reports + 1) (2 ^ 32 - 1)
      ∧ ((s.reg (R.nsRec c.val 0)).getLsbD 0 = true → OnlyRegs s t [R.nsCnt c.val])
      ∧ ((s.reg (R.nsRec c.val 0)).getLsbD 0 = false →
          let w := rep.words c.val (s.fld (R.wvClEpoch (coreCl c.val)) F.wvClEpoch_epoch) s.tick
          (∀ i, i < 4 → some (t.reg (R.nsRec c.val i)) = w[i]?)
            ∧ (t.core c.val).halted = (if s.fld (R.nsCtrl c.val) F.nsCtrl_action < 2 ∨ (s.core c.val).halted ≠ 0
                then (s.core c.val).halted else 2)
            ∧ (∀ h, t.grp h = s.grp h) ∧ (∀ d, d ≠ c.val → t.core d = s.core d)
            ∧ t = { s with cores := t.cores, regs := t.regs, imsic := t.imsic, resp := t.resp, hold := false }))

/-! ## Dies and links -/

/-- R17 to R21, R52, R54: a die out of reset whose straps and self-test are good accepts its site; the spindle admits a die
on its port when it answers what the port expects, and holds it otherwise, as it holds one that gives no answer. -/
def Obligations.DieEnumeration : Prop :=
  ∀ s : State,
    (∀ (site : Site) (x : DieFacts), s.mayRelease site.val = true → x.strapFault = 0 → x.selfTest = true →
      (site.val ≠ 0 → x.answers = true → Does (.dieResetRelease site x) s fun t =>
        t.die site.val = { facts := x, released := true, accepted := true } ∧ (∀ n, n ≠ site.val → t.die n = s.die n)
          ∧ t = { s with dies := t.dies, resp := t.resp, hold := false })
      ∧ (site.val = 0 → x.siteId = 0 → x.stepping = 4 → Does (.dieResetRelease site x) s fun t =>
        t.up 0 = true ∧ (∀ n, n ≠ 0 → t.die n = s.die n) ∧ t = { s with dies := t.dies, resp := t.resp, hold := false }))
    ∧ (∀ port : Port, s.up 0 = true →
      let d := s.die (port.val + 1);
      (d.released = true → d.admitted = false → Does (.enumerationAnswer port) s fun t =>
        (goodAnswer s port.val → t.die (port.val + 1) = { d with admitted := true, held := false }
          ∧ (t.fld R.dieHeld F.dieHeld_held).testBit (port.val + 1) = false ∧ OnlyRegs { s with dies := t.dies } t [R.dieHeld])
        ∧ (¬ goodAnswer s port.val →
          t.die (port.val + 1) = { d with held := true, released := false, accepted := false, admitted := false }
          ∧ (t.fld R.dieHeld F.dieHeld_held).testBit (port.val + 1) = true)
        ∧ (∀ n, n ≠ port.val + 1 → t.die n = s.die n) ∧ OnlyLinks s t)
      ∧ (d.released = false → d.held = false → d.out = false → Does (.enumResponseTimeout port) s fun t =>
        (t.die (port.val + 1)).held = true ∧ (t.die (port.val + 1)).mute = true
          ∧ (t.fld R.dieHeld F.dieHeld_held).testBit (port.val + 1) = true
          ∧ (∀ n, n ≠ port.val + 1 → t.die n = s.die n) ∧ OnlyLinks s t))

/-- R36 to R43: training starts with hellos; an end that hears the right site notes its peer's capabilities, the second one
tests the link, and a wrong site leaves it DOWN; commits that agree take an edge link into service, a commit that differs or
a step that takes too long starts the attempt again, and the third failure leaves the link DOWN. -/
def Obligations.LinkTraining : Prop :=
  ∀ (link : LinkId) (e : LinkEnd) (s : State),
    let l := link.ix
    let b := e.side
    let k := s.lnk l
    let again (t : State) : Prop := (t.lnk l).phase = .hello ∧ (t.lnk l).fails = k.fails + 1 ∧ linkShows t l 1
    let gone (t : State) : Prop := t.lnk l = { kick := true, upSinceReset := k.upSinceReset } ∧ linkShows t l 0;
    (∀ faults, k.phase = .down → k.kick = false → s.mayTrain l = true → Does (.linkTraining link faults) s fun t =>
      t.lnk l = { k with phase := .hello, full := true, fromService := false, kick := false, fails := 0, faults := faults,
                         endA := { k.endA with helloOk := false, commitOk := false, good := 0 }
                         endB := { k.endB with helloOk := false, commitOk := false, good := 0 } }
        ∧ linkShows t l 1 ∧ (∀ j, j ≠ l → t.lnk j = s.lnk j) ∧ OnlyLinks s t)
    ∧ (∀ h : Hello, k.phase = .hello → (k.atEnd b).helloOk = false →
      (h.siteId.toNat = linkSite l (!b) → Does (.hello link e h) s fun t =>
        ((k.atEnd (!b)).helloOk = false → t.lnk l = k.setEnd b { k.atEnd b with helloOk := true, peerCaps := h.caps })
        ∧ ((k.atEnd (!b)).helloOk = true → (t.lnk l).phase = .agree ∧ ((t.lnk l).atEnd b).peerCaps = h.caps)
        ∧ (∀ j, j ≠ l → t.lnk j = s.lnk j) ∧ OnlyLinks s t)
      ∧ (h.siteId.toNat ≠ linkSite l (!b) → linkFree s l → Does (.hello link e h) s fun t => gone t ∧ OnlyLinks s t))
    ∧ (∀ set : BitVec 32, k.phase = .agree → (k.atEnd b).commitOk = false →
      let mine := s.activeAt l b
      let ok := set.toNat = mine ∧ s.activeOk l mine = true;
      (ok → (k.atEnd (!b)).commitOk = false → Does (.widthCommit link e set) s fun t =>
        t.lnk l = k.setEnd b { k.atEnd b with commitOk := true } ∧ OnlyRegs { s with links := t.links } t [])
      ∧ (ok → (k.atEnd (!b)).commitOk = true → l < 8 → Does (.widthCommit link e set) s fun t =>
        (t.lnk l).phase = .service ∧ (t.lnk l).active.toNat = mine ∧ linkShows t l (if setSize mine 4 = 4 then 2 else 3)
          ∧ (∀ x, t.fld (R.edgeStat (edgeAt l x).1 (edgeAt l x).2) F.edgeStat_width = setSize mine 4) ∧ OnlyLinks s t)
      ∧ (¬ ok → k.fails < 2 → Does (.widthCommit link e set) s fun t => again t ∧ OnlyLinks s t)
      ∧ (¬ ok → 2 ≤ k.fails → linkFree s l → Does (.widthCommit link e set) s fun t => gone t ∧ OnlyLinks s t))
    ∧ ((k.phase = .hello ∨ k.phase = .agree) →
      (k.fails < 2 → Does (.trainingStepTimeout link) s fun t => again t ∧ OnlyLinks s t)
      ∧ (2 ≤ k.fails → linkFree s l → Does (.trainingStepTimeout link) s fun t => gone t ∧ OnlyLinks s t))

/--
- R37, R45, R59, R60, R65: RETRAIN takes a link in service through training again, RETRAIN_ALL every optical one; clearing
  ENABLE takes a link DOWN and setting it lets it train. R44, R46: a resend is counted, and more than 65,536 in a millisecond
  retrain the link.
- R33 to R35: a laser source shows its bias, power and ageing; an active one aged beyond SWAP_PCT gives way to the lowest
  standby source; a failed one is replaced, and with one usable source left LASER_SINGLE is set. -/
def Obligations.LinkUpkeepAndLasers : Prop :=
  (
      ∀ (m : Master) (s : State),
        let trains (l : Nat) (faults : LinkFaults) (t : State) : Prop :=
          ((s.lnk l).phase = .service → (t.lnk l).phase = .hello ∧ (t.lnk l).fromService = true ∧ linkShows t l 1)
            ∧ ((s.lnk l).phase = .hello ∨ (s.lnk l).phase = .agree → t.lnk l = { s.lnk l with faults := faults })
            ∧ (t.lnk l).faults = faults ∧ (∀ j, j ≠ l → t.lnk j = s.lnk j) ∧ OnlyLinks s t
        let enables (l : Nat) (old new : Bool) (t : State) : Prop :=
          (new = true → t.lnk l = (if old then s.lnk l else { s.lnk l with kick := false }))
            ∧ (new = false → old = true → t.lnk l = { upSinceReset := (s.lnk l).upSinceReset } ∧ linkShows t l 0) ∧ OnlyLinks s t;
        (∀ (n : Port) faults, passes s m (R.olCtrl n.val) = true → Does (.olRetrain m n faults) s (trains (n.val + 8) faults))
        ∧ (∀ (cd : Cd) (e : Fin 2) faults, passes s m (R.edgeCtrl cd.val e.val) = true →
          Does (.edgeRetrain m cd e faults) s (trains (edgeLink cd.val e.val) faults))
        ∧ (∀ (n : Port) (en : Bool), passes s m (R.olCtrl n.val) = true → linkFree s (n.val + 8) →
          Does (.olEnableWrite m n en) s fun t => t.flag (R.olCtrl n.val) F.olCtrl_enable = en
            ∧ enables (n.val + 8) (s.flag (R.olCtrl n.val) F.olCtrl_enable) en t)
        ∧ (∀ (cd : Cd) (e : Fin 2) (en : Bool), passes s m (R.edgeCtrl cd.val e.val) = true →
          Does (.edgeEnableWrite m cd e en) s fun t => t.flag (R.edgeCtrl cd.val e.val) F.edgeCtrl_enable = en
            ∧ enables (edgeLink cd.val e.val) (s.flag (R.edgeCtrl cd.val e.val) F.edgeCtrl_enable) en t)
        ∧ (∀ faults, passes s m R.linkCtrl = true → Does (.retrainAll m faults) s fun t =>
          (∀ n, n < 10 → (t.lnk (n + 8)).phase = if (s.lnk (n + 8)).phase = .service then .hello else (s.lnk (n + 8)).phase)
            ∧ OnlyLinks s t)
        ∧ (∀ (link : LinkId) (e : LinkEnd) (flit : Nat), (s.lnk link.ix).phase = .service →
          let k := s.lnk link.ix
          let b := e.side;
          (Does (.flitCrcFail link e flit) s fun t =>
            t.lnk link.ix = k.setEnd b { k.atEnd b with resends := (k.atEnd b).resends + 1 }
              ∧ (link.ix < 8 → t.fld (R.edgeErr (edgeAt link.ix b).1 (edgeAt link.ix b).2) F.edgeErr_crcRetry
                  = min (s.fld (R.edgeErr (edgeAt link.ix b).1 (edgeAt link.ix b).2) F.edgeErr_crcRetry + 1) (2 ^ 32 - 1))
              ∧ (∀ j, j ≠ link.ix → t.lnk j = s.lnk j) ∧ OnlyLinks s t)
          ∧ (∀ faults, (k.atEnd b).resends ≤ 2 ^ 16 → Does (.retryWindowClose link e faults) s fun t =>
            t.tick = max s.tick ((k.atEnd b).windowStart + ms)
              ∧ t.lnk link.ix = k.setEnd b { k.atEnd b with resends := 0, windowStart := (k.atEnd b).windowStart + ms }
              ∧ t = { s with tick := t.tick, links := t.links, resp := t.resp, hold := false })
          ∧ (∀ faults, 2 ^ 16 < (k.atEnd b).resends → Does (.retryWindowClose link e faults) s fun t =>
            t.tick = max s.tick ((k.atEnd b).windowStart + ms) ∧ (t.lnk link.ix).phase = .hello
              ∧ (t.lnk link.ix).faults = faults ∧ linkShows t link.ix 1 ∧ OnlyLinks { s with tick := t.tick } t)))
  ∧ (
      ∀ (k : Fin 4) (s : State),
        (∀ (bias power : BitVec 16) (ageing : BitVec 8), Does (.laserAgeing k bias power ageing) s fun t =>
          let swap := s.laserRole k.val = 1 ∧ s.fld R.laserThr F.laserThr_swapPct ≤ ageing.toNat
            ∧ s.flag R.laserThr F.laserThr_autoSwap = true ∧ ∃ j, j < 4 ∧ s.laserRole j = 0
          t.fld (R.laser k.val) F.laser_bias = bias.toNat ∧ t.fld (R.laser k.val) F.laser_power = power.toNat
            ∧ t.fld (R.laser k.val) F.laser_ageing = ageing.toNat
            ∧ (swap → t.laserRole k.val = 3 ∧ ∀ j, j < 4 → s.laserRole j = 0 → (∀ i, i < j → s.laserRole i ≠ 0) → t.laserRole j = 1)
            ∧ (¬ swap → ∀ j, j < 4 → t.laserRole j = s.laserRole j) ∧ OnlyLinks s t)
        ∧ (s.laserRole k.val ≠ 2 → (∃ j, j < 4 ∧ j ≠ k.val ∧ s.laserRole j ≠ 2) → Does (.laserFailure k) s fun t =>
          t.laserRole k.val = 2
            ∧ (∀ j, j < 4 → j ≠ k.val → t.laserRole j = s.laserRole j ∨ (s.laserRole k.val = 1 ∧ s.laserRole j = 0 ∧ t.laserRole j = 1))
            ∧ (s.laserRole k.val = 1 → s.flag R.laserThr F.laserThr_autoSwap = true → ∀ j, j < 4 → s.laserRole j = 0 →
                (∀ i, i < j → s.laserRole i ≠ 0) → t.laserRole j = 1)
            ∧ (t.flag R.linkCtrl F.linkCtrl_laserSingle = true ↔
                ((List.range 4).filter (fun j => decide (j ≠ k.val) && decide (s.laserRole j ≠ 2))).length = 1)
            ∧ OnlyLinks s t))

/-! ## Registers, interrupts, time and idle states -/

/--
- R12, R13, R69 to R72, R79, R84, R92 to R95: a load answers what its register holds and clears its RC fields; a store and
  an alias write change the fields they may change; a gate that is not met leaves the field, counts and captures the
  violation; an access of another size, to an undefined offset or to a die out of service has no effect on a register but its
  count.
- R103, R104: a write of a source entry keeps what is written; a pending source that is not masked and names a file of a
  die in service makes its identity pending there, and is no longer pending itself. -/
def Obligations.RegisterAccessAndInterrupts : Prop :=
  (
      ∀ (m : Master) (s : State),
        (∀ (a : Nat) (row : RegRow), reaches s m a row →
          let pa := BitVec.ofNat 48 (regSpace + a)
          let ungated := row.fields.all (fun f => !f.acc.gated (s.isPriv m) (s.isSecure m)) = true;
          (ungated → Does (.registerWrite m pa 8 .load) s fun t =>
            t.resp.data = [(readWord row.fields (s.isPriv m) (s.isSecure m) (s.regView a)).word]
              ∧ t.reg a = s.reg a &&& ~~~ clearMask row.fields ∧ RegsKept s t [a]
              ∧ t = { s with regs := t.regs, drawn := t.drawn, resp := t.resp, hold := false })
          ∧ (holdsWrites a → ungated → plainWritable row.fields = true → ∀ v : Word, (∀ f ∈ row.fields, f.acc ≠ .w1p) →
            Does (.registerWrite m pa 8 (.store v)) s fun t =>
              t.reg a = (writeWord row.fields (s.isPriv m) (s.isSecure m) 0 (s.reg a) v).word ∧ OnlyRegs s t [a])
          ∧ (holdsWrites a → ungated → aliasWritable row.fields = true → ∀ (kind : AliasKind) (v : Word),
            s.regOld a = s.reg a → Does (.aliasWrite m pa kind v) s fun t =>
              t.reg a = (writeWord row.fields (s.isPriv m) (s.isSecure m) kind.copy (s.reg a) v).word ∧ OnlyRegs s t [a])
          ∧ (∀ (f : Fld) (v : Word), row.fields = [f] → f.acc = .rwp → s.isPriv m = false → f.get v ≠ f.get (s.regOld a) →
            f.legal (f.get v) = true → holdsWrites a → Does (.registerWrite m pa 8 (.store v)) s fun t =>
              let site := a / 0x1_0000_0000
              (a ≠ R.violCnt site → a ≠ R.violFirst site → t.reg a = s.reg a)
                ∧ t.fld (R.violCnt site) F.violCnt_priv = min (s.fld (R.violCnt site) F.violCnt_priv + 1) (2 ^ 32 - 1)
                ∧ t.reg (R.violFirst site) = (if s.flag (R.violFirst site) F.violFirst_valid then s.reg (R.violFirst site)
                    else violWord m a true false false)))
        ∧ (∀ (a size : Nat) (acc : Access), a < 0x100_0000_0000 → filePage (a - a % 0x1000) = none → s.canIssue m = true →
          let site := a / 0x1_0000_0000
          let awake := ∀ cd, cd < 8 → site = cd + 1 → s.inI4 cd = false;
          (s.up site = false → ∃ t, exec (.registerWrite m (BitVec.ofNat 48 (regSpace + a)) size acc) s = .next t
            ∧ t.resp.status = .error ∧ t = { s with resp := t.resp, hold := false })
          ∧ (s.up site = true → awake → size ≠ 8 ∨ a % 8 ≠ 0 →
            Does (.registerWrite m (BitVec.ofNat 48 (regSpace + a)) size acc) s fun t =>
              t.fld (R.accErr site) F.accErr_size = min (s.fld (R.accErr site) F.accErr_size + 1) (2 ^ 32 - 1)
                ∧ OnlyRegs s t [R.accErr site])
          ∧ (s.up site = true → awake → size = 8 → a % 8 = 0 → regRow (regPlain a) = none →
            Does (.registerWrite m (BitVec.ofNat 48 (regSpace + a)) size acc) s fun t =>
              t.fld (R.accErr site) F.accErr_decode = min (s.fld (R.accErr site) F.accErr_decode + 1) (2 ^ 32 - 1)
                ∧ (acc = .load → t.resp.data = [0]) ∧ OnlyRegs s t [R.accErr site]))
        ∧ (∀ site : Site, passes s m (R.violFirst site.val) = true → Does (.violFirstRead m site) s fun t =>
          t.resp.data = [s.reg (R.violFirst site.val) &&& BitVec.ofNat 64 (2 ^ 52 - 1)]
            ∧ t.flag (R.violFirst site.val) F.violFirst_valid = false ∧ OnlyRegs s t [R.violFirst site.val]))
  ∧ (
      ∀ (m : Master) (site : Site) (i : BitVec 8) (half : MsiHalf) (v : Word) (s : State),
        passes s m (half.reg site.val i.toNat) = true → i.toNat < 256 →
        let ctrl := R.msiCtrl site.val i.toNat
        let file (t : State) := t.fld (R.msiAddr site.val i.toNat) F.msiAddr_file
        (s.flag ctrl F.msiCtrl_pend = false → Does (.msiEntryWrite m site i half v) s fun t =>
          (half = .addr → file t = F.msiAddr_file.get v)
            ∧ (half = .ctrl → t.fld ctrl F.msiCtrl_ident = F.msiCtrl_ident.get v ∧ t.fld ctrl F.msiCtrl_mask = F.msiCtrl_mask.get v)
            ∧ OnlyRegs s t [half.reg site.val i.toNat])
        ∧ (s.flag ctrl F.msiCtrl_pend = true → half = .ctrl → F.msiCtrl_mask.get v = 0 → F.msiCtrl_ident.get v ≠ 0 →
          s.fileValid (file s) = true → Does (.msiEntryWrite m site i half v) s fun t =>
            (t.file (file s * 0x1000 - regSpace)).getLsbD (F.msiCtrl_ident.get v) = true
              ∧ t.flag ctrl F.msiCtrl_pend = false ∧ OnlyRegsIrq s t [ctrl]))

/-- R88 to R90: TAKE and TAKE_ALL begin snapshots, a command's arrival begins a die's part, and at its tick the holding
register of every counter of the die takes the counter's value, SEQ counts and BUSY falls. -/
def Obligations.Snapshots : Prop :=
  ∀ (m : Master) (site : Site) (s : State),
    (passes s m (R.snapCtrl site.val) = true → Does (.snapTake m site) s fun t =>
      t.flag (R.snapCtrl site.val) F.snapCtrl_busy = true
        ∧ (s.flag (R.snapCtrl site.val) F.snapCtrl_busy = true → (∀ n, t.snap n = s.snap n) ∧ OnlyRegs s t [])
        ∧ (s.flag (R.snapCtrl site.val) F.snapCtrl_busy = false → t.snap site.val = ⟨s.tick + 1, false⟩
            ∧ (∀ n, n ≠ site.val → t.snap n = s.snap n) ∧ OnlyRegs { s with snaps := t.snaps } t [R.snapCtrl site.val]))
    ∧ (passes s m (R.snapCtrl 0) = true → s.flag (R.snapCtrl 0) F.snapCtrl_busy = false → Does (.takeAll m) s fun t =>
      t.flag (R.snapCtrl 0) F.snapCtrl_busy = true ∧ t.snap 0 = ⟨s.tick + 2000, true⟩
        ∧ (∃ p, t.pkgSnap = some p ∧ p.tick = s.tick + 2000 ∧ p.part = [0] ∧ p.done = []
            ∧ ∀ n, n ∈ p.coming ↔ n < 11 ∧ n ≠ 0 ∧ s.up n = true)
        ∧ OnlyRegs { s with snaps := t.snaps, pkgSnap := t.pkgSnap } t [R.snapCtrl 0])
    ∧ (∀ p, s.pkgSnap = some p → site.val ∈ p.coming → s.up site.val = true →
      s.flag (R.snapCtrl site.val) F.snapCtrl_busy = false → Does (.snapCommandArrival site) s fun t =>
        t.flag (R.snapCtrl site.val) F.snapCtrl_busy = true ∧ t.snap site.val = ⟨p.tick, true⟩
          ∧ (∃ q, t.pkgSnap = some q ∧ q.part = p.part ++ [site.val] ∧ site.val ∉ q.coming)
          ∧ OnlyRegs { s with snaps := t.snaps, pkgSnap := t.pkgSnap } t [R.snapCtrl site.val])
    ∧ (site.val ≠ 0 → s.up site.val = true → s.flag (R.snapCtrl site.val) F.snapCtrl_busy = true →
      (∀ p, s.pkgSnap = some p → site.val ∉ p.part) → Sparse.wf regReset s.regs = true → Does (.snapshotTick site) s fun t =>
        t.tick = max s.tick (s.snap site.val).tick
          ∧ (∀ a, a / 0x1_0000_0000 = site.val → isCounter a = true → isHold (a + 0x2000) = true → t.reg (a + 0x2000) = s.reg a)
          ∧ t.flag (R.snapCtrl site.val) F.snapCtrl_busy = false
          ∧ t.fld (R.snapCtrl site.val) F.snapCtrl_seq = (s.fld (R.snapCtrl site.val) F.snapCtrl_seq + 1) % 2 ^ 16
          ∧ t.fld (R.snapTime site.val) F.snapTime_tick = (s.snap site.val).tick % 2 ^ 53
          ∧ t = { s with tick := t.tick, regs := t.regs, imsic := t.imsic, snaps := t.snaps, resp := t.resp, hold := false })

/--
- R110, R115, R116, R118 to R121: a pace window shows the beats of a die at the next microsecond; the reference is lost and
  comes back; an evaluation of the governor moves the core voltage of each die in service by at most 10 mV within 620 to
  900 mV, down at the junction limit, and shows what it read.
- R124, R125: an arbiter grants one of the requests that wait, and no request of a class before it waits, except that P1
  and P2 take turns. -/
def Obligations.TimebaseAndArbitration : Prop :=
  (
      ∀ s : State,
        (∀ (site : Site) pace, s.up site.val = true → Does (.paceWindow site pace) s fun t =>
          t.tick = (s.tick / 1000 + 1) * 1000 ∧ t.fld (R.paceStat site.val) F.paceStat_pace = pace % 2 ^ 8
            ∧ OnlyRegs { s with tick := t.tick } t [R.paceStat site.val])
        ∧ (s.flag R.tbCtrl F.tbCtrl_holdover = false → Does .referenceLoss s fun t =>
          t.flag R.tbCtrl F.tbCtrl_holdover = true ∧ t.flag R.tbCtrl F.tbCtrl_refOk = false ∧ t.tick = s.tick ∧ OnlyLinks s t)
        ∧ (s.flag R.tbCtrl F.tbCtrl_holdover = true → Does .holdoverExit s fun t =>
          t.flag R.tbCtrl F.tbCtrl_holdover = false ∧ t.flag R.tbCtrl F.tbCtrl_refOk = true ∧ t.tick = s.tick + ms
            ∧ OnlyRegs { s with tick := t.tick } t [R.tbCtrl])
        ∧ (∀ r : GovReadings, Does (.governorEvaluation r) s fun t =>
          t.tick = (s.tick / 10000 + 1) * 10000
            ∧ (∀ d x, r.dies[d]? = some x → s.up d = true →
              let v := s.fld (R.paceStat d) F.paceStat_vcore
              let v' := t.fld (R.paceStat d) F.paceStat_vcore
              let g := (if r.input < 5400 then { s with overpower := false } else s).govern d r.power x.1 x.2
              v' = g.v ∧ (620 ≤ v → v ≤ 900 → 620 ≤ v' ∧ v' ≤ 900 ∧ v' ≤ v + 10 ∧ v ≤ v' + 10)
                ∧ t.fld (R.paceStat d) F.paceStat_tj = x.1 % 2 ^ 8
                ∧ t.flag (R.paceStat d) F.paceStat_tjLimit = decide (s.fld R.paceCap F.paceCap_tjMax ≤ x.1)
                ∧ (s.fld R.paceCap F.paceCap_tjMax ≤ x.1 → 620 ≤ v → v ≤ 900 → v' ≤ v)
                ∧ t.flag (R.paceStat d) F.paceStat_atCap = g.atCap ∧ t.flag (R.paceStat d) F.paceStat_atVmax = g.atVmax)
            ∧ t = { s with tick := t.tick, overpower := t.overpower, regs := t.regs, imsic := t.imsic, resp := t.resp, hold := false }))
  ∧ (
      ∀ (hop : Nat) (ws : List HopRequest) (s : State), ws ≠ [] →
        Does (.transferGrant hop ws) s fun t =>
          (∃ r ∈ ws, t.resp.data = [Word.of r.input, Word.of r.cls.val]
            ∧ grantsBefore (s.hop hop) (s.fld R.classCfg F.classCfg_p3Guard) (s.flag R.classCfg F.classCfg_p1Alt) ws r
            ∧ (t.hop hop).lastP1 = decide (r.cls.val = 1))
          ∧ (∀ h, h ≠ hop → t.hop h = s.hop h) ∧ t = { s with hops := t.hops, resp := t.resp, hold := false })

/-- R137 to R142, R145, R146: a core, a cluster and a die enter the deepest idle state that their next event admits, or
none; a wake before the point of no return abandons the entry and is counted; a wake that completes leaves the unit in I0;
a die that does not wake in time leaves service. -/
def Obligations.IdleStates : Prop :=
  ∀ s : State,
    (∀ c : CoreIx, s.cdUp (coreCd c.val) = true → s.flag R.idleCtrl F.idleCtrl_enable = true → s.coreIdle c.val = 0 →
      c.val ∉ s.waking → s.coreQuiet c.val = true → (s.core c.val).mbuf = [] →
      Does (.idleEntry (.core c)) s fun t =>
        let ev := s.coreEvent c.val
        let st := if s.fits (coreCd c.val) 2 ev && s.cacheDead c.val then 2 else if s.fits (coreCd c.val) 1 ev then 1 else 0
        t.slept c.val = st ∧ t.resp.data = [Word.of st] ∧ (∀ d, d ≠ c.val → t.slept d = s.slept d)
          ∧ OnlyIdle s t (idleRegs (coreCd c.val)))
    ∧ (∀ cl : ClIx, s.cdUp (cl.val / 8) = true → s.flag R.idleCtrl F.idleCtrl_enable = true → s.inI4 (cl.val / 8) = false →
      s.inI3 cl.val = false → (∀ e ∈ s.heldBy cl.val, e.2.st.dirty = false) → Does (.idleEntry (.cluster cl)) s fun t =>
        let ok := s.mayI3 cl.val && s.fits (cl.val / 8) 3 (s.eventOf (coresOf cl.val))
        t.inI3 cl.val = ok ∧ t.resp.data = [if ok then 3 else 0] ∧ (∀ k, k < 64 → k ≠ cl.val → t.inI3 k = s.inI3 k)
          ∧ OnlyIdle s t (R.idleDie (cl.val / 8) :: idleRegs (cl.val / 8)))
    ∧ (∀ cd : Cd, s.cdUp cd.val = true → s.flag R.idleCtrl F.idleCtrl_enable = true → s.inI4 cd.val = false →
      Does (.idleEntry (.die cd)) s fun t =>
        let ok := s.mayI4 cd.val && s.fits cd.val 4 (s.eventOf ((List.range 128).map (fun i => cd.val * 128 + i)))
        t.inI4 cd.val = ok ∧ t.resp.data = [if ok then 4 else 0]
          ∧ (ok = true → ∀ k, k < 2 → t.flag (R.mcStat cd.val k) F.mcStat_selfRefresh = true)
          ∧ OnlyIdle s t (R.idleDie cd.val :: R.mcStat cd.val 0 :: R.mcStat cd.val 1 :: idleRegs cd.val))
    ∧ (∀ u : IdleUnit, s.cdUp (unitCd u) = true → s.flag R.idleCtrl F.idleCtrl_enable = false →
      Does (.idleEntry u) s fun t => t.resp.data = [0] ∧ OnlyIdle s t [])
    ∧ (∀ u : IdleUnit,
      let standing : Prop := match u with
        | .core c => s.slept c.val ≠ 0 ∧ s.coreIdle c.val = s.slept c.val ∧ c.val ∉ s.waking
        | .cluster cl => s.inI3 cl.val = true ∧ s.inI4 (cl.val / 8) = false ∧ clUnit cl.val ∉ s.waking
        | .die n => s.inI4 n.val = true ∧ dieUnit n.val ∉ s.waking
      let key : Nat := match u with | .core c => c.val | .cluster cl => clUnit cl.val | .die n => dieUnit n.val
      let woken (t : State) : Prop := match u with
        | .core c => t.slept c.val = 0
        | .cluster cl => t.inI3 cl.val = false
        | .die n => t.inI4 n.val = false;
      (standing → Does (.idleWakeStart u true) s fun t => woken t ∧ key ∉ t.waking
        ∧ t.fld (R.idleAbort (unitCd u)) F.idleAbort_aborts = min (s.fld (R.idleAbort (unitCd u)) F.idleAbort_aborts + 1) (2 ^ 32 - 1)
        ∧ t.cores = s.cores ∧ t.lines = s.lines ∧ t.tile = s.tile ∧ t.dram = s.dram)
      ∧ (standing → Does (.idleWakeStart u false) s fun t => key ∈ t.waking
        ∧ (∀ c, coreCd c ≠ unitCd u → t.core c = s.core c) ∧ t.dram = s.dram ∧ t.dies = s.dies)
      ∧ (key ∈ s.waking → clear s (Machine.idleWakeComplete u) → Does (.idleWakeComplete u) s fun t =>
        woken t ∧ key ∉ t.waking ∧ t.dies = s.dies))
    ∧ (∀ cd : Cd, s.cdUp cd.val = true → dieUnit cd.val ∈ s.waking → clear s (Machine.i4WakeTimeout cd.val) →
      Does (.i4WakeTimeout cd) s fun t => t.cdUp cd.val = false
        ∧ t.fld R.rasCnt F.rasCnt_dieLosses = min (s.fld R.rasCnt F.rasCnt_dieLosses + 1) (2 ^ F.rasCnt_dieLosses.w - 1)
        ∧ (∀ n, n ≠ cd.val + 1 → t.die n = s.die n))

/-! ## Memory controllers -/

/--
- R398 to R417, R431: a request at a controller within one codeword. A read answers the plaintext of the codeword, or
  poison; a write stores its bytes and nothing else and leaves the codeword sound when it is whole; a refused request changes
  no memory and is answered with an error; a request that lacks tokens waits and is counted; the home die being gone, a read
  is answered with poison.
- R416 to R419: a sliver read answers a 32 B sector of the codeword; a sliver write to a line that no cache holds stores
  the enabled bytes of a sector and nothing else. -/
def Obligations.ControllerAndSliver : Prop :=
  (
      ∀ (k : CtrlRef) (r : MemRequest) (s : State),
        let pa := r.pa.toNat
        let p := s.place pa
        let e : Instr := .controllerRequest k r;
        p.cd = k.cd.val → p.ctrl = k.c.val →
        (memOpen s r.tag pa 1 false → r.write = none → r.cond = .clean → s.cwBad pa = false → Does e s fun t =>
          t.resp.data = wordsOf 8 (s.cwData pa) ∧ OnlyRegs s t (memRegs s r.tag pa))
        ∧ (memOpen s r.tag pa 1 false → r.write = none → s.cwBad pa = true → ∃ t, exec e s = .next t ∧ t.resp = ⟨.poison, []⟩
          ∧ t.fld (R.mcCntUe p.cd p.ctrl) F.mcCntUe_poisonReads
              = min (s.fld (R.mcCntUe p.cd p.ctrl) F.mcCntUe_poisonReads + 1) (2 ^ 32 - 1)
          ∧ OnlyRecords s t (p.cd + 1) (R.mcCntUe p.cd p.ctrl :: memRegs s r.tag pa))
        ∧ (∀ bs, memOpen s r.tag pa r.cost true → r.write = some bs → bs ≠ [] → pa % 64 + bs.length ≤ 64 →
          (bs.length = 64 ∨ s.cwBad pa = false) → s.key (keyIndex s.ranges pa) ≠ 0 → Does e s fun t =>
            (∀ b, b < 64 → byteNo (t.cwData pa) b
              = if pa % 64 ≤ b ∧ b < pa % 64 + bs.length then bs.getD (b - pa % 64) 0 else byteNo (s.cwData pa) b)
            ∧ t.cwBad pa = false ∧ OnlyCells s t ((s.place (pa / 64 * 64)).cell) 64 (memRegs s r.tag pa))
        ∧ (∀ why, s.cdUp p.cd = true → (if r.write.isSome then s.refusesWrite r.tag pa else s.refuses r.tag pa) = some why →
          ∃ t, exec e s = .next t ∧ t.resp = ⟨.error, []⟩ ∧ t.dram = s.dram ∧ t.bad = s.bad
            ∧ (why ≠ .mirror → t.fld (R.mcCntXpart p.cd p.ctrl) (if why = .key then F.mcCntXpart_nokey else F.mcCntXpart_refused)
                = min (s.fld (R.mcCntXpart p.cd p.ctrl) (if why = .key then F.mcCntXpart_nokey else F.mcCntXpart_refused) + 1)
                    (2 ^ 32 - 1)))
        ∧ (∀ q, r.tag = .part q → s.cdUp p.cd = true → s.inI4 p.cd = false →
          (if r.write.isSome then s.refusesWrite r.tag pa else s.refuses r.tag pa) = none →
          s.flag (R.mcReg p.cd p.ctrl q.toNat) F.mcReg_enable = true → s.flag (R.mcReg p.cd p.ctrl q.toNat) F.mcReg_wc = false →
          s.fld (R.mcRegStat p.cd p.ctrl q.toNat) F.mcRegStat_tokens < r.cost →
          ∃ t, exec e s = .next t ∧ t.resp = ⟨.held, []⟩ ∧ t.dram = s.dram ∧ t.bad = s.bad
            ∧ t.flag (R.mcRegStat p.cd p.ctrl q.toNat) F.mcRegStat_held = true
            ∧ t.fld (R.mcCntWait p.cd p.ctrl q.toNat) F.mcCntWait_waitTicks
                = (s.fld (R.mcCntWait p.cd p.ctrl q.toNat) F.mcCntWait_waitTicks + 1) % 2 ^ 64)
        ∧ (s.cdUp p.cd = false → r.write = none → ∃ t, exec e s = .next t ∧ t.resp = ⟨.poison, []⟩ ∧ OnlyRegs s t []))
  ∧ (
      ∀ (r : SliverRequest) (s : State),
        let pa := r.pa.toNat
        (memOpen s r.tag pa 1 false → s.cwBad pa = false → Does (.sliverRead r) s fun t =>
          t.resp.data = wordsOf 4 (bits (s.cwData pa) (8 * (pa % 64 / 32 * 32)) 256) ∧ OnlyRegs s t (memRegs s r.tag pa))
        ∧ (∀ (data : List Byte) (en : BitVec 32), memOpen s r.tag pa 2 true → s.cwBad pa = false → s.dirEnt (pa / 128) = {} →
          s.key (keyIndex s.ranges pa) ≠ 0 → Does (.sliverWrite r data en) s fun t =>
            (∀ b, b < 64 → byteNo (t.cwData pa) b
              = if b / 32 = pa % 64 / 32 ∧ en.getLsbD (b % 32) = true then data.getD (b % 32) 0 else byteNo (s.cwData pa) b)
            ∧ t.cwBad pa = false ∧ (∀ l, t.dirEnt l = s.dirEnt l)
            ∧ OnlyCells { s with dir := t.dir } t ((s.place (pa / 64 * 64)).cell) 64 (memRegs s r.tag pa)))

/--
- R399 to R401, R411, R430 to R433: the map and its lock are broadcast to the dies in service and the package copy and
  cannot be written once locked; an uneven map is marked bad and stays open; a window of the regulators refills every
  regulator of a die in service up to its burst; the patrol scrub counts, records and marks what it finds; a refresh changes
  nothing; a temperature above 85 degrees doubles the refresh rate.
- R436: a write of GO starts the zeroization of [BASE, LIMIT] of a die whose owners' keys are loaded, and sets ERROR
  otherwise; at its end GO is 0, DONE is 1, and every codeword of the die within the range that had been written reads zero
  and is sound, while codewords elsewhere are as before. -/
def Obligations.ControllerUpkeepAndZeroization : Prop :=
  (
      ∀ s : State,
        (∀ (m : Master) (cd : Cd) (w : Fin 8) (data : Word), passes s m (R.mcMap cd.val w.val) = true →
          F.mcCtrl_mapLock.get (s.pk (R.mcCtrl 0)) = 0 → Does (.mapWrite m cd w data) s fun t =>
            t.mapCode w.val = F.mcMap_group.get data ∧ (∀ v, v < 8 → v ≠ w.val → t.mapCode v = s.mapCode v)
              ∧ (∀ n, n < 8 → s.cdUp n = true → t.fld (R.mcMap n w.val) F.mcMap_group = F.mcMap_group.get data)
              ∧ (∀ a, (∀ n, n < 8 → a ≠ R.mcMap n w.val) → t.reg a = s.reg a)
              ∧ t = { s with regs := t.regs, pkg := t.pkg, resp := t.resp, hold := false })
        ∧ (∀ (m : Master) (cd : Cd), passes s m (R.mcCtrl cd.val) = true → F.mcCtrl_mapLock.get (s.pk (R.mcCtrl 0)) = 0 →
          Does (.mapLock m cd) s fun t =>
            F.mcCtrl_mapLock.get (t.pk (R.mcCtrl 0)) = b2n s.mapOk ∧ F.mcCtrl_mapBad.get (t.pk (R.mcCtrl 0)) = b2n (!s.mapOk)
              ∧ (∀ n, n < 8 → s.cdUp n = true → t.flag (R.mcCtrl n) F.mcCtrl_mapLock = s.mapOk)
              ∧ (∀ v, v < 8 → t.mapCode v = s.mapCode v) ∧ (∀ a, (∀ n, n < 8 → a ≠ R.mcCtrl n) → t.reg a = s.reg a)
              ∧ t = { s with regs := t.regs, pkg := t.pkg, resp := t.resp, hold := false })
        ∧ (∀ (m : Master) (cd : Cd) (w : Fin 8) (data : Word), passes s m (R.mcMap cd.val w.val) = true →
          passes s m (R.mcCtrl cd.val) = true → F.mcCtrl_mapLock.get (s.pk (R.mcCtrl 0)) = 1 →
          Does (.mapWrite m cd w data) s (fun t => OnlyRegs s t []) ∧ Does (.mapLock m cd) s (fun t => OnlyRegs s t []))
        ∧ Does .regulatorRefill s (fun t =>
          t.tick = (s.tick / 64 + 1) * 64
            ∧ (∀ cd c q, cd < 8 → c < 2 → q < 8 → s.cdUp cd = true →
              t.fld (R.mcRegStat cd c q) F.mcRegStat_tokens
                = min (s.fld (R.mcRegStat cd c q) F.mcRegStat_tokens + s.fld (R.mcReg cd c q) F.mcReg_rate)
                    (s.fld (R.mcReg cd c q) F.mcReg_burst))
            ∧ (∀ a, (∀ cd c q, cd < 8 → c < 2 → q < 8 → a ≠ R.mcRegStat cd c q) → t.reg a = s.reg a)
            ∧ t = { s with tick := t.tick, regs := t.regs, resp := t.resp, hold := false })
        ∧ (∀ (k : CtrlRef) (pa : BitVec 40), let p := s.place pa.toNat
          p.cd = k.cd.val → p.ctrl = k.c.val → s.cdUp p.cd = true → s.inI4 p.cd = false →
          s.flag (R.eccCtrl p.cd) F.eccCtrl_scrubEn = true → s.cwBad pa.toNat = false →
          Does (.patrolScrub k pa .clean) s (fun t => OnlyRegs s t [])
          ∧ (∀ sym, Does (.patrolScrub k pa (.corrected sym)) s fun t =>
              t.fld (R.mcCntCe p.cd p.ctrl) F.mcCntCe_corrected = min (s.fld (R.mcCntCe p.cd p.ctrl) F.mcCntCe_corrected + 1) (2 ^ 32 - 1)
                ∧ Sparse.get (fun _ => 0) t.rowCe p.row = Sparse.get (fun _ => 0) s.rowCe p.row + 1
                ∧ (s.fld (R.eccCtrl p.cd) F.eccCtrl_rowThr ≤ Sparse.get (fun _ => 0) s.rowCe p.row + 1 →
                  t.flag (R.eccCtrl p.cd) F.eccCtrl_pprPending = true ∧ p.row ∈ t.marked)
                ∧ OnlyRecords s t (p.cd + 1) [R.mcCntCe p.cd p.ctrl, R.eccCtrl p.cd])
          ∧ Does (.patrolScrub k pa .onDie) s (fun t =>
              t.fld (R.mcCntCe p.cd p.ctrl) F.mcCntCe_dieEcc = min (s.fld (R.mcCntCe p.cd p.ctrl) F.mcCntCe_dieEcc + 1) (2 ^ 32 - 1)
                ∧ OnlyRecords s t (p.cd + 1) [R.mcCntCe p.cd p.ctrl])
          ∧ (s.mirroring true = false → s.mirroring false = false → Does (.patrolScrub k pa .uncorrectable) s fun t =>
              t.cwBad pa.toNat = true
                ∧ t.fld (R.mcCntUe p.cd p.ctrl) F.mcCntUe_uncorrected = min (s.fld (R.mcCntUe p.cd p.ctrl) F.mcCntUe_uncorrected + 1) (2 ^ 32 - 1)
                ∧ OnlyRecords { s with bad := t.bad } t (p.cd + 1) [R.mcCntUe p.cd p.ctrl]))
        ∧ (∀ (k : CtrlRef) (bank : Nat), s.cdUp k.cd.val = true → Does (.refresh k bank) s fun t => OnlyRegs s t [])
        ∧ (∀ (k : CtrlRef) (temp : BitVec 8), s.cdUp k.cd.val = true → Does (.stackTempRead k temp) s fun t =>
          t.fld (R.mcStat k.cd.val k.c.val) F.mcStat_stackT = temp.toNat
            ∧ t.flag (R.mcStat k.cd.val k.c.val) F.mcStat_refresh2x = decide (85 < temp.toNat)
            ∧ OnlyRegs s t [R.mcStat k.cd.val k.c.val]))
  ∧ (
      ∀ (cd : Cd) (s : State),
        (∀ m : Master, passes s m (R.zeroCtrl cd.val) = true → s.flag (R.zeroCtrl cd.val) F.zeroCtrl_go = false →
          let lo := s.fld (R.zeroBase cd.val) F.zeroBase_base * 2 ^ 21
          let hi := (s.fld (R.zeroLimit cd.val) F.zeroLimit_limit + 1) * 2 ^ 21
          let hit := s.ranges.filter (fun r => decide (r.lo < hi) && decide (lo < r.hi))
          let ok := if hit = [] then s.keyLoaded cd.val 8 else hit.all (fun r => s.keyLoaded cd.val r.owner)
          Does (.zeroGo m cd) s fun t =>
            t.flag (R.zeroCtrl cd.val) F.zeroCtrl_go = ok ∧ t.flag (R.zeroCtrl cd.val) F.zeroCtrl_error = !ok
              ∧ t.flag (R.zeroCtrl cd.val) F.zeroCtrl_done = false
              ∧ (ok = true → ∃ z ∈ t.zero, z.cd = cd.val ∧ z.lo = lo ∧ z.hi = hi)
              ∧ OnlyRegs { s with zero := t.zero } t [R.zeroCtrl cd.val])
        ∧ (∀ z, s.zero.find? (fun z => decide (z.cd = cd.val)) = some z → s.wv.freed = [] → s.mirroring false = false →
          Does (.zeroizeEnd cd) s fun t =>
            t.flag (R.zeroCtrl cd.val) F.zeroCtrl_go = false ∧ t.flag (R.zeroCtrl cd.val) F.zeroCtrl_done = true
              ∧ (∀ z ∈ t.zero, z.cd ≠ cd.val)
              ∧ (∀ w y, s.tags.find? (fun e => decide (e.1 = w)) = some (w, y) → w / 2 ^ 31 = cd.val →
                  w % 2 ^ 31 * 64 < 0x1F_FF00_0000 → z.lo ≤ y.pa * 64 → y.pa * 64 < z.hi →
                  Sparse.get (fun _ => false) t.bad w = false ∧ ∀ b, b < 64 → t.dramByte (w * 64 + b) = 0)
              ∧ (∀ w, w / 2 ^ 31 ≠ cd.val → ∀ b, b < 64 → t.dramByte (w * 64 + b) = s.dramByte (w * 64 + b))
              ∧ OnlyRegs { s with dram := t.dram, bad := t.bad, tags := t.tags, zero := t.zero, zeroed := t.zeroed } t
                  [R.zeroCtrl cd.val]))

/-! ## Caches and coherence -/

/--
- R458 to R460, R468, R472: a read that hits answers the line; RDS, RDU and UPG take a miss register with the line that
  memory holds, or the copy that is kept, and the home enters the holder as sharer or as owner; a second miss merges; the fill
  puts the line into the cache and answers the requests that waited.
- R471, R472: a dirty owner's WB puts its line into memory and leaves no holder, its WBC leaves it a clean sharer; a snoop
  takes the copy of a clean sharer, or has a dirty owner answer the line and, under MOSI, keep it owned. -/
def Obligations.CoherentReadsAndWritebacks : Prop :=
  (
      ∀ (h : Holder) (line : BitVec 33) (s : State),
        let k := h.ix
        let ln := line.toNat
        let a := agentAt s k ln
        let c := s.cline k ln;
        (s.up (holderSite k) = true → s.cacheOn k = true → s.miss = [] → c.val.poison = 0 →
          (c.st ≠ .i → Does (.rds h line) s fun t => t.resp.data = wordsOf 16 c.val.data.toNat ∧ OnlyRegs s t [])
          ∧ (c.st = .m → Does (.rdu h line) s fun t => t.resp.data = wordsOf 16 c.val.data.toNat ∧ OnlyRegs s t []))
        ∧ (cohReady s k ln → c.st = .i → s.dirEnt ln = {} → lineSound s ln →
          Does (.rds h line) s (fun t => t.miss = [⟨k, ln, .s, s.memLine ln, 0⟩] ∧ (t.dirEnt ln).st = .s
            ∧ (t.dirEnt ln).sharers = agentBit a ∧ t.lines = s.lines ∧ CohReads s t k ln)
          ∧ Does (.rdu h line) s (fun t => t.miss = [⟨k, ln, .m, s.memLine ln, 0⟩] ∧ (t.dirEnt ln).st = .m
            ∧ (t.dirEnt ln).owner = a ∧ (t.dirEnt ln).sharers = 0 ∧ t.lines = s.lines ∧ CohReads s t k ln))
        ∧ (cohReady s k ln → c.st = .s → (s.dirEnt ln).st = .s → (s.dirEnt ln).sharers = agentBit a →
          Does (.upg h line) s fun t => t.miss = [⟨k, ln, .m, c.val, 0⟩] ∧ (t.dirEnt ln).st = .m ∧ (t.dirEnt ln).owner = a
            ∧ (t.dirEnt ln).sharers = 0 ∧ t.lines = s.lines ∧ CohReads s t k ln)
        ∧ (∀ m : Miss, s.miss = [m] → m.holder = k → m.line = ln →
          (m.secs < 8 → s.up (holderSite k) = true → Does (.rds h line) s fun t => t.miss = [{ m with secs := m.secs + 1 }]
            ∧ t = { s with miss := t.miss, resp := t.resp, hold := false })
          ∧ (m.val.poison = 0 → m.st ≠ .i → s.cacheOn k = true → (k ≠ xlIx ∧ 64 ≤ k) ∨ c.st ≠ .i ∨ wayFree s k ln .host →
            Does (.missFill h line) s fun t => t.resp.data = wordsOf 16 m.val.data.toNat ∧ t.miss = []
              ∧ (t.cline k ln).st = (if k = xlIx then .s else m.st) ∧ (t.cline k ln).val = m.val ∧ LinesKept s t k ln
              ∧ t = { s with miss := t.miss, lines := t.lines, resp := t.resp, hold := false })))
  ∧ (
      ∀ (h : Holder) (line : BitVec 33) (s : State),
        let k := h.ix
        let ln := line.toNat
        let a := agentAt s k ln
        let c := s.cline k ln;
        cohReady s k ln → s.cacheLive k = true → (s.sub ln).mask = 0 → (s.sub ln).owner = none →
        (wbOpen s ln → c.st = .m → c.val.poison = 0 → (s.dirEnt ln).st = .m → (s.dirEnt ln).owner = a →
          (s.dirEnt ln).sharers = 0 →
          Does (.wb h line) s (fun t => memHolds t ln c.val.data ∧ t.cline k ln = {} ∧ t.dirEnt ln = {} ∧ LinesKept s t k ln
            ∧ OnlyCoh s t k ln)
          ∧ Does (.wbc h line) s (fun t => memHolds t ln c.val.data ∧ t.cline k ln = { c with st := .s } ∧ (t.dirEnt ln).st = .s
            ∧ (t.dirEnt ln).sharers = agentBit a ∧ LinesKept s t k ln ∧ OnlyCoh s t k ln))
        ∧ (∀ kind, kind ≠ .share → k ≠ xlIx → c.st = .s → (s.dirEnt ln).st = .s → (s.dirEnt ln).sharers = agentBit a →
          Does (.snoop h line kind) s fun t => t.cline k ln = {} ∧ t.dirEnt ln = {} ∧ LinesKept s t k ln ∧ CohReads s t k ln)
        ∧ (k ≠ xlIx → s.mosi = true → c.st = .m → c.val.poison = 0 → (s.dirEnt ln).st = .m → (s.dirEnt ln).owner = a →
          Does (.snoop h line .share) s fun t => t.resp.data = wordsOf 16 c.val.data.toNat ∧ t.cline k ln = { c with st := .o }
            ∧ (t.dirEnt ln).st = .o ∧ (t.dirEnt ln).owner = a ∧ LinesKept s t k ln ∧ CohReads s t k ln))

/--
- R464, R472: uncached requests for a line that no cache owns: RDNC answers what memory holds, WRF replaces the line, WRP
  its enabled bytes, and nothing else in memory changes.
- R599: the cache-block operations of a host core: CBO.CLEAN leaves a clean line alone, CBO.FLUSH and CBO.INVAL drop it,
  all three write a dirty line to memory, and CBO.ZERO stores 64 B of zeros into a line held in M. -/
def Obligations.UncachedAndCacheBlocks : Prop :=
  (
      ∀ (r : Requester) (line : BitVec 33) (data : List Byte) (en : BitVec 128) (s : State),
        let ln := line.toNat;
        (uncReady s r ln 2 false → lineSound s ln → Does (.rdnc r line) s fun t =>
          t.resp.data = wordsOf 16 (s.memLine ln).data.toNat ∧ t.lines = s.lines
            ∧ (∀ l, t.dirEnt l = s.dirEnt l) ∧ CohReads s t xlIx ln)
        ∧ (uncReady s r ln 2 true → s.key (keyIndex s.ranges (linePa ln)) ≠ 0 → Does (.wrf r line data) s fun t =>
          memHolds t ln (BitVec.ofNat 1024 (ofBytes (data.take 128))) ∧ t.dirEnt ln = {} ∧ t.lines = s.lines ∧ OnlyCoh s t xlIx ln)
        ∧ (uncReady s r ln (wrCost en.toNat) true → s.key (keyIndex s.ranges (linePa ln)) ≠ 0 → lineSound s ln →
          Does (.wrp r line data en) s fun t =>
            (∀ b, b < 128 → byteNo (t.memLine ln).data.toNat b
              = if en.getLsbD b then data.getD b 0 else byteNo (s.memLine ln).data.toNat b)
            ∧ lineSound t ln ∧ t.dirEnt ln = {} ∧ t.lines = s.lines ∧ OnlyCoh s t xlIx ln))
  ∧ (
      ∀ (h : HostRef) (pa : BitVec 40) (s : State),
        let k := 72 + h.hd.val
        let ln := pa.toNat / 128
        let c := s.cline k ln
        let Dropped := fun (t : State) => t.cline k ln = {} ∧ LinesKept s t k ln ∧ OnlyCoh s t k ln;
        s.up (9 + h.hd.val) = true → s.miss = [] →
        (c.st.dirty = false → Does (.cboClean h pa) s (fun t => OnlyRegs s t [])
          ∧ Does (.cboFlush h pa) s (fun t => Dropped t ∧ CohReads s t k ln)
          ∧ Does (.cboInval h pa) s (fun t => Dropped t ∧ CohReads s t k ln))
        ∧ (c.st.dirty = true → c.val.poison = 0 → wbOpen s ln → s.path (9 + h.hd.val) (s.home ln) = .far →
          s.cacheOn xlIx = false → (s.sub ln).owner = some k → (s.dirEnt ln).st = .m → (s.dirEnt ln).owner = 27 →
          (s.dirEnt ln).sharers = 0 → (s.dir.filter (fun e => decide (e.1 % dirSets = ln % dirSets) && decide (s.home e.1 = s.home ln))).length < 16 →
          Does (.cboClean h pa) s (fun t => memHolds t ln c.val.data ∧ t.cline k ln = { c with st := .s } ∧ LinesKept s t k ln
            ∧ OnlyCoh s t k ln)
          ∧ Does (.cboFlush h pa) s (fun t => memHolds t ln c.val.data ∧ Dropped t)
          ∧ Does (.cboInval h pa) s (fun t => memHolds t ln c.val.data ∧ Dropped t))
        ∧ (c.st = .m → Does (.cboZero h pa) s fun t =>
          (t.cline k ln).st = .m
            ∧ (∀ b, b < 128 → byteNo (t.cline k ln).val.data.toNat b
                = if b / 64 = pa.toNat / 64 % 2 then 0 else byteNo c.val.data.toNat b)
            ∧ LinesKept s t k ln ∧ t = { s with lines := t.lines, resp := t.resp, hold := false }))

/--
- R478 to R482, R495, R500: an L1 is invalidated and enabled; an L2 or the far cache refuses INVALIDATE while it is
  enabled, being disabled or busy, and ENABLE before INV_DONE, and marks the refusal; a CLEAN writes the dirty lines back and
  keeps them; an invalidation that ends has dropped every line and sets INV_DONE; a disable ends with its dirty lines in
  memory.
- R452 to R457, R583: a change of TILE_PAIRS drops the cached lines of the ways given up and clears the tile memory lost,
  and shows TILE_CHANGING until it ends; a request for tile memory reads or writes its bytes, waits while the ways change, and
  is refused outside the tile memory or its partition.
- R466: a twin copy ends when its time to live has passed since its fill. -/
def Obligations.CachesTileAndTwinCopies : Prop :=
  (
      ∀ (m : Master) (s : State),
        (∀ c : CoreIx, let a := R.l1Ctrl (c.val / 16) (c.val % 16)
          passes s m a = true →
          ((s.core c.val).mbuf = [] →
            Does (.l1Invalidate m c) s fun t => t.core c.val = { s.core c.val with l1 := [], l1Busy := true }
              ∧ (∀ d, d ≠ c.val → t.core d = s.core d) ∧ OnlyRegs { s with cores := t.cores } t [])
          ∧ (s.flag a F.l1Ctrl_invDone = true ∨ s.flag a F.l1Ctrl_enable = true → Does (.l1EnableWrite m c true) s fun t =>
              t.flag a F.l1Ctrl_enable = true ∧ t.flag a F.l1Ctrl_enableRefused = s.flag a F.l1Ctrl_enableRefused ∧ OnlyRegs s t [a])
          ∧ (s.flag a F.l1Ctrl_invDone = false → s.flag a F.l1Ctrl_enable = false → Does (.l1EnableWrite m c true) s fun t =>
              t.flag a F.l1Ctrl_enable = false ∧ t.flag a F.l1Ctrl_enableRefused = true ∧ OnlyRegs s t [a])
          ∧ Does (.l1EnableWrite m c false) s (fun t => t.flag a F.l1Ctrl_enable = false ∧ OnlyRegs s t [a]))
        ∧ (∀ c : CoreIx, (s.core c.val).l1Busy = true → Does (.invalidateDone (.l1 c)) s fun t =>
            t.core c.val = { s.core c.val with l1 := [], l1Busy := false } ∧ (∀ d, d ≠ c.val → t.core d = s.core d)
              ∧ t.flag (R.l1Ctrl (coreCl c.val) (c.val % 16)) F.l1Ctrl_invDone = true
              ∧ OnlyRegs { s with cores := t.cores } t [R.l1Ctrl (coreCl c.val) (c.val % 16)])
        ∧ (∀ (inv en0 en1 clean : Instr) (k : CacheRef) (h ctrl cmd stat : Nat) (fEn fEnd fDis : Fld),
          (∃ cl : ClIx, inv = .l2Invalidate m cl ∧ en0 = .l2EnableWrite m cl false ∧ en1 = .l2EnableWrite m cl true
              ∧ clean = .l2Clean m cl ∧ k = .l2 cl ∧ h = cl.val ∧ ctrl = R.l2Ctrl cl.val ∧ cmd = R.l2Cmd cl.val
              ∧ stat = R.l2Stat cl.val ∧ fEn = F.l2Ctrl_enable ∧ fEnd = F.l2Stat_enabled ∧ fDis = F.l2Stat_disabling)
            ∨ (inv = .xlInvalidate m ∧ en0 = .xlEnableWrite m false ∧ en1 = .xlEnableWrite m true ∧ clean = .xlClean m ∧ k = .xl
              ∧ h = xlIx ∧ ctrl = R.xlCtrl ∧ cmd = R.xlCmd ∧ stat = R.xlStat ∧ fEn = F.xlCtrl_enable ∧ fEnd = F.xlStat_enabled
              ∧ fDis = F.xlStat_disabling) →
          (passes s m cmd = true →
            (s.flag ctrl fEn = false → s.flag stat fDis = false → s.flag cmd F.l2Cmd_busy = false →
              Does inv s fun t => t.flag cmd F.l2Cmd_busy = true ∧ OnlyRegs s t [cmd])
            ∧ (s.flag ctrl fEn = true ∨ s.flag stat fDis = true ∨ s.flag cmd F.l2Cmd_busy = true →
              Does inv s fun t => t.flag cmd F.l2Cmd_cmdRefused = true
                ∧ t.flag cmd F.l2Cmd_busy = s.flag cmd F.l2Cmd_busy ∧ OnlyRegs s t [cmd])
            ∧ (s.flag cmd F.l2Cmd_busy = true → Does clean s fun t => t.flag cmd F.l2Cmd_cmdRefused = true ∧ OnlyRegs s t [cmd])
            ∧ (s.flag cmd F.l2Cmd_busy = false → s.cacheLive h = true → cleanReady s h →
              Does clean s fun t => Cleaned s t h []))
          ∧ (passes s m ctrl = true →
            (s.flag ctrl fEn = false → s.flag cmd F.l2Cmd_invDone = true → Does en1 s fun t =>
              t.flag ctrl fEn = true ∧ t.flag stat fEnd = (s.flag stat fEnd || !s.flag stat fDis) ∧ OnlyRegs s t [ctrl, stat])
            ∧ (s.flag ctrl fEn = false → s.flag cmd F.l2Cmd_invDone = false → Does en1 s fun t =>
              t.flag ctrl fEn = false ∧ t.flag cmd F.l2Cmd_enableRefused = true ∧ OnlyRegs s t [cmd])
            ∧ Does en0 s (fun t => t.flag ctrl fEn = false ∧ t.flag stat fEnd = false
                ∧ t.flag stat fDis = (s.flag stat fDis || s.flag stat fEnd) ∧ OnlyRegs s t [ctrl, stat]))
          ∧ (s.flag cmd F.l2Cmd_busy = true → Does (.invalidateDone k) s fun t =>
              t.flag cmd F.l2Cmd_busy = false ∧ t.flag cmd F.l2Cmd_invDone = true ∧ (∀ l, l < 2 ^ 34 → t.cline h l = {})
                ∧ (∀ j l, l < 2 ^ 34 → j ≠ h → t.cline j l = s.cline j l) ∧ OnlyRegs { s with lines := t.lines } t [cmd, stat])
          ∧ (s.flag stat fDis = true → s.miss = [] → cleanReady s h →
            Does (.disableDone k) s fun t => t.flag stat fDis = false
              ∧ t.flag stat fEnd = (s.flag stat fEnd || s.flag ctrl fEn) ∧ Cleaned s t h [stat])))
  ∧ (
      ∀ s : State,
        (∀ (m : Master) (cl : ClIx) (n : BitVec 3), passes s m (R.l2Ctrl cl.val) = true → l2Steady s cl.val →
          F.l2Ctrl_tilePairs.legal n.toNat = true → n.toNat ≠ s.fld (R.l2Ctrl cl.val) F.l2Ctrl_tilePairs →
          Sparse.wf (fun _ => ({} : CacheLine)) s.lines = true → (∀ e ∈ s.heldBy cl.val, 16 - 2 * n.toNat ≤ e.2.way → e.2.st.dirty = false) →
          Does (.tilePairsWrite m cl n) s fun t =>
            t.fld (R.l2Ctrl cl.val) F.l2Ctrl_tilePairs = n.toNat ∧ t.flag (R.l2Stat cl.val) F.l2Stat_tileChanging = true
              ∧ t.tileSize cl.val = 2 * n.toNat * 2 ^ 20
              ∧ (∀ l, l < 2 ^ 34 → t.cline cl.val l = if 16 - 2 * n.toNat ≤ (s.cline cl.val l).way then {} else s.cline cl.val l)
              ∧ (∀ o, Sparse.get (fun _ => (0 : Byte)) t.tile o
                  = if tileLow cl.val + 2 * n.toNat * 2 ^ 20 ≤ o ∧ o < tileLow cl.val + 2 ^ 24 then 0
                    else Sparse.get (fun _ => 0) s.tile o)
              ∧ OnlyRegs { s with lines := t.lines, tile := t.tile, tileBad := t.tileBad } t [R.l2Ctrl cl.val, R.l2Stat cl.val])
        ∧ (∀ cl : ClIx, s.flag (R.l2Stat cl.val) F.l2Stat_tileChanging = true → s.tileWait = [] →
          Does (.tileChangeDone cl) s fun t => t.flag (R.l2Stat cl.val) F.l2Stat_tileChanging = false
            ∧ OnlyRegs s t [R.l2Stat cl.val])
        ∧ (∀ r : TileRequest, s.up (coreSite r.core.val) = true → tileServes s r.core.val r.pa.toNat →
          (r.write = none → tileSound s r.pa.toNat → Does (.tileRequest r) s fun t =>
            t.resp.data.length = 16 ∧ (∀ b, b < 128 →
              byteNo (t.resp.data.getD (b / 8) 0).toNat (b % 8) = s.tileByte (r.pa.toNat / 128 * 128 + b)) ∧ OnlyRegs s t [])
          ∧ (∀ bs, r.write = some bs → r.pa.toNat % 128 + bs.length ≤ 128 → Does (.tileRequest r) s fun t =>
              (∀ a, tileBase ≤ a → t.tileByte a
                = if r.pa.toNat ≤ a ∧ a < r.pa.toNat + bs.length then bs.getD (a - r.pa.toNat) 0 else s.tileByte a)
              ∧ OnlyRegs { s with tile := t.tile, tileBad := t.tileBad } t []))
        ∧ (∀ (r : TileRequest) (cl o : Nat), s.up (coreSite r.core.val) = true → regionOf r.pa.toNat = .tile →
          tileOwner r.pa.toNat = some (cl, o) → s.cdUp (cl / 8) = true → s.inI4 (cl / 8) = false → s.inI3 cl = false →
          (s.flag (R.l2Stat cl) F.l2Stat_tileChanging = true → ∃ t, exec (.tileRequest r) s = .next t ∧ t.resp.status = .held
            ∧ t.tileWait = s.tileWait ++ [r] ∧ OnlyRegs { s with tileWait := t.tileWait } t [])
          ∧ (s.flag (R.l2Stat cl) F.l2Stat_tileChanging = false → s.tileSize cl ≤ o → ∃ t, exec (.tileRequest r) s = .next t
            ∧ t.resp.status = .error ∧ OnlyRegs s t [R.cluCntTile cl])))
  ∧ (
      ∀ (pa : BitVec 48) (s : State), (s.cline xlIx (twinLine pa.toNat)).st ≠ .i →
        Does (.twinCopyExpiry pa) s fun t =>
          t.tick = max s.tick ((s.cline xlIx (twinLine pa.toNat)).fill + s.fld R.xlTwinCtrl F.xlTwinCtrl_ttl)
            ∧ t.cline xlIx (twinLine pa.toNat) = {} ∧ LinesKept s t xlIx (twinLine pa.toNat)
            ∧ t = { s with tick := t.tick, lines := t.lines, resp := t.resp, hold := false })

/-! ## Translation and faults -/

/--
- R502 to R514: a walk over good pointers to a good leaf that admits the access answers the physical address and keeps the
  translation; a kept translation answers without a walk; a leaf without the right faults, with the cause, its level and its
  hint.
- R519 to R523: GO drops every translation of the context that meets the pages, in walkers and cores, and keeps every
  other; a GO while BUSY is refused and marked; at the end the context entries are read again, SEQ_MISMATCH shows an entry of
  another sequence, BUSY falls and REQUEUED shows the descriptors that will translate again. -/
def Obligations.TableWalksAndShootdowns : Prop :=
  (
      ∀ (w : Walker) (r : WalkRequest) (s : State) (c : CtxEnt),
        let site := walkerSite w.ix
        let va := r.va.toNat
        let acc : XAcc := if r.write then .write else .read
        s.up site = true → s.flag R.ctxBase F.ctxBase_enable = true →
        (s.walker w.ix).ctxs.find? (fun e => decide (e.ctx = r.ctx.toNat)) = some c → c.ctx = r.ctx.toNat →
        (∀ cl, w = .cluster cl → s.fld (R.l2Stat cl.val) F.l2Stat_part = c.part) →
        (∀ t, (s.walker w.ix).tlb.find? (fun t => t.covers r.ctx.toNat va) = some t → t.denies acc false = none →
          Does (.tableWalk w r) s fun u => u.resp.data = [Word.of (t.addr va)] ∧ OnlyRegs s u [])
        ∧ ((s.walker w.ix).tlb.find? (fun t => t.covers r.ctx.toNat va) = none → (s.walker w.ix).ptrs = [] → s.shoot = none →
          (s.walker w.ix).tlb.length < tlbCap w.ix → ∀ e k, walksTo s site va 3 1 c.root e k →
          let t := leafEnt r.ctx.toNat va e k
          (t.denies acc false = none → Does (.tableWalk w r) s fun u =>
            u.resp.data = [Word.of (bits e 16 32 * 2 ^ 16 / leafBytes e * leafBytes e + va % leafBytes e)]
              ∧ t ∈ (u.walker w.ix).tlb ∧ (∀ v, v ≠ w.ix → u.walker v = s.walker v) ∧ (u.walker w.ix).ctxs = (s.walker w.ix).ctxs
              ∧ TableRegs s u [] ∧ u = { s with walk := u.walk, drawn := u.drawn, regs := u.regs, resp := u.resp, hold := false })
          ∧ (∀ cause, t.denies acc false = some cause → ∃ u, exec (.tableWalk w r) s = .next u ∧ u.resp.status = .refused
              ∧ u.resp.data = [Word.of cause, Word.of k, Word.of (bits e 9 4)]
              ∧ TableRegs s u [] ∧ u = { s with walk := u.walk, drawn := u.drawn, regs := u.regs, resp := u.resp, hold := false })))
  ∧ (
      ∀ (m : Master) (ctl : Word) (s : State),
        (passes s m R.shootCtrl = true → s.flag R.shootStat F.shootStat_busy = true → Does (.shootdownGo m ctl) s fun t =>
          t.flag R.shootStat F.shootStat_refused = true ∧ t.shoot = s.shoot ∧ t.walk = s.walk
            ∧ OnlyRegs s t [R.shootCtrl, R.shootStat])
        ∧ (passes s m R.shootCtrl = true → s.flag R.shootStat F.shootStat_busy = false →
          Sparse.wf (fun _ => ({} : WalkerSt)) s.walk = true →
          let all := F.shootCtrl_all.get ctl = 1
          let lo := if all then 0 else s.fld R.shootVa F.shootVa_va
          let hi := if all then 2 ^ 32 else lo + F.shootCtrl_npages.get ctl + 1
          let ctx := F.shootCtrl_ctx.get ctl
          Does (.shootdownGo m ctl) s fun t =>
            t.flag R.shootStat F.shootStat_busy = true ∧ (∃ n, t.shoot = some ⟨ctx, lo, hi, n⟩)
              ∧ (∀ w, (t.walker w).tlb = (s.walker w).tlb.filter (fun x => !shootHits ctx lo hi x)
                  ∧ (t.walker w).ctxs = (s.walker w).ctxs)
              ∧ (∀ c, c < 1024 → (t.core c).tlb = (s.core c).tlb.filter (fun x => !shootHits ctx lo hi x))
              ∧ (∀ c, ({ t.core c with tlb := [] } : CoreSt) = { s.core c with tlb := [] })
              ∧ OnlyRegs { s with walk := t.walk, cores := t.cores, se := t.se, shoot := t.shoot } t [R.shootCtrl, R.shootStat])
        ∧ (∀ h, s.shoot = some h →
          let Ends := fun (t : State) => t.flag R.shootStat F.shootStat_busy = false ∧ t.shoot = none
            ∧ t.fld R.shootStat F.shootStat_requeued = h.marked % 2 ^ 16
            ∧ t.fld R.cntShoot F.cntShoot_shootdowns = (s.fld R.cntShoot F.cntShoot_shootdowns + 1) % 2 ^ 64
          (s.flag R.ctxBase F.ctxBase_enable = false → Does .shootdownDone s fun t => Ends t
            ∧ (∀ w, w < 73 → s.up (walkerSite w) = true →
                (t.walker w).ctxs = (s.walker w).ctxs.filter (fun e => decide (e.ctx ≠ h.ctx)))
            ∧ OnlyRegs { s with walk := t.walk, shoot := t.shoot } t [R.shootStat, R.cntShoot])
          ∧ (s.flag R.ctxBase F.ctxBase_enable = true → ∀ (w0 w1 w2 w3 : Word) (e : CtxEnt),
            let pa := s.fld R.ctxBase F.ctxBase_base * 2 ^ 13 + 32 * h.ctx
            ctxOf h.ctx w0 w1 w2 w3 = some e →
            (∀ w, w < 73 → s.up (walkerSite w) = true → tableHolds s (walkerSite w) pa w0 ∧ tableHolds s (walkerSite w) (pa + 8) w1
              ∧ tableHolds s (walkerSite w) (pa + 16) w2 ∧ tableHolds s (walkerSite w) (pa + 24) w3) →
            (∃ w, w < 73 ∧ s.up (walkerSite w) = true) → Does .shootdownDone s fun t => Ends t
              ∧ (∀ w, w < 73 → s.up (walkerSite w) = true → e ∈ (t.walker w).ctxs)
              ∧ t.flag R.shootStat F.shootStat_seqMismatch
                  = (s.flag R.shootStat F.shootStat_seqMismatch || decide (e.seq ≠ s.fld R.shootSeq F.shootSeq_seq))
              ∧ TableRegs s t [R.shootStat, R.cntShoot] ∧ t.cores = s.cores ∧ t.dram = s.dram ∧ t.lines = s.lines)))

/--
- R544 to R547: a fault that reaches its queue joins the pending entry of its key, or is written as entry PROD and raises
  the queue's source, or is held when the queue is full or off.
- R548, R550, R552 to R555: RESOLVE of a pending entry takes it off the queue, shows its count, and the unit that waits on
  it translates again, or, an engine under ABORT, ends its descriptor with status FAULT; an entry that is not pending is
  reported; CONS moves within what has been produced; FQ_BASE changes while ENABLE is 0. -/
def Obligations.FaultArrivalsAndQueues : Prop :=
  (
      ∀ (u : FaultUnit) (s : State) (f : XlFault), s.unitFault u.ix = some f → f.stand = .arising → f.key.part < 8 →
        let p := f.key.part
        let q := s.fqueue p
        let idx := s.fld (R.fqProd p) F.fqProd_prod
        let Moved := fun (t : State) (stand : FaultStand) (q' : FqSt) =>
          t.unitFault u.ix = some { f with stand := stand } ∧ t.fqueue p = q' ∧ (∀ v, v ≠ u.ix → t.unitFault v = s.unitFault v)
            ∧ (∀ r, r ≠ p → t.fqueue r = s.fqueue r) ∧ t.fld (R.fqProd p) F.fqProd_pending = q'.pend.length % 2 ^ 17
        (∀ e, q.find f.key = some e →
          2 ^ s.fld (R.fqBase p) F.fqBase_sizeLog2 ≤ (e.idx + 2 ^ 32 - s.fld (R.fqCons p) F.fqCons_cons) % 2 ^ 32 →
          Does (.faultArrival u) s fun t =>
            Moved t (.pending e.idx) { q with pend := q.pend.map (fun x => if x = e then { e with count := e.count + 1 } else x) }
              ∧ t.fld (R.cntFq p) F.cntFq_merged = min (s.fld (R.cntFq p) F.cntFq_merged + 1) (2 ^ 32 - 1)
              ∧ OnlyRegsIrq { s with ufault := t.ufault, fq := t.fq } t (fqRegs p))
        ∧ (q.find f.key = none → s.fqOpen p = true → hubOpen s (s.fqAddr p idx) 32 → Does (.faultArrival u) s fun t =>
            Moved t (.pending idx) { q with pend := q.pend ++ [⟨idx, f.key, 1⟩] }
              ∧ t.fld (R.fqProd p) F.fqProd_prod = (idx + 1) % 2 ^ 32 ∧ raised t 0 (8 + p)
              ∧ bytesPut s t (s.fqAddr p idx) (s.faultEntry u.ix idx f)
              ∧ CellsKept s t ((s.place (linePa (s.fqAddr p idx / 128))).cell) 128
              ∧ t.cores = s.cores ∧ t.lines = s.lines ∧ t.dies = s.dies)
        ∧ (q.find f.key = none → s.fqOpen p = false → Does (.faultArrival u) s fun t =>
            Moved t .held { q with held := q.held ++ [u.ix] }
              ∧ t.fld (R.cntFq p) F.cntFq_overflow = min (s.fld (R.cntFq p) F.cntFq_overflow + 1) (2 ^ 32 - 1)
              ∧ OnlyRegsIrq { s with ufault := t.ufault, fq := t.fq } t (fqRegs p)))
  ∧ (
      ∀ (m : Master) (p : BitVec 3) (idx : BitVec 32) (s : State),
        let q := s.fqueue p.toNat
        let res (t : State) (np : Bool) := t.flag R.fqResStat F.fqResStat_done = true ∧ t.flag R.fqResStat F.fqResStat_notPending = np
        q.held = [] →
        (passes s m R.fqResolve = true →
          (q.pend.find? (fun x => decide (x.idx = idx.toNat)) = none →
            Does (.resolveRetry m p idx) s (fun t => res t true ∧ OnlyRegs s t [R.fqResolve, R.fqResStat])
            ∧ Does (.resolveAbort m p idx) s (fun t => res t true ∧ OnlyRegs s t [R.fqResolve, R.fqResStat]))
          ∧ (∀ x, q.pend.find? (fun x => decide (x.idx = idx.toNat)) = some x →
            let q' : FqSt := { q with pend := q.pend.filter (fun y => decide (y.idx ≠ idx.toNat)) }
            let Done := fun (t : State) => res t false ∧ t.fld R.fqResStat F.fqResStat_count = min x.count 0xFFFF
              ∧ t.fqueue p.toNat = q' ∧ (∀ r, r ≠ p.toNat → t.fqueue r = s.fqueue r) ∧ t.ufault = [];
            (∀ (c : CoreIx) (f : XlFault), s.ufault = [(c.val, some f)] → f.key.part = p.toNat → f.stand = .pending idx.toNat →
              f.slot < 256 → (s.grp ⟨c, Fin.ofNat 256 f.slot⟩).wait = .fault →
              ∀ i, i = Instr.resolveRetry m p idx ∨ i = Instr.resolveAbort m p idx → Does i s fun t =>
                Done t ∧ t.grp ⟨c, Fin.ofNat 256 f.slot⟩ = { s.grp ⟨c, Fin.ofNat 256 f.slot⟩ with wait := .none }
                  ∧ (∀ h, h ≠ ⟨c, Fin.ofNat 256 f.slot⟩ → t.grp h = s.grp h)
                  ∧ OnlyRegsIrq { s with ufault := t.ufault, fq := t.fq, cores := t.cores } t
                      (R.fqResolve :: R.fqResStat :: fqRegs p.toNat))
            ∧ (∀ (e : SeRef) (f : XlFault) (d : SeDesc), s.ufault = [(seUnit e.ix, some f)] → f.key.part = p.toNat →
              f.stand = .pending idx.toNat → (s.seSt e.ix).fetching = none → (s.seSt e.ix).front = some d → d.start.isSome = true →
              Does (.resolveAbort m p idx) s (fun t => Done t
                  ∧ t.seSt e.ix = (s.seSt e.ix).put { d with status := some 2, errVa := f.va, ended := some s.tick }
                  ∧ OnlyRegsIrq { s with ufault := t.ufault, fq := t.fq, se := t.se } t
                      (R.fqResolve :: R.fqResStat :: e.stat :: fqRegs p.toNat))
              ∧ Does (.resolveRetry m p idx) s (fun t => Done t ∧ t.seSt e.ix = s.seSt e.ix
                  ∧ OnlyRegsIrq { s with ufault := t.ufault, fq := t.fq } t
                      (R.fqResolve :: R.fqResStat :: e.stat :: fqRegs p.toNat)))))
        ∧ (passes s m (R.fqCons p.toNat) = true → ∀ v : BitVec 32,
          let cons := s.fld (R.fqCons p.toNat) F.fqCons_cons
          let prod := s.fld (R.fqProd p.toNat) F.fqProd_prod
          Does (.fqConsWrite m p v) s fun t =>
            t.fld (R.fqCons p.toNat) F.fqCons_cons
                = (if (v.toNat + 2 ^ 32 - cons) % 2 ^ 32 ≤ (prod + 2 ^ 32 - cons) % 2 ^ 32 then v.toNat else cons)
              ∧ (∀ r, t.fqueue r = s.fqueue r)
              ∧ OnlyRegsIrq { s with fq := t.fq } t (R.fqCons p.toNat :: fqRegs p.toNat))
        ∧ (passes s m (R.fqBase p.toNat) = true → ∀ data : Word,
          let a := R.fqBase p.toNat
          Does (.fqBaseWrite m p data) s fun t =>
            t.fld a F.fqBase_enable = F.fqBase_enable.get data
              ∧ (s.flag a F.fqBase_enable = true → t.fld a F.fqBase_base = s.fld a F.fqBase_base
                  ∧ t.fld a F.fqBase_sizeLog2 = s.fld a F.fqBase_sizeLog2)
              ∧ (s.flag a F.fqBase_enable = false → t.fld a F.fqBase_base = F.fqBase_base.get data
                  ∧ t.fld a F.fqBase_sizeLog2 = (if F.fqBase_sizeLog2.legal (F.fqBase_sizeLog2.get data)
                      then F.fqBase_sizeLog2.get data else s.fld a F.fqBase_sizeLog2))
              ∧ (∀ r, t.fqueue r = s.fqueue r) ∧ OnlyRegsIrq { s with fq := t.fq } t (a :: fqRegs p.toNat)))

/-! ## Shuttle engines, weaves and command rings -/

/--
- R527, R540, R542: a doorbell within the ring moves PROD, one beyond it is marked and raises the engine's source; PAUSE,
  RESUME and ENABLE; ABORT ends every descriptor whose data writes have not ended with ABORTED, withdraws the fault and
  pauses.
- R527, R530 to R534: the fetch of a descriptor reads its eight words at FETCH; a bad one joins the queue with status
  BAD_DESCRIPTOR, a good one with every page it touches translated. -/
def Obligations.EngineCommandsAndFetches : Prop :=
  (
      ∀ (m : Master) (e : SeRef) (s : State),
        let k := s.seSt e.ix
        let Put := fun (t : State) (k' : SeSt) => t.seSt e.ix = k' ∧ (∀ i, i ≠ e.ix → t.seSt i = s.seSt i)
        (passes s m e.db = true → ∀ prod : BitVec 32,
          ((prod.toNat + 2 ^ 32 - s.fld e.db F.seDb_fetch) % 2 ^ 32 ≤ 2 ^ s.fld e.ctrl F.seCtrl_ringLog2 →
            Does (.seDoorbell m e prod) s fun t => t.fld e.db F.seDb_prod = prod.toNat
              ∧ t.fld e.db F.seDb_fetch = s.fld e.db F.seDb_fetch ∧ OnlyRegs s t [e.db])
          ∧ (2 ^ s.fld e.ctrl F.seCtrl_ringLog2 < (prod.toNat + 2 ^ 32 - s.fld e.db F.seDb_fetch) % 2 ^ 32 →
            Does (.seDoorbell m e prod) s fun t => t.flag e.event F.seEvent_badDoorbell = true
              ∧ (s.flag e.event F.seEvent_badDoorbell = false → raised t e.site (seSrc e))
              ∧ OnlyRegsIrq s t [e.event, seMsi e]))
        ∧ (passes s m e.cmd = true →
          Does (.sePause m e) s (fun t => Put t { k with paused := true } ∧ OnlyRegs { s with se := t.se } t [e.cmd, e.stat])
          ∧ Does (.seResume m e) s (fun t => Put t { k with paused := false } ∧ OnlyRegs { s with se := t.se } t [e.cmd, e.stat])
          ∧ (s.unitFault (seUnit e.ix) = none → Does (.seAbort m e) s fun t =>
            Put t { k with paused := true, fetching := none,
                           queue := (k.queue ++ k.fetching.toList).map (fun d =>
                             if d.ended = none then { d with status := some 1, errVa := d.nextVa } else d) }
              ∧ OnlyRegs { s with se := t.se } t [e.cmd, e.stat])
          ∧ (∀ f, s.unitFault (seUnit e.ix) = some f → f.stand ≠ .held → Does (.seAbort m e) s fun t =>
              t.unitFault (seUnit e.ix) = none ∧ (t.seSt e.ix).paused = true ∧ (t.seSt e.ix).fetching = none
                ∧ (∀ d ∈ (t.seSt e.ix).queue, d.ended = none → d.status = some 1)
                ∧ OnlyRegs { s with se := t.se, ufault := t.ufault } t [e.cmd, e.stat]))
        ∧ (passes s m e.ctrl = true →
          Does (.seEnableWrite m e false) s (fun t => t.flag e.ctrl F.seCtrl_enable = false ∧ t.fld e.stat F.seStat_state = 0
            ∧ Put t k ∧ OnlyRegs { s with se := t.se } t [e.ctrl, e.stat])
          ∧ Does (.seEnableWrite m e true) s (fun t => t.flag e.ctrl F.seCtrl_enable = true
            ∧ Put t (if s.flag e.ctrl F.seCtrl_enable then k else { k with error := false, paused := false })
            ∧ OnlyRegs { s with se := t.se } t [e.ctrl, e.stat])))
  ∧ (
      ∀ (e : SeRef) (s : State) (x : TlbEnt),
        let k := s.seSt e.ix
        let fetch := s.fld e.db F.seDb_fetch
        let va := s.fld e.ring F.seRing_ring * 64 + 64 * (fetch % 2 ^ s.fld e.ctrl F.seCtrl_ringLog2)
        let pa := x.addr va
        let d : SeDesc := { idx := fetch, fetched := s.tick,
                            words := wordsOf 8 (bits (s.memLine (pa / 128)).data.toNat (8 * (pa % 128)) 512) };
        s.seFetches e = true → k.fetching = none → fetch ≠ s.fld e.db F.seDb_prod → k.queue.length < 256 → pa % 64 = 0 →
        va < 2 ^ 48 → s.unitFault (seUnit e.ix) = none →
        seMaps s e x .read va → lineReads s e.site (s.seTag e) (pa / 128) →
        (d.bad = true → Does (.descriptorFetch e) s fun t =>
          (t.seSt e.ix).queue = k.queue ++ [{ d with status := some 3 }] ∧ t.fld e.db F.seDb_fetch = (fetch + 1) % 2 ^ 32
            ∧ t = { s with se := t.se, regs := t.regs, resp := t.resp, hold := false })
        ∧ (d.bad = false → k.used + d.pages.length ≤ 16384 →
          (∀ q ∈ d.pages, q.1 < 2 ^ 32 ∧ ∃ y, ∀ o, o < 2 ^ 16 → seMaps s e y q.2 (q.1 * 2 ^ 16 + o)) → Does (.descriptorFetch e) s fun t =>
            (∃ rs, (t.seSt e.ix).queue = k.queue ++ [{ d with runs := rs }]
              ∧ ∀ q ∈ d.pages, ∃ y p, seMaps s e y q.2 (q.1 * 2 ^ 16) ∧ findRun rs q.1 q.2 = some p ∧ p.pa = y.addr (q.1 * 2 ^ 16))
            ∧ (t.seSt e.ix).fetching = none ∧ (∀ i, i ≠ e.ix → t.seSt i = s.seSt i)
            ∧ t.fld e.db F.seDb_fetch = (fetch + 1) % 2 ^ 32
            ∧ t = { s with se := t.se, regs := t.regs, resp := t.resp, hold := false }))

/--
- R420, R535, R536: a COPY and a PATTERN of one row within tile memory write the row, a NOTE writes nothing, a REDUCE of one
  element from tile memory combines it into the reduction buffer of its word's home; nothing else in memory changes.
- R537 to R541: a descriptor that completes leaves the queue, is counted and shown by DONE_IDX, sets the DONE and ERROR
  flags it calls for, signals its counter and writes its completion record; a deadline that falls due first marks the
  descriptor late and sets its flag. -/
def Obligations.EngineOperationsAndCompletion : Prop :=
  (
      ∀ (e : SeRef) (s : State) (d : SeDesc), seReady s e d →
        let n := d.rowBytes
        let dst (b : Nat) := d.at_ .write (d.dst 0 + b)
        let Tiles := fun (t : State) (v : Nat → Byte) =>
          (∀ b, b < n → t.tileByte (dst b) = v b) ∧ (∀ a, tileBase ≤ a → (∀ b, b < n → dst b ≠ a) → t.tileByte a = s.tileByte a)
            ∧ OnlyRegs { s with se := t.se, tile := t.tile, tileBad := t.tileBad } t [e.cntBytes, e.stat]
        (d.op = some .copy → (∀ b, b < n → srcInTile s e d b ∧ dstInTile s e d b) →
          (∀ b c, b < n → c < n → (dst b = dst c → b = c) ∧ d.at_ .read (d.src 0 + b) ≠ dst c) →
          Does (.copy e) s fun t => seDid s t e d n ∧ Tiles t (fun b => s.tileByte (d.at_ .read (d.src 0 + b))))
        ∧ (d.op = some .pattern → (∀ b, b < n → dstInTile s e d b) → (∀ b c, b < n → c < n → dst b = dst c → b = c) →
          Does (.pattern e) s fun t => seDid s t e d n ∧ Tiles t (fun b => byteNo (d.w 1) ((d.dst 0 + b) % 8)))
        ∧ (d.op = some .note → d.rowBytes = 1 → Does (.note e) s fun t =>
          seDid s t e d 0 ∧ OnlyRegs { s with se := t.se } t [e.cntBytes, e.stat])
        ∧ (∀ op z l, d.op = some .reduce → d.red = some (op, z, n) → op ≤ 2 → (d.src 0) % n = 0 → (d.dst 0) % n = 0 →
          (∀ b, b < n → srcInTile s e d b) → (findRun d.runs (d.dst 0 / 2 ^ 16) .atomic).isSome = true →
          let pa := d.at_ .atomic (d.dst 0)
          let old := bits l.data.toNat (8 * (pa % 128)) (8 * n)
          let x := ofBytes ((List.range n).map (fun b => s.tileByte (d.at_ .read (d.src 0 + b))));
          pa % n = 0 → redReady s (s.seTag e) pa l → Does (.reduce e) s fun t => seDid s t e d n
            ∧ (∃ l2, t.redLine (pa / 128) = some l2 ∧ bits l2.data.toNat (8 * (pa % 128)) (8 * n) = redNew op n none old x 0)
            ∧ t.tile = s.tile ∧ t.dram = s.dram ∧ t.lines = s.lines))
  ∧ (
      ∀ (e : SeRef) (s : State) (d : SeDesc) (rest : List SeDesc) (st x y : Nat),
        let k := s.seSt e.ix
        let ev := e.event
        let src := seSrc e;
        (k.queue = d :: rest → s.up e.site = true → d.status = some st → d.ended = some x → d.start = some y →
          (d.deadline = 0 ∨ d.late = true ∨ s.tick ≤ d.fetched + d.deadline) →
          let Done := fun (t : State) =>
            t.seSt e.ix = { k with queue := rest, error := k.error || decide (st = 7) } ∧ (∀ i, i ≠ e.ix → t.seSt i = s.seSt i)
              ∧ t.fld e.stat F.seStat_doneIdx = (d.idx + 1) % 2 ^ 32
              ∧ t.fld e.cntDesc F.seCntDesc_descriptors = min (s.fld e.cntDesc F.seCntDesc_descriptors + 1) (2 ^ 32 - 1)
              ∧ t.flag ev F.seEvent_done = (s.flag ev F.seEvent_done || d.irq)
              ∧ t.flag ev F.seEvent_error = (s.flag ev F.seEvent_error || decide (st ≠ 0))
              ∧ (d.irq = true ∨ st ≠ 0 → (s.reg ev).toNat % 16 = 0 →
                  t.fld ev F.seEvent_firstIdx = d.idx % 2 ^ 32 ∧ raised t e.site src)
          let regs := [e.stat, e.cntDesc, ev, seMsi e];
          (d.comp = false → d.sig = false → Does (.descriptorComplete e) s fun t =>
            Done t ∧ OnlyRegsIrq { s with se := t.se } t regs)
          ∧ (d.comp = false → d.sig = true → let obj := bits (d.w 6) 0 14
            let o := s.obj obj
            objReady s obj .counter = true → s.sePart e = o.part.toNat → Does (.descriptorComplete e) s fun t =>
              Done t ∧ t.obj obj = { o with value := BitVec.ofNat 32 (min (o.value.toNat + bits (d.w 6) 32 32) 0xFFFF_FFFF)
                                            ovf := o.ovf || decide (0xFFFF_FFFF < o.value.toNat + bits (d.w 6) 32 32) }
                ∧ (∀ i, i ≠ obj → t.obj i = s.obj i)
                ∧ OnlyRegsIrq { s with se := t.se, sync := t.sync } t (regs ++ syncRegs (obj / 2048)))
          ∧ (∀ p, d.comp = true → d.sig = false → d.compVa % 32 = 0 → findRun d.runs (d.compVa / 2 ^ 16) .write = some p →
            let pa := p.pa + d.compVa % 2 ^ 16;
            pa % 32 = 0 → regionOf pa = .dram → uncReady s (.se e) (pa / 128) (wrCost (spanOf pa 32)) true →
            lineSound s (pa / 128) → s.key (keyIndex s.ranges (linePa (pa / 128))) ≠ 0 → Does (.descriptorComplete e) s fun t =>
              Done t ∧ bytesPut s t pa (d.record e 0) ∧ CellsKept s t ((s.place (linePa (pa / 128))).cell) 128
                ∧ t.tile = s.tile ∧ t.lines = s.lines ∧ t.cores = s.cores))
        ∧ ((k.queue ++ k.fetching.toList).find? (fun d' => decide (d'.idx = d.idx)) = some d → d.idx < 2 ^ 32 → d.deadline ≠ 0 →
          d.late = false → d.ended = none → Does (.descriptorDeadline e (BitVec.ofNat 32 d.idx)) s fun t =>
            t.tick = max s.tick (d.fetched + d.deadline) ∧ t.flag ev F.seEvent_deadline = true
              ∧ ((t.seSt e.ix).queue ++ (t.seSt e.ix).fetching.toList).find? (fun d' => decide (d'.idx = d.idx)) = some { d with late := true }
              ∧ ((s.reg ev).toNat % 16 = 0 → t.fld ev F.seEvent_firstIdx = d.idx ∧ raised t e.site src)
              ∧ OnlyRegsIrq { s with tick := t.tick, se := t.se } t [e.stat, ev, seMsi e]))

/--
- R579, R581, R587 to R589: STAGE begins a load from IDLE and is refused elsewhere; an image that reads, checks and verifies
  is staged with the epoch after the present one; COMMIT opens the vote over the clusters in SCOPE that are in service; ABORT
  drops a staged image or a vote and is refused once the commit applies.
- R585 to R588: a member that is parked or ready reports once, within the deadline, and the last report closes the vote; a
  report after the deadline's tick, and the deadline itself, abort the commit.
- R582, R587, R590: a commit that applies takes the next epoch, its digest and the regulators' words; the epoch reaches a
  cluster outside SCOPE and leaves its configuration alone; a cluster in SCOPE without groups and lines takes its links and
  its configuration; the last arrival ends the commit. -/
def Obligations.WeaveLifecycle : Prop :=
  (
      ∀ (m : Master) (s : State), groupsWf s →
        (passes s m R.wvCmd = true →
          (s.wvState = 0 → Does (.stage m) s fun t => t.wvState = 1 ∧ OnlyRegs s t [R.wvCmd, R.wvStat])
          ∧ (s.wvState ≠ 0 → Does (.stage m) s fun t => t.wvState = s.wvState ∧ t.flag R.wvStat F.wvStat_cmdRefused = true
              ∧ OnlyRegs s t [R.wvCmd, R.wvStat])
          ∧ (∀ im, s.wvState = 2 → s.wv.cand = some im → Does (.commit m) s fun t =>
              t.reg R.wvScope = s.voteMask im ∧ t.reg R.wvVote = 0 ∧ t.wv.cand = some im
                ∧ t.wv.deadline = s.tick + 1000 * s.fld R.wvCtrl F.wvCtrl_timeoutUs ∧ t.wv.engines = s.voteEngines im
                ∧ (∀ cl, cl < 64 → (s.voteMask im).getLsbD cl = true → t.fld (R.wvClEpoch cl) F.wvClEpoch_cstate = 1)
                ∧ t.wvState = (if s.voteMask im = 0 ∧ s.voteEngines im = [] then 4 else 3) ∧ OnlyWeave s t)
          ∧ (s.wvState = 2 → Does (.weaveAbort m) s fun t => t.wvState = 0 ∧ t.wv.cand = none ∧ t.fld R.wvEpoch F.wvEpoch_next = 0
              ∧ t.fld R.wvStat F.wvStat_reason = WvReason.cmdAbort.code ∧ OnlyWeave s t)
          ∧ (s.wvState = 3 → Does (.weaveAbort m) s fun t => t.wvState = 0 ∧ t.wv.cand = none ∧ t.fld R.wvEpoch F.wvEpoch_next = 0
              ∧ t.fld R.wvStat F.wvStat_reason = WvReason.cmdAbort.code
              ∧ t.fld R.wvCntCommit F.wvCntCommit_aborts = min (s.fld R.wvCntCommit F.wvCntCommit_aborts + 1) (2 ^ 32 - 1)
              ∧ (∀ cl, cl < 64 → (s.reg R.wvScope).getLsbD cl = true → t.fld (R.wvClEpoch cl) F.wvClEpoch_cstate = 0)
              ∧ raised t 0 33 ∧ OnlyWeave s t)
          ∧ (s.wvState = 4 ∨ s.wvState = 5 → Does (.weaveAbort m) s fun t =>
              t.flag R.wvStat F.wvStat_cmdRefused = true ∧ t.wvState = s.wvState ∧ OnlyRegs s t [R.wvCmd, R.wvStat]))
        ∧ (∀ im, s.wvState = 1 → imageReads s → s.checkImage s.imageBytes s.imageBytes.length = .ok im →
          (∀ e ∈ im.conf, e.2.kernels = []) → Does .imageStaged s fun t =>
            t.wvState = 2 ∧ t.wv.cand = some im ∧ t.fld R.wvEpoch F.wvEpoch_next = epochAfter (s.fld R.wvEpoch F.wvEpoch_epoch)
              ∧ t.fld R.wvEpoch F.wvEpoch_epoch = s.fld R.wvEpoch F.wvEpoch_epoch ∧ TableRegs s t [R.wvStat, R.wvEpoch]
              ∧ t = { s with wv := t.wv, regs := t.regs, resp := t.resp, hold := false })
        ∧ (s.wvState = 1 → imageMax < s.fld R.wvImgLen F.wvImgLen_len → Does .imageStaged s fun t =>
            t.wvState = 0 ∧ t.fld R.wvStat F.wvStat_reason = WvReason.capacity.code
              ∧ t.fld R.wvCntRefused F.wvCntRefused_refused = min (s.fld R.wvCntRefused F.wvCntRefused_refused + 1) (2 ^ 32 - 1)
              ∧ raised t 0 33 ∧ t.wv = s.wv ∧ t.dram = s.dram ∧ t.cores = s.cores))
  ∧ (
      ∀ (v : Voter) (s : State) (im : Image), groupsWf s → s.wvState = 3 → s.wv.cand = some im →
        let Aborts := fun (t : State) => t.wvState = 0 ∧ t.wv.cand = none ∧ t.fld R.wvEpoch F.wvEpoch_next = 0
          ∧ t.fld R.wvStat F.wvStat_reason = WvReason.timeout.code
          ∧ t.fld R.wvCntCommit F.wvCntCommit_aborts = min (s.fld R.wvCntCommit F.wvCntCommit_aborts + 1) (2 ^ 32 - 1)
          ∧ (∀ cl, cl < 64 → (s.reg R.wvScope).getLsbD cl = true → t.fld (R.wvClEpoch cl) F.wvClEpoch_cstate = 0)
          ∧ raised t 0 33
        (s.inVote v = true → s.hasVoted v = false → s.voterReady im v = true → s.tick ≤ s.wv.deadline →
          (∀ cl, v = .cluster cl → ∀ e ∈ s.heldBy cl.val, e.2.st.dirty = false) →
          Sparse.wf (fun _ => ({} : CacheLine)) s.lines = true → Does (.voteReport v) s fun t =>
            t.hasVoted v = true ∧ (∀ w, w ≠ v → t.hasVoted w = s.hasVoted w) ∧ (∀ w, t.inVote w = s.inVote w)
              ∧ (∀ cl, v = .cluster cl → t.fld (R.wvClEpoch cl.val) F.wvClEpoch_cstate = 2)
              ∧ t.wvState = (if s.reg R.wvScope &&& t.reg R.wvVote = s.reg R.wvScope ∧ ∀ j ∈ s.wv.engines, t.seVoted j = true
                  then 4 else 3)
              ∧ t.wv = s.wv ∧ OnlyWeave s t)
        ∧ (s.inVote v = true → s.hasVoted v = false → s.voterReady im v = true → s.wv.deadline < s.tick →
          Does (.voteReport v) s fun t => Aborts t ∧ OnlyWeave s t
            ∧ t.fld R.wvCntFence F.wvCntFence_lateVotes = min (s.fld R.wvCntFence F.wvCntFence_lateVotes + 1) (2 ^ 32 - 1))
        ∧ Does .voteDeadline s (fun t => Aborts t ∧ t.tick = max s.tick s.wv.deadline ∧ OnlyWeave { s with tick := t.tick } t))
  ∧ (
      ∀ (s : State) (im : Image), s.wv.cand = some im →
        (s.wvState = 4 → im.part = none → Does .applyDone s fun t =>
          t.wvState = 5 ∧ t.fld R.wvEpoch F.wvEpoch_epoch = s.fld R.wvEpoch F.wvEpoch_next ∧ t.fld R.wvEpoch F.wvEpoch_next = 0
            ∧ (∀ i, i < 6 → t.reg (R.wvDigest i) = Word.of (ofBytes ((im.digest.drop (8 * i)).take 8))
                ∧ t.reg (R.secMeas 6 i) = Word.of (ofBytes ((im.digest.drop (8 * i)).take 8)))
            ∧ (∀ ws n c p, im.regu = some ws → n < 8 → c < 2 → p < 8 → s.cdUp n = true →
                t.reg (R.mcReg n c p) = ws.getD (n * 16 + c * 8 + p) 0 ∧ t.pk (R.mcReg n c p) = ws.getD (n * 16 + c * 8 + p) 0)
            ∧ t.wv.coming = (List.range 64).filter (fun cl => s.cdUp (cl / 8))
            ∧ (∀ cl, cl < 64 → s.cdUp (cl / 8) = true → im.scope.getLsbD cl = true → t.fld (R.wvClEpoch cl) F.wvClEpoch_cstate = 3)
            ∧ t = { s with wv := t.wv, pkg := t.pkg, regs := t.regs, resp := t.resp, hold := false })
        ∧ (∀ cl : ClIx, s.wvState = 5 → cl.val ∈ s.wv.coming → s.tileWait = [] →
          let Took := fun (t : State) => t.fld (R.wvClEpoch cl.val) F.wvClEpoch_epoch = s.fld R.wvEpoch F.wvEpoch_epoch
            ∧ t.fld (R.wvClEpoch cl.val) F.wvClEpoch_cstate = 0
          (im.conf.find? (fun e => decide (e.1 = cl.val)) = none → im.part = none → (∃ x ∈ s.wv.coming, x ≠ cl.val) →
            Does (.epochArrival cl) s fun t => Took t ∧ t.wvState = 5
              ∧ t.wv = { s.wv with coming := s.wv.coming.filter (fun x => decide (x ≠ cl.val)) }
              ∧ OnlyRegs { s with wv := t.wv } t [R.wvClEpoch cl.val])
          ∧ (im.conf = [] → im.part = none → s.wv.coming = [cl.val] → s.wv.freed = [] → s.wv.disabled = [] →
            Does (.epochArrival cl) s fun t => Took t ∧ t.wvState = 0 ∧ t.wv.cand = none ∧ t.wv.coming = []
              ∧ t.fld R.wvCntCommit F.wvCntCommit_commits = min (s.fld R.wvCntCommit F.wvCntCommit_commits + 1) (2 ^ 32 - 1)
              ∧ raised t 0 32 ∧ t.clConf = s.clConf ∧ t.cores = s.cores ∧ t.dram = s.dram)
          ∧ (∀ new, im.conf.find? (fun e => decide (e.1 = cl.val)) = some (cl.val, new) → (∃ x ∈ s.wv.coming, x ≠ cl.val) →
            new.part = s.fld (R.l2Stat cl.val) F.l2Stat_part → s.groupsOf cl.val = [] → s.heldBy cl.val = [] →
            bits new.engine.toNat 44 3 = s.fld (R.l2Ctrl cl.val) F.l2Ctrl_tilePairs → Does (.epochArrival cl) s fun t =>
              Took t ∧ t.conf cl.val = new ∧ (∀ k, k ≠ cl.val → t.conf k = s.conf k)
                ∧ (∀ j, j < 128 → t.reg (R.route cl.val j) = new.routes.getD j 0)
                ∧ (∀ c, c < 16 → t.reg (R.srSeed (cl.val * 16 + c)) = new.seeds.getD c 0
                    ∧ t.fld (R.mxCtrl (cl.val * 16 + c)) F.mxCtrl_srThresh = bits new.engine.toNat 0 32)
                ∧ (∀ g, t.grp g = s.grp g) ∧ t.lines = s.lines ∧ t.dram = s.dram ∧ t.tile = s.tile)))

/--
- R603 to R608: a ring takes the command at FETCH: a bad one ends with BAD_CMD; NOP ends OK; SIGNAL adds AMOUNT to its
  counter; WAIT takes AMOUNT from a counter that holds it, and queues at one that does not; LAUNCH is offered when its context
  and its kernel are there, and ends with BAD_LAUNCH otherwise. A doorbell moves PROD within the ring and is marked bad beyond
  it.
- R156, R157, R606: a core that takes a block of a launch gives each of its groups a free slot, with the launch's state,
  and slices whose lanes and registers it has room for, and the block a free barrier unit; everything else it holds stays.
- R607, R609, R610: a command that has completed leaves the front of its ring: its completion is written when it asks for
  one, its counter signalled, its interrupt raised, and DONE and the count of commands move; a launch completes when its last
  block has entered and none of its groups is resident. -/
def Obligations.RingsAndAdmission : Prop :=
  (
      ∀ (r : BitVec 6) (s : State),
        let n := r.toNat
        let part := s.ringPart n
        (∀ c, ringNext s n c → c.bad = true → Does (.nop r) s fun t => ringTook s t n { c with status := some 2 } []
          ∧ t = { s with rings := t.rings, regs := t.regs, resp := t.resp, hold := false })
        ∧ (∀ c, ringNext s n c → c.bad = false → (c.barrier = true → (s.ring n).queue = []) →
          let o := s.obj c.obj
          (c.op = 0 → Does (.nop r) s fun t => ringTook s t n { c with status := some 0 } []
            ∧ t = { s with rings := t.rings, regs := t.regs, resp := t.resp, hold := false })
          ∧ (c.op = 2 → objReady s c.obj .counter = true → part = o.part.toNat → Does (.cmdSignal r) s fun t =>
            ringTook s t n { c with status := some 0 } (syncRegs (c.obj / 2048))
              ∧ t.obj c.obj = { o with value := BitVec.ofNat 32 (min (o.value.toNat + c.amount) 0xFFFF_FFFF)
                                       ovf := o.ovf || decide (0xFFFF_FFFF < o.value.toNat + c.amount) }
              ∧ (∀ i, i ≠ c.obj → t.obj i = s.obj i)
              ∧ t = { s with rings := t.rings, sync := t.sync, imsic := t.imsic, regs := t.regs, resp := t.resp, hold := false })
          ∧ (c.op = 3 → objReady s c.obj .counter = true → part = o.part.toNat → c.amount ≤ o.value.toNat → Does (.cmdWait r) s fun t =>
            ringTook s t n { c with waits := true } (syncRegs (c.obj / 2048))
              ∧ t.ringWaits n = 2 ∧ t.obj c.obj = { o with value := o.value - BitVec.ofNat 32 c.amount }
              ∧ (∀ i, i ≠ c.obj → t.obj i = s.obj i)
              ∧ t = { s with rings := t.rings, ringWait := t.ringWait, sync := t.sync, regs := t.regs, resp := t.resp, hold := false })
          ∧ (c.op = 3 → objReady s c.obj .counter = true → part = o.part.toNat → o.value.toNat < c.amount →
            s.waitersOf (c.obj / 2048) < 4096 → 0 < bits (c.w 6) 0 32 → Does (.cmdWait r) s fun t =>
              ringTook s t n { c with waits := true } []
                ∧ t.ringWaits n = 1
                ∧ t.obj c.obj = { o with queue := [⟨.ring r, c.amount,
                    if bits (c.w 6) 0 32 = 0xFFFF_FFFF then none else some (s.tick + bits (c.w 6) 0 32)⟩] }
                ∧ t = { s with rings := t.rings, ringWait := t.ringWait, sync := t.sync, regs := t.regs, resp := t.resp,
                               hold := false })
          ∧ (c.op = 1 → (∃ e, (s.walker 72).ctxs.find? (fun e => decide (e.ctx = bits (c.w 2) 32 8)) = some e ∧ e.part = part) →
            let id := bits (c.w 0) 16 16
            let there := ∀ cl ∈ targetsOf (Word.of (c.w 1)),
              (s.kernelAt cl id).isSome = true ∧ s.fld (R.l2Stat cl) F.l2Stat_part = part;
            (there → Does (.launch r) s fun t => ringTook s t n c []
              ∧ t.launches = s.launches ++ [⟨r, BitVec.ofNat 32 c.idx, id, bits (c.w 2) 32 8, Word.of (c.w 3), Word.of (c.w 1),
                  bits (c.w 2) 0 32, 0, none, false, 0⟩]
              ∧ t = { s with rings := t.rings, launches := t.launches, regs := t.regs, resp := t.resp, hold := false })
            ∧ (¬ there → Does (.launch r) s fun t => ringTook s t n { c with status := some 3 } []
              ∧ t = { s with rings := t.rings, regs := t.regs, resp := t.resp, hold := false })))
        ∧ (∀ (m : Master) (prod : BitVec 32), passes s m (R.hostDb n) = true →
          let size := 2 ^ s.fld (R.ringCtrl n) F.ringCtrl_sizeLog2
          let ahead := (prod.toNat + 2 ^ 32 - s.fld (R.ringCtrl n) F.ringCtrl_fetch) % 2 ^ 32
          (ahead ≤ size → Does (.ringDoorbell m r prod) s fun t => t.fld (R.hostDb n) F.hostDb_prod = prod.toNat
            ∧ t.fld (R.hostDb n) F.hostDb_done = s.fld (R.hostDb n) F.hostDb_done
            ∧ OnlyRegs { s with bells := t.bells } t [R.hostDb n])
          ∧ (size < ahead → Does (.ringDoorbell m r prod) s fun t => t.flag (R.ringCtrl n) F.ringCtrl_badDoorbell = true
            ∧ t.fld (R.ringCtrl n) F.ringCtrl_fetch = s.fld (R.ringCtrl n) F.ringCtrl_fetch
            ∧ OnlyRegs { s with bells := t.bells } t [R.ringCtrl n])))
  ∧ (
      ∀ (c : CoreIx) (s : State) (l : Launch) (k : Kernel) (sl : List Nat), s.offered c.val = some l → s.taker l = some c.val →
        s.up (coreSite c.val) = true → s.admits l c.val = some (k, sl) → Does (.blockAdmit c) s fun t =>
          s.kernelAt (coreCl c.val) l.kernel = some k ∧ sl.length = k.block
            ∧ ∃ u slots, u < 16 ∧ (s.block c.val u).used = false
              ∧ t.block c.val u = { used := true, ring := l.ring, launch := l.idx, blockNo := l.next, members := slots }
              ∧ (∀ v, v ≠ u → t.block c.val v = s.block c.val v) ∧ slots.length = k.block ∧ slots.Nodup
              ∧ (∀ i, i < k.block → slots.getD i 0 < 256 ∧ (s.grp (groupAt c.val (slots.getD i 0))).resident = false
                  ∧ t.grp (groupAt c.val (slots.getD i 0)) = l.group k u i (sl.getD i 0))
              ∧ (∀ g, (∀ i, i < k.block → g ≠ groupAt c.val (slots.getD i 0)) → t.grp g = s.grp g)
              ∧ (Sparse.wf (fun _ => ({} : Group)) (s.core c.val).groups = true →
                  ∀ i j, i < k.block → sl.getD i 0 ≤ j → j < sl.getD i 0 + k.width / 8 →
                    (sliceLoad (t.core c.val).residents j).1 ≤ 1024 ∧ (sliceLoad (t.core c.val).residents j).2 ≤ 32)
              ∧ t.launches = s.launches.map (fun x =>
                  if x.ring = l.ring ∧ x.idx = l.idx then { x with next := x.next + 1, last := some c.val } else x)
              ∧ t = { s with cores := t.cores, launches := t.launches, drawn := t.drawn, resp := t.resp, hold := false })
  ∧ (
      ∀ (r : BitVec 6) (s : State) (c : RingCmd) (rest : List RingCmd) (st : Nat),
        let n := r.toNat
        let regs := [R.ringCtrl n, R.ringMsiCtrl n, R.hostDb n, R.hostCntCmd]
        let Gone := fun (t : State) =>
          t.launches = s.launches.filter (fun l => !(decide (l.ring = r) && decide (l.idx.toNat = c.idx)))
            ∧ t.killed = s.killed.filter (fun e => decide (e ≠ (r, BitVec.ofNat 32 c.idx)))
        let Irq := fun (t : State) => c.irq = true →
          t.flag (R.ringMsiCtrl n) F.ringMsiCtrl_pend = true
            ∨ (t.file (t.fld (R.ringMsiAddr n) F.ringMsiAddr_file * 0x1000 - regSpace)).getLsbD
                (t.fld (R.ringMsiCtrl n) F.ringMsiCtrl_ident) = true
        (s.ring n).queue = c :: rest → s.ringFaulted n false = false →
        (c.status = some st ∧ c.waits = false
          ∨ c.status = none ∧ c.waits = false ∧ c.op = 1 ∧ st = 0 ∧ c.dcheck = false
            ∧ ∃ l, s.launchOf r c.idx = some l ∧ l.blocks ≤ l.next ∧ s.hasGroup l = false ∧ (r, l.idx) ∉ s.killed) →
        (c.comp = false → c.sig = false → Does (.commandComplete r) s fun t =>
          ringLeft s t n c rest ∧ Gone t ∧ Irq t
            ∧ OnlyRegsIrq { s with rings := t.rings, launches := t.launches, killed := t.killed } t regs)
        ∧ (c.comp = false → c.sig = true → c.op < 2 → objReady s c.obj .counter = true →
          s.ringPart n = (s.obj c.obj).part.toNat → Does (.commandComplete r) s fun t =>
            ringLeft s t n c rest ∧ Gone t ∧ Irq t
              ∧ (t.obj c.obj).value.toNat = min ((s.obj c.obj).value.toNat + c.amount) 0xFFFF_FFFF
              ∧ (∀ i, i ≠ c.obj → t.obj i = s.obj i)
              ∧ OnlyRegsIrq { s with rings := t.rings, launches := t.launches, killed := t.killed, sync := t.sync } t
                  (regs ++ syncRegs (c.obj / 2048)))
        ∧ (∀ x, c.comp = true → c.sig = false → c.compVa % 16 = 0 → (s.ring n).aborted = false →
          ringMaps s n x .write c.compVa →
          let tag : ReqTag := .part (BitVec.ofNat 3 (s.ringPart n))
          let pa := x.addr c.compVa
          let line := pa / 128;
          pa % 16 = 0 → memOpen s tag (linePa line) (wrCost (spanOf pa 16)) true →
          (s.path 0 (s.home line) = .direct ∨ (s.path 0 (s.home line) = .far ∧ (s.sub line).owner = none ∧ s.cacheOn xlIx = false)) →
          (s.dirEnt line).sharers = 0 → ((s.dirEnt line).st = .u ∨ (s.dirEnt line).st = .s) → lineSound s line →
          s.key (keyIndex s.ranges (linePa line)) ≠ 0 → Does (.commandComplete r) s fun t =>
            ringLeft s t n c rest ∧ Gone t ∧ Irq t ∧ bytesPut s t pa (c.record r st s.tick)
              ∧ CellsKept s t ((s.place (linePa line)).cell) 128 ∧ t.tile = s.tile ∧ t.lines = s.lines ∧ t.cores = s.cores
              ∧ t.sync = s.sync))

/-! ## Host dies, the ports and the twin link -/

/--
- R602, R616, R617, R622: the reset of a host die that holds no dirty line, no lock and no run of an engine takes it out
  of service: its link is down, its registers and cache lines are as after reset, its ports are down, the reset is counted and
  reported, and the host is absent when no host die is left.
- R621 to R624: a heartbeat ends the absence that its want caused; a missed one begins absence; absence that lasts begins
  fall-back on the lowest eligible compute die, to which the interrupts of absent host dies go, or shows that there is none;
  HANDBACK ends it. -/
def Obligations.HostResetAndAbsence : Prop :=
  (
      ∀ (hd : Fin 2) (c : Instr) (s : State),
        let site := 9 + hd.val
        resetsHost s hd c → s.dirtyOf (72 + hd.val) = [] → s.flag (R.hostRj hd.val) F.hostRj_enable = false →
        (∀ j, j < 136 → s.seHostRun j = false) → (∀ e ∈ s.sync, ∀ o, (s.obj e.1).owner = some o → ¬ (o.kind = 1 ∧ o.die.toNat = site)) →
        s.ras.length < rasSlots → Does c s fun t =>
          t.up site = false ∧ (∀ n, n ≠ site → t.die n = s.die n) ∧ linkShows t (16 + hd.val) 0
            ∧ (∀ a, a / 0x1_0000_0000 = site → (∀ i, i < 2 → a ≠ R.pcieStat hd.val i) → t.reg a = regReset a)
            ∧ (∀ i, i < 2 → t.reg (R.pcieStat hd.val i) = 0)
            ∧ t.fld R.hostCtrl F.hostCtrl_hdInService = b2n (t.up 9) + 2 * b2n (t.up 10)
            ∧ t.flag R.hostFb F.hostFb_absent = ((!t.up 9 && !t.up 10) || s.host.lapsed)
            ∧ t.fld R.hostCnt F.hostCnt_hostResets = min (s.fld R.hostCnt F.hostCnt_hostResets + 1) (2 ^ 32 - 1)
            ∧ (∃ r ∈ t.ras, r.det.cls.toNat = 9 ∧ r.det.die.toNat = site) ∧ t.told = s.told ++ [.hostReset hd.val]
            ∧ (∀ l, l < 2 ^ 34 → t.cline (72 + hd.val) l = {})
            ∧ (∀ k l, l < 2 ^ 34 → k ≠ 72 + hd.val → t.cline k l = s.cline k l)
            ∧ (∀ a, a / 0x1_0000_0000 ≠ site → ¬ isMsiCtrl a →
                a ∉ [R.hostCtrl, R.hostFb, R.hostCnt, R.rasProd, R.olStat (8 + hd.val), R.olWg (8 + hd.val), R.olSpare (8 + hd.val),
                  R.snapTime 0] → t.reg a = s.reg a)
            ∧ t = { s with dies := t.dies, links := t.links, regs := t.regs, imsic := t.imsic, host := t.host, ras := t.ras,
                           told := t.told, lines := t.lines, subs := t.subs, dir := t.dir, miss := t.miss, snaps := t.snaps, pkgSnap := t.pkgSnap,
                           resp := t.resp, hold := false })
  ∧ (
      ∀ s : State,
        (∀ (m : Master) (v : Word), passes s m R.hostHb = true → Does (.heartbeat m v) s fun t =>
          t.reg R.hostHb = v ∧ t.host = { s.host with beat := s.tick, lapsed := false, since := t.host.since }
            ∧ t.flag R.hostFb F.hostFb_absent = (!s.up 9 && !s.up 10)
            ∧ ((s.up 9 = true ∨ s.up 10 = true) → t.host.since = none ∧ t.flag R.hostFb F.hostFb_fbNone = false)
            ∧ OnlyRegs { s with host := t.host } t [R.hostHb, R.hostFb])
        ∧ (0 < s.fld R.hostFb F.hostFb_hbPeriodMs → s.host.lapsed = false → Does .heartbeatTimeout s fun t =>
            t.tick = max s.tick (s.host.beat + s.fld R.hostFb F.hostFb_hbPeriodMs * 1_000_000)
              ∧ t.flag R.hostFb F.hostFb_absent = true
              ∧ t.host = { s.host with lapsed := true, since := some (s.host.since.getD t.tick) }
              ∧ OnlyRegs { s with tick := t.tick, host := t.host } t [R.hostFb])
        ∧ (∀ x, s.host.since = some x → 0 < s.fld R.hostFb F.hostFb_fbTimeoutMs → s.flag R.hostFb F.hostFb_fbActive = false →
          s.flag R.hostFb F.hostFb_fbNone = false → s.onyx.fbOff = false →
          let due := max s.tick (x + s.fld R.hostFb F.hostFb_fbTimeoutMs * 1_000_000)
          let eligible (n : Nat) := s.cdUp n && s.flag (R.bobCtrl n 0) F.bobCtrl_fbEligible
          ((∀ n, n < 8 → eligible n = false) → Does .fallbackDeadline s fun t =>
            t.tick = due ∧ t.flag R.hostFb F.hostFb_fbNone = true ∧ t.flag R.hostFb F.hostFb_fbActive = false
              ∧ t.told = s.told ++ [.fallbackNone] ∧ OnlyRegs { s with tick := t.tick, told := t.told } t [R.hostFb])
          ∧ (∀ n, n < 8 → eligible n = true → (∀ k, k < n → eligible k = false) → Does .fallbackDeadline s fun t =>
            t.tick = due ∧ t.flag R.hostFb F.hostFb_fbActive = true ∧ t.fld R.hostFb F.hostFb_fbDie = n + 1
              ∧ t.fld R.hostCnt F.hostCnt_fallbacks = min (s.fld R.hostCnt F.hostCnt_fallbacks + 1) (2 ^ 32 - 1)
              ∧ t.fld (R.bobCtrl n 0) F.bobCtrl_role = 2 ∧ t.fld (R.bobCtrl n 1) F.bobCtrl_role = 1
              ∧ (∀ a, isFileReg a = true → t.fld a F.msiAddr_file
                  = if s.lostFile (s.fld a F.msiAddr_file) then (regSpace + cdBase n + 0x61000) / 0x1000 else s.fld a F.msiAddr_file)
              ∧ (∀ a, isFileReg a = false → ¬ isMsiCtrl a → a ∉ [R.hostFb, R.hostCnt, R.bobCtrl n 0, R.bobCtrl n 1] → t.reg a = s.reg a)
              ∧ t = { s with tick := t.tick, regs := t.regs, imsic := t.imsic, resp := t.resp, hold := false }))
        ∧ (∀ m : Master, passes s m R.hostCtrl = true →
          let n := s.fld R.hostFb F.hostFb_fbDie - 1
          (s.flag R.hostFb F.hostFb_fbActive = true → Does (.handback m) s fun t =>
            t.flag R.hostFb F.hostFb_fbActive = false ∧ t.fld (R.bobCtrl n 0) F.bobCtrl_role = 1
              ∧ OnlyRegs s t [R.hostCtrl, R.hostFb, R.bobCtrl n 0])
          ∧ (s.flag R.hostFb F.hostFb_fbActive = false → Does (.handback m) s fun t => OnlyRegs s t [R.hostCtrl])))

/-- R613, R614, R645: a device's request is served within a window of its port that grants it, makes an identity of an
interrupt file pending, and is refused, counted and captured elsewhere; a change of a port's link, a retrain and an error
message set their flag and raise the port's source. -/
def Obligations.PciePorts : Prop :=
  ∀ (hd i : Fin 2) (s : State),
    let site := 9 + hd.val
    let ev := R.pcieEvent hd.val i.val
    let msi := R.msiCtrl site (8 + i.val)
    let Event := fun (t : State) (f : Fld) => t.flag ev f = true ∧ (s.flag ev f = false → raised t site (8 + i.val));
    s.up site = true →
    (∀ (r : DeviceRequest) (bs : List Byte), s.fld (R.pcieStat hd.val i.val) F.pcieStat_speed ≠ 0 →
      let a := r.addr.toNat
      let line := a / 128
      let viol := R.pcieViol hd.val i.val
      let cnt := R.pcieCnt hd.val i.val
      let Refused := fun (t : State) => t.resp = ⟨.error, []⟩
        ∧ t.fld cnt F.pcieCnt_viol = min (s.fld cnt F.pcieCnt_viol + 1) (2 ^ 32 - 1)
        ∧ (s.reg viol = 0 → t.fld viol F.pcieViol_addr = a % 2 ^ 48 ∧ t.fld viol F.pcieViol_reqId = r.reqId.toNat)
        ∧ (s.reg viol ≠ 0 → t.reg viol = s.reg viol) ∧ Event t F.pcieEvent_winViol
        ∧ OnlyRegsIrq s t [cnt, viol, ev, msi];
      (a < regSpace → r.write = some bs → s.dmaOpen hd.val i.val a bs.length true = false →
        ∃ t, exec (.deviceRequest hd i r) s = .next t ∧ Refused t)
      ∧ (r.write = none → s.dmaOpen hd.val i.val a r.len false = false →
        ∃ t, exec (.deviceRequest hd i r) s = .next t ∧ Refused t)
      ∧ (a < regSpace → r.write = some bs → r.ep = false → bs ≠ [] → a % 128 + bs.length ≤ 127 →
        s.dmaOpen hd.val i.val a bs.length true = true → uncOpen s site .host line (wrCost (spanOf a bs.length)) true →
        lineSound s line → s.key (keyIndex s.ranges (linePa line)) ≠ 0 → Does (.deviceRequest hd i r) s fun t =>
          bytesPut s t a bs ∧ CellsKept s t ((s.place (linePa line)).cell) 128 ∧ t.lines = s.lines ∧ t.tile = s.tile)
      ∧ (r.write = none → 0 < r.len → a % 128 + r.len ≤ 128 → s.dmaOpen hd.val i.val a r.len false = true →
        lineReads s site .host line → Does (.deviceRequest hd i r) s fun t =>
          t.resp.data = wordsOf ((r.len + 7) / 8) (bits (s.memLine line).data.toNat (8 * (a % 128)) (8 * r.len))
            ∧ t.dram = s.dram ∧ t.bad = s.bad ∧ t.lines = s.lines)
      ∧ (∀ f, regSpace ≤ a → a < 0xF00_0000_0000 → filePage (a - regSpace) = some f → s.up f = true → a % 0x1000 = 0 →
        r.write = some bs → bs.length = 4 → 1 ≤ ofBytes bs → ofBytes bs ≤ 255 → Does (.deviceRequest hd i r) s fun t =>
          (t.file (a - regSpace)).getLsbD (ofBytes bs) = true
            ∧ (∀ p j, j < 256 → ¬ (p = a - regSpace ∧ j = ofBytes bs) → (t.file p).getLsbD j = (s.file p).getLsbD j)
            ∧ t = { s with imsic := t.imsic, resp := t.resp, hold := false }))
    ∧ (∀ l : PcieLink,
      let st := R.pcieStat hd.val i.val
      let up := s.flag (R.pcieCtrl hd.val i.val) F.pcieCtrl_enable && !l.dpc && decide (l.speed.val ≠ 0)
      Does (.pcieLinkChange hd i l) s fun t =>
        t.fld st F.pcieStat_speed = (if up then l.speed.val else 0) ∧ t.fld st F.pcieStat_width = (if up then l.width.val else 0)
          ∧ t.flag st F.pcieStat_dpc = l.dpc ∧ (t.reg st ≠ s.reg st → Event t F.pcieEvent_linkChange)
          ∧ OnlyRegsIrq s t [st, ev, msi])
    ∧ (∀ u, Does (.aerErrorMessage hd i u) s fun t =>
        Event t (if u then F.pcieEvent_aerUncorr else F.pcieEvent_aerCorr) ∧ OnlyRegsIrq s t [ev, msi])
    ∧ (∀ m : Master, passes s m (R.pcieCtrl hd.val i.val) = true → Does (.pcieRetrain m hd i) s fun t =>
        (s.fld (R.pcieStat hd.val i.val) F.pcieStat_speed ≠ 0 → Event t F.pcieEvent_linkChange)
          ∧ OnlyRegsIrq s t [ev, msi])

/--
- R626, R634, R647, R667: ENABLE, RETRAIN and lanes bring the link to the state their rules give; a peer that is accepted
  brings it into service, one that is not leaves it DOWN, both with an entry in the log.
- R636, R634: a write of another MODE enters it when nothing of R636 stands in the way, or leaves MODE at OFF with the
  reason; OFF is always entered; RESYNC_NEEDED clears.
- R668 to R670: a key update is requested and takes effect under a new phase; a failed flit tag is counted, and the
  seventeenth of a millisecond has the link trained and authenticated again.
- R634, R635, R637, R638: heartbeats and their want move PEER_SEEN; a lease that runs out fences a primary; a secondary that
  has lost both paths for TAKEOVER_MS takes over; UNFENCE ends a fence and the mode. -/
def Obligations.TwinLink : Prop :=
  (
      ∀ s : State,
        let on := s.flag R.twnCtrl F.twnCtrl_enable
        let st := s.fld R.twnStat F.twnStat_state
        let Trained := fun (t : State) => twinFell s t (trainsTo s s.twn.good) ∧ t.fld R.twnStat F.twnStat_lanes = min s.twn.good 16
          ∧ OnlyTwin s t [R.twnCtrl];
        (∀ m : Master, passes s m R.twnCtrl = true → s.fld R.twnCtrl F.twnCtrl_action = 0 →
          (on = false → Does (.twinEnableWrite m true) s fun t => t.flag R.twnCtrl F.twnCtrl_enable = true ∧ Trained t)
          ∧ (on = true → Does (.twinEnableWrite m false) s fun t => t.flag R.twnCtrl F.twnCtrl_enable = false ∧ twinFell s t 0
              ∧ t.fld R.twnStat F.twnStat_lanes = 0 ∧ OnlyTwin s t [R.twnCtrl])
          ∧ (∀ en, on = en → Does (.twinEnableWrite m en) s fun t => OnlyRegs s t [])
          ∧ (on = true → Does (.twinRetrain m) s Trained) ∧ (on = false → Does (.twinRetrain m) s fun t => OnlyRegs s t []))
        ∧ (∀ r : TwinAuth, st = 2 →
          (s.peerOk r = true → Does (.twinAuth r) s fun t =>
            t.fld R.twnStat F.twnStat_state = (if s.twn.good < 16 then 4 else 3)
              ∧ (s.fld R.twnCtrl F.twnCtrl_mode = 1 → t.flag R.twnStat F.twnStat_fenced = false)
              ∧ t.twn = { s.twn with keyed := some s.tick, rekey := false, fails := 0, lost := none, asked := false }
              ∧ TwinLogs s t 0x20 [])
          ∧ (s.peerOk r = false → Does (.twinAuth r) s fun t => twinFell s t 0
              ∧ t.flag R.secEvent F.secEvent_twinAuthFail = true ∧ TwinLogs s t 0x21 [R.secEvent, R.msiCtrl 0 49]))
        ∧ (∀ good : Nat,
          (on = false → Does (.twinLaneLoss good) s fun t => t = { s with twn := { s.twn with good := good }, resp := t.resp, hold := false })
          ∧ (on = true → Does (.twinLaneLoss good) s fun t =>
            t.twn.good = good ∧ t.fld R.twnStat F.twnStat_lanes = min good 16 ∧ OnlyTwin s t []
              ∧ (good < s.fld R.twnCtrl F.twnCtrl_minLanes → twinFell s t 0)
              ∧ (s.fld R.twnCtrl F.twnCtrl_minLanes ≤ good → (st = 0 → twinFell s t 2)
                  ∧ (3 ≤ st → t.fld R.twnStat F.twnStat_state = (if good < 16 then 4 else 3) ∧ t.twn = { s.twn with good := good })
                  ∧ (st = 1 ∨ st = 2 → t.fld R.twnStat F.twnStat_state = st ∧ t.twn = { s.twn with good := good })))))
  ∧ (
      ∀ (m : Master) (mode : BitVec 2) (p : PeerFacts) (s : State), passes s m R.twnCtrl = true → mode.toNat < 3 →
        s.fld R.twnCtrl F.twnCtrl_action = 0 →
        let why := if s.fld R.twnStat F.twnStat_state < 3 then 1 else if p.role = s.flag R.twnCtrl F.twnCtrl_role then 2
          else if p.mode ≠ mode then 3
          else if mode = 1 ∧ (s.flag R.rxj F.rxj_enable = false ∨ p.rxj = false) then 4
          else if mode = 2 ∧ p.digest ≠ (List.range 6).map (fun i => s.reg (R.wvDigest i)) then 5 else 0
        let now := fun (t : State) => t.fld R.twnCtrl F.twnCtrl_mode
        Does (.modeWrite m mode p) s fun t =>
          (mode.toNat = now s → OnlyRegs { s with twn := { s.twn with peer := p } } t [])
            ∧ (mode.toNat ≠ now s → now t = (if mode = 0 ∨ why = 0 then mode.toNat else 0)
                ∧ t.fld R.twnStat F.twnStat_modeRefused = (if mode = 0 then 0 else why)
                ∧ t.flag R.twnStat F.twnStat_resyncNeeded = false
                ∧ (∀ f, f = F.twnCtrl_enable ∨ f = F.twnCtrl_role ∨ f = F.twnCtrl_minLanes → t.fld R.twnCtrl f = s.fld R.twnCtrl f)
                ∧ OnlyRegs { s with twn := { s.twn with peer := p } } t [R.twnCtrl, R.twnStat]))
  ∧ (
      ∀ s : State, s.twinUp = true →
        (s.twn.rekey = false → Does .keyUpdateDue s fun t =>
          t.twn = { s.twn with rekey := true } ∧ OnlyRegs { s with twn := t.twn } t [])
        ∧ (s.twn.rekey = true → Does .keyUpdate s fun t =>
          t.twn = { s.twn with rekey := false, keyed := some s.tick, phase := !s.twn.phase } ∧ OnlyRegs { s with twn := t.twn } t [])
        ∧ (let win := s.tick / 1_000_000
           let n := if s.twn.failWin = win then s.twn.fails + 1 else 1
           let tag := min (s.fld R.secCntAuth F.secCntAuth_tagFail + 1) (2 ^ 32 - 1)
           (n ≤ 16 → Does .flitTagFail s fun t => t.fld R.secCntAuth F.secCntAuth_tagFail = tag
              ∧ t.twn = { s.twn with failWin := win, fails := n } ∧ OnlyRegs { s with twn := t.twn } t [R.secCntAuth])
           ∧ (16 < n → s.onyx.logPending ≤ 1024 → Does .flitTagFail s fun t => t.fld R.secCntAuth F.secCntAuth_tagFail = tag
              ∧ twinFell s t (trainsTo s s.twn.good) ∧ t.twn.fails = 0 ∧ t.fld R.twnStat F.twnStat_lanes = min s.twn.good 16
              ∧ TwinLogs s t 3 [R.secCntAuth])))
  ∧ (
      ∀ s : State,
        (∀ h : WitnessBeat, Does (.witnessHeartbeat h) s fun t =>
          t.flag R.twnStat F.twnStat_peerSeen = true
            ∧ (s.flag R.twnCtrl F.twnCtrl_role = true → t.flag R.twnStat F.twnStat_peerSuspended = h.resync)
            ∧ t.twn = { s.twn with beat := s.tick, lost := none, asked := false, peer := { s.twn.peer with role := h.role, mode := h.mode } }
            ∧ OnlyRegs { s with twn := t.twn } t [R.twnStat])
        ∧ (s.flag R.twnStat F.twnStat_peerSeen = true → Does .witnessTimeout s fun t =>
            t.tick = max s.tick (s.twn.beat + s.fld R.twnWit F.twnWit_witnessMs * 1_000_000)
              ∧ t.flag R.twnStat F.twnStat_peerSeen = false ∧ raised t 0 42
              ∧ (s.twinUp = false → t.twn.lost = some (s.twn.lost.getD t.tick))
              ∧ OnlyRegsIrq { s with tick := t.tick, twn := t.twn } t [R.twnStat, R.msiCtrl 0 42])
        ∧ (∀ x, s.twn.lost = some x → s.mirroring false = true → s.flag R.twnStat F.twnStat_fenced = false → Does .leaseExpiry s fun t =>
            t.tick = max s.tick (x + s.fld R.twnWit F.twnWit_leaseMs * 1_000_000) ∧ t.flag R.twnStat F.twnStat_fenced = true
              ∧ raised t 0 40 ∧ OnlyTwin { s with tick := t.tick } t [])
        ∧ (∀ x, s.twn.lost = some x → s.mirroring true = true →
          let due := x + s.fld R.twnWit F.twnWit_takeoverMs * 1_000_000
          ((s.flag R.twnCtrl F.twnCtrl_autoTakeover = true ∨ s.twn.asked = true) → Does .takeoverDeadline s fun t =>
            t.tick = max s.tick due ∧ tookOver s t ∧ OnlyTwin { s with tick := t.tick } t [R.twnCtrl])
          ∧ (∀ m : Master, passes s m R.twnCtrl = true → s.fld R.twnCtrl F.twnCtrl_action = 0 →
              (due ≤ s.tick → Does (.takeover m) s fun t => tookOver s t ∧ OnlyTwin s t [R.twnCtrl])
              ∧ (s.tick < due → Does (.takeover m) s fun t => t.twn = { s.twn with asked := true } ∧ OnlyRegs { s with twn := t.twn } t [])))
        ∧ (∀ m : Master, passes s m R.twnCtrl = true → s.fld R.twnCtrl F.twnCtrl_action = 0 →
            ((s.twn.lost = none ∨ s.mirroring true = false) → Does (.takeover m) s fun t => OnlyRegs s t [])
            ∧ Does (.unfence m) s fun t => t.flag R.twnStat F.twnStat_fenced = false ∧ t.fld R.twnCtrl F.twnCtrl_mode = 0
                ∧ t.twn = s.twn ∧ OnlyTwin s t [R.twnCtrl]))

/--
- R630 to R633: a MARK of a primary without dirty lines joins the tail with the next number, an acknowledgement shortens
  the tail and shows the mark; a secondary stores an exported record in its journal and refuses another, and a mark applies the
  records of the batch to memory in their order.
- R627, R628: a request of the partner within an exported window reaches memory as one of the range's owner; one outside
  is refused and counted.
- R640, R641, R647: a checked launch that is done asks for the partner's digest; a digest that has come, or comes, in time
  decides its status, and is counted and captured; a wait that times out ends the command with its own status; REARM frees the
  record. -/
def Obligations.MirrorAndDuplex : Prop :=
  (
      ∀ s : State,
        (∀ m : Master, passes s m R.twnCtrl = true → s.fld R.twnCtrl F.twnCtrl_action = 0 →
          (s.recording = true → s.mirDirty = [] → (∀ r ∈ s.red, s.mirrored (linePa r.line) = false) → Does (.mark m) s fun t =>
            t.fld R.mirStat F.mirStat_markSent = (s.fld R.mirStat F.mirStat_markSent + 1) % 2 ^ 32
              ∧ t.twn = { s.twn with tail := s.twn.tail ++ [.mark ((s.fld R.mirStat F.mirStat_markSent + 1) % 2 ^ 32)] }
              ∧ OnlyRegs { s with twn := t.twn } t [R.mirStat])
          ∧ (s.recording = false → Does (.mark m) s fun t => OnlyRegs s t []))
        ∧ (∀ a : MirrorAck, s.mirroring false = true → s.twinUp = true → Does (.mirrorAck a) s fun t =>
            t.twn = { s.twn with tail := ackTail a.count s.twn.tail }
              ∧ t.fld R.mirStat F.mirStat_markApplied = (match a.markApplied with | some n => n.toNat | none => s.fld R.mirStat F.mirStat_markApplied)
              ∧ OnlyRegs { s with twn := t.twn } t [R.mirStat])
        ∧ (s.mirroring true = true → s.twinUp = true →
          (∀ r : MirrorRecord, s.flag R.rxj F.rxj_enable = true →
            let pa := r.pa.toNat / 64 * 64
            (s.exported pa 64 true = false → ∃ t, exec (.mirrorRecord r) s = .next t ∧ t.resp = ⟨.error, []⟩
              ∧ t.fld R.twnCntErr F.twnCntErr_refused = min (s.fld R.twnCntErr F.twnCntErr_refused + 1) (2 ^ 32 - 1)
              ∧ OnlyRegs s t [R.twnCntErr])
            ∧ (s.exported pa 64 true = true → s.twn.rx.length < s.rxRoom → Does (.mirrorRecord r) s fun t =>
              t.twn = { s.twn with rx := s.twn.rx ++ [.word pa (BitVec.ofNat 512 (ofBytes (r.data.take 64))) r.poison] }
                ∧ OnlyRegs { s with twn := t.twn } t []))
          ∧ (∀ n : BitVec 32, rxReady s → Does (.markRecord n) s fun t =>
              t.fld R.mirStat F.mirStat_markApplied = n.toNat ∧ t.twn = { s.twn with rx := [] }
                ∧ (∀ pa v poison, s.twn.rx.reverse.find? (fun r => match r with | .word p _ _ => decide (p = pa) | _ => false)
                    = some (.word pa v poison) → t.cwData pa = v.toNat ∧ t.cwBad pa = false)
                ∧ (∀ c, (∀ pa v, TwnRec.word pa v false ∈ s.twn.rx → c < (s.place pa).cell ∨ (s.place pa).cell + 64 ≤ c) →
                    t.dramByte c = s.dramByte c)
                ∧ t = { s with twn := t.twn, dram := t.dram, tags := t.tags, bad := t.bad, dir := t.dir, subs := t.subs,
                               regs := t.regs, resp := t.resp, hold := false })))
  ∧ (
      ∀ (r : PartnerRequest) (s : State), s.twinUp = true →
        let pa := r.pa.toNat
        let line := pa / 128
        let tag := s.ownerTag pa
        let Refused := fun (t : State) => t.resp = ⟨.error, []⟩
          ∧ t.fld R.twnCntErr F.twnCntErr_refused = min (s.fld R.twnCntErr F.twnCntErr_refused + 1) (2 ^ 32 - 1)
          ∧ OnlyRegs s t [R.twnCntErr];
        (∀ bs, r.write = some bs →
          (s.exported pa bs.length true = false → ∃ t, exec (.partnerRequest r) s = .next t ∧ Refused t)
          ∧ (s.exported pa bs.length true = true → bs ≠ [] → pa % 128 + bs.length ≤ 127 →
            uncOpen s 0 tag line (wrCost (spanOf pa bs.length)) true → lineSound s line → s.key (keyIndex s.ranges (linePa line)) ≠ 0 →
            Does (.partnerRequest r) s fun t => bytesPut s t pa bs ∧ CellsKept s t ((s.place (linePa line)).cell) 128
              ∧ t.lines = s.lines ∧ t.tile = s.tile))
        ∧ (r.write = none →
          (s.exported pa r.len false = false → ∃ t, exec (.partnerRequest r) s = .next t ∧ Refused t)
          ∧ (s.exported pa r.len false = true → 0 < r.len → pa % 128 + r.len ≤ 128 → lineReads s 0 tag line →
            Does (.partnerRequest r) s fun t =>
              t.resp.data = wordsOf ((r.len + 7) / 8) (bits (s.memLine line).data.toNat (8 * (pa % 128)) (8 * r.len))
                ∧ t.dram = s.dram ∧ t.bad = s.bad ∧ t.lines = s.lines)))
  ∧ (
      ∀ s : State,
        (∀ (r : BitVec 6) (c : RingCmd) (rest : List RingCmd) (l : Launch), (s.ring r.toNat).queue = c :: rest →
          s.ringFaulted r.toNat false = false → c.status = none → c.waits = false → c.op = 1 → c.dcheck = true → c.dc = none →
          s.fld R.twnCtrl F.twnCtrl_mode = 2 → s.launchOf r c.idx = some l → l.blocks ≤ l.next → s.hasGroup l = false →
          (r, l.idx) ∉ s.killed →
          (s.triples.find? (fun t => decide (t.ring = r) && decide (t.index.toNat = c.idx)) = none → Does (.commandComplete r) s fun t =>
            t.ring r.toNat = { s.ring r.toNat with queue :=
              { c with dc := some (l.sum, s.tick + 1000 * s.fld R.dcCtrl F.dcCtrl_dcTimeoutUs) } :: rest }
              ∧ (∀ i, i ≠ r.toNat → t.ring i = s.ring i) ∧ OnlyRegs { s with rings := t.rings } t [R.ringCtrl r.toNat])
          ∧ (∀ x, s.triples.find? (fun t => decide (t.ring = r) && decide (t.index.toNat = c.idx)) = some x → c.comp = false → c.sig = false →
            c.irq = false → Does (.commandComplete r) s fun t => ringLeft s t r.toNat c rest ∧ dcMeets s t r c.idx c.tag l.sum x.digest
              ∧ t.triples = s.triples.filter (fun y => decide (y ≠ x))
              ∧ OnlyRegsIrq { s with rings := t.rings, triples := t.triples, launches := t.launches, killed := t.killed } t
                  (R.hostDb r.toNat :: R.hostCntCmd :: dcRegs r.toNat)))
        ∧ (∀ x : Triple,
          let n := x.ring.toNat
          let late := s.dcLate.find? (fun l => decide (l.ring = x.ring) && decide (l.idx = x.index))
          let asks := (s.ring n).queue.find? (fun c => decide (c.idx = x.index.toNat) && c.dc.isSome && c.status.isNone)
          (∀ l, late = some l → Does (.duplexTriple x) s fun t =>
            t.dcLate = s.dcLate.filter (fun y => decide (y ≠ l))
              ∧ t.fld R.twnCntDc F.twnCntDc_compared = min (s.fld R.twnCntDc F.twnCntDc_compared + 1) (2 ^ 32 - 1)
              ∧ t.fld R.twnCntDc F.twnCntDc_mismatches = min (s.fld R.twnCntDc F.twnCntDc_mismatches + 1) (2 ^ 32 - 1)
              ∧ OnlyRegs { s with dcLate := t.dcLate } t [R.twnCntDc])
          ∧ (∀ c mine due, late = none → asks = some c → c.dc = some (mine, due) → Does (.duplexTriple x) s fun t =>
            dcMeets s t x.ring c.idx c.tag mine x.digest
              ∧ t.ring n = { s.ring n with queue := (s.ring n).queue.map (fun y =>
                  if y.idx = c.idx then { y with status := some (if mine = x.digest then 0 else 6) } else y) }
              ∧ (∀ i, i ≠ n → t.ring i = s.ring i) ∧ OnlyRegsIrq { s with rings := t.rings } t (dcRegs n))
          ∧ (late = none → asks = none → Does (.duplexTriple x) s fun t =>
              t = { s with triples := s.triples ++ [x], resp := t.resp, hold := false }))
        ∧ (∀ (r : BitVec 6) (c : RingCmd) (mine : Word) (due : Nat),
          (s.ring r.toNat).queue.find? (fun c => c.dc.isSome && c.status.isNone) = some c → c.dc = some (mine, due) → c.idx < 2 ^ 32 →
          Does (.dcTimeout r) s fun t => t.tick = max s.tick due
            ∧ t.ring r.toNat = { s.ring r.toNat with queue := (s.ring r.toNat).queue.map (fun y =>
                if y.idx = c.idx then { y with status := some 7 } else y) }
            ∧ t.dcLate = s.dcLate ++ [⟨r, BitVec.ofNat 32 c.idx, mine⟩]
            ∧ ((s.reg (R.dcRec 0)).getLsbD 0 = false →
                t.reg (R.dcRec 0) = Word.of (3 + r.toNat * 4 + c.idx * 2 ^ 8) ∧ t.reg (R.dcRec 2) = mine ∧ raised t 0 41)
            ∧ OnlyRegsIrq { s with tick := t.tick, rings := t.rings, dcLate := t.dcLate } t (dcRegs r.toNat))
        ∧ (∀ m : Master, passes s m R.dcCtrl = true → Does (.dcRearm m) s fun t =>
            t.reg (R.dcRec 0) = s.reg (R.dcRec 0) &&& ~~~ 1 ∧ OnlyRegs s t [R.dcRec 0]))

/-! ## Onyx, power and recovery -/

/--
- R674 to R677, R680: what the JTAG port answers; a challenge issues the live nonce until three tokens have been rejected; a
  rejected token is counted and logged and ends the nonce; an accepted one brings DEBUG, with keys, caches and host dies gone;
  tamper ends keys and service for good.
- R653, R654, R659, R665, R666, R713: a request of the mailbox is served by its type and ends with its response; the
  versions rise and the listed revocations are fused; the log is read out; a new image enters the store when its owner accepts
  it and is refused otherwise. -/
def Obligations.OnyxAndDebug : Prop :=
  (
      ∀ s : State,
        Does .bypass s (fun t => t.resp.data = [] ∧ OnlyRegs s t [])
        ∧ Does .idcode s (fun t => t.resp.data = [Config.idcode] ∧ OnlyRegs s t [])
        ∧ (s.fld R.secStat F.secStat_unlockFails < 3 → Does .secChallenge s fun t =>
            (∃ n, n < 2 ^ 128 ∧ t.onyx = { s.onyx with nonce := some (n, s.tick) } ∧ t.resp.data = bytesWords (s.idkHash ++ toBytes 16 n))
              ∧ OnlyOnyx s t [])
        ∧ (3 ≤ s.fld R.secStat F.secStat_unlockFails → Does .secChallenge s fun t =>
            t.resp.data = List.replicate 8 0 ∧ OnlyRegs s t [])
        ∧ (∀ n x, s.onyx.nonce = some (n, x) → Does .nonceExpiry s fun t =>
            t.tick = max s.tick (x + 600_000_000_000) ∧ t.onyx = { s.onyx with nonce := none }
              ∧ OnlyRegs { s with tick := t.tick, onyx := t.onyx } t [])
        ∧ (∀ tok : List Byte, (s.secState = 3 ∨ s.tokenOk tok = false) → Does (.secToken tok) s fun t =>
            t.fld R.secStat F.secStat_unlockFails = min 3 (s.fld R.secStat F.secStat_unlockFails + 1) ∧ t.onyx.nonce = none
              ∧ t.secState = s.secState ∧ t.flag R.secEvent F.secEvent_unlockAttempt = true ∧ Logged s t 0x30
              ∧ OnlyOnyx s t (R.secStat :: R.secEvent :: R.msiCtrl 0 49 :: logSlot))
        ∧ (∀ tok : List Byte, s.secState ≠ 3 → s.tokenOk tok = true → clear s (secToken tok) → Does (.secToken tok) s fun t =>
            t.secState = 2 ∧ t.flag R.secStat F.secStat_jtagUnlocked = true ∧ t.onyx.nonce = none ∧ t.onyx.slots = [none, none]
              ∧ t.onyx.sessions = [false, false, false] ∧ t.key 0 = s.onyx.nextKey ∧ t.key 8 = s.onyx.nextKey + 1
              ∧ (∀ p, 0 < p → p < 8 → t.key p = 0) ∧ t.up 9 = false ∧ t.up 10 = false
              ∧ t.lines = [] ∧ t.dir = [] ∧ t.tile = [] ∧ (∀ c, (t.core c).opc = [] ∧ (t.core c).acc = [])
              ∧ (∀ c, c < 1024 → t.up (coreSite c) = true → (t.core c).halted ≠ 0)
              ∧ (∀ r, r < 64 → t.flag (R.ringCtrl r) F.ringCtrl_pause = true) ∧ t.fld R.twnStat F.twnStat_state = 0
              ∧ s.onyx.logNext < t.onyx.logNext ∧ t.onyx.fused = s.onyx.fused ∧ t.onyx.fuse = s.onyx.fuse)
        ∧ (∀ sensor : BitVec 4, clear s (tamperDetection sensor.toNat) → Does (.tamperDetection sensor) s fun t =>
            t.secState = 3 ∧ t.onyx.fuse = true ∧ t.keys = [] ∧ t.onyx.nonce = none ∧ t.onyx.mbox = none ∧ t.pwr.save = none
              ∧ (∀ n, 1 ≤ n → n ≤ 10 → t.up n = false ∧ (t.die n).held = true) ∧ t.told.getLast? = some .tamper
              ∧ s.onyx.logNext < t.onyx.logNext ∧ t.onyx.fused = s.onyx.fused ∧ t.onyx.store = s.onyx.store))
  ∧ (
      ∀ s : State,
        (∀ req : List Byte, s.onyx.mbox = some req →
          let load := mboxLoad req
          (mboxTyp req = 1 → clear s mboxSpdm → Does .spdm s fun t => mboxDone s t)
          ∧ (mboxTyp req = 2 → mboxOpen s →
            let es := s.onyx.log.filter (fun e => decide (ofBytes (load.take 8) ≤ e.seq)
              && decide (e.seq < ofBytes (load.take 8) + ofBytes (load.drop 8)));
            es.length ≤ 1 → Does .logRead s fun t => mboxDone s t ∧ mboxSays s t 2 0 (es.flatMap LogEntry.bytes)
              ∧ t.onyx = { s.onyx with mbox := none } ∧ t.lines = s.lines ∧ t.tile = s.tile ∧ t.cores = s.cores)
          ∧ (mboxTyp req = 3 → mboxOpen s → Does .commitSvn s fun t => mboxDone s t ∧ mboxSays s t 3 0 []
              ∧ (∀ f, f ∈ [F.secSvn_onyxFw, F.secSvn_hostFw, F.secSvn_bobbinFw, F.secSvn_debugUnlock, F.secSvn_manifest] →
                  f.get t.onyx.fused = max (f.get s.onyx.fused) (f.get s.onyx.running))
              ∧ t.onyx.revoked = s.onyx.revoked ||| (match s.onyx.store with | some m => m.manifest.listed | none => 0)
              ∧ Logged s t 0x16 ∧ t.lines = s.lines ∧ t.tile = s.tile ∧ t.cores = s.cores)
          ∧ (mboxTyp req = 4 → clear s mboxZeroizeAll → Does .zeroizeAll s fun t => packageReset s t ∧ t.pwr.phase = .starting ∧ t.onyx.slots = [none, none]
              ∧ s.onyx.logNext + 2 ≤ t.onyx.logNext))
        ∧ (∀ req : List Byte, byteAt req 0 / 16 = 1 →
          let code := byteAt req 1
          let Error := fun (t : State) (n : Nat) => t.resp.data = bytesWords [req.getD 0 0, 0x7F, BitVec.ofNat 8 n, 0]
            ∧ t.fld R.secCntAuth F.secCntAuth_spdmErr = min (s.fld R.secCntAuth F.secCntAuth_spdmErr + 1) (2 ^ 32 - 1)
            ∧ OnlyRegs s t [R.secCntAuth];
          (2 ≤ s.secState → code = 0x83 ∨ (code = 0xE0 ∧ byteAt req 2 % 2 = 1) → Does (.spdmMctp req) s fun t => Error t 4)
          ∧ (s.secState = 3 → code ≠ 0x84 → code ≠ 0xE1 → code ≠ 0xE0 → code ≠ 0xE4 → Does (.spdmMctp req) s fun t => Error t 4)
          ∧ (∀ m, m < 16 → code = 0xE0 → byteAt req 2 % 2 = 0 → byteAt req 3 = m + 1 → Does (.spdmMctp req) s fun t =>
              ∃ rest : List Byte, rest.length = 34 ∧ t.resp.data = bytesWords ([req.getD 0 0, 0x60, 0, 0, 1] ++ toBytes 3 55
                ++ ([BitVec.ofNat 8 (m + 1), 1, 51, 0, 0, 48, 0] ++ s.meas m) ++ rest) ∧ OnlyOnyx s t []))
        ∧ (s.pwr.phase ≠ .off →
          let Stores := fun (t : State) (f : StoreFacts → StoreFacts) => t.onyx = { s.onyx with store := s.onyx.store.map f }
            ∧ OnlyRegs { s with onyx := t.onyx } t []
          let Fails := fun (c : Instr) => ∃ t, exec c s = .next t ∧ t.resp = ⟨.error, []⟩ ∧ t.onyx.store = s.onyx.store
            ∧ t.fld R.secCntLog F.secCntLog_verifyFails = min (s.fld R.secCntLog F.secCntLog_verifyFails + 1) (2 ^ 32 - 1)
            ∧ t.flag R.secEvent F.secEvent_verifyFail = true ∧ Logged s t 0x11
            ∧ OnlyOnyx s t (R.secCntLog :: R.secEvent :: R.msiCtrl 0 49 :: logSlot)
          (∀ m, Does (.firmwareUpdate (.beryl m true)) s fun t => Stores t (fun x => { x with beryl := m }))
          ∧ (s.secState < 2 → ∀ x : FwFacts,
            (s.verifies .onyxFw x = true → Does (.firmwareUpdate (.onyxFw x)) s fun t => Stores t (fun y => { y with onyxFw := x }))
            ∧ (s.verifies .onyxFw x = false → Fails (.firmwareUpdate (.onyxFw x)))
            ∧ (s.verifies .bobbinFw x = true → Does (.firmwareUpdate (.bobFw x)) s fun t => Stores t (fun y => { y with bobFw := x }))
            ∧ (s.verifies .bobbinFw x = false → Fails (.firmwareUpdate (.bobFw x))))
          ∧ (s.secState < 2 → ∀ m : ManFacts, m.good = true → F.secSvn_manifest.get s.onyx.fused ≤ m.version.toNat →
              Does (.firmwareUpdate (.manifest m)) s fun t => Stores t (fun y => { y with manifest := m }))))

/--
- R688 to R690, R700 to R702, R705, R706, R712, R714: warnings and trips set their flag and are counted; a trigger sheds load
  and begins a save of the critical set with its cause, in the slot that does not hold the newest, or powers a module in DEBUG
  down; SAVE_ONLY begins one that sheds nothing; a trigger during a save is counted, and takes over a SAVE_ONLY.
- R697, R698, R701, R702: a save that completes shows its slot, cause and sequence, and powers the module down unless it was
  a SAVE_ONLY; a dropout leaves the items written; LIST_COMMIT takes a list of well-formed entries and marks another bad. -/
def Obligations.SavesOfState : Prop :=
  (
      ∀ s : State,
        let Event := fun (t : State) (f : Fld) => t.flag R.pwrEvent f = true ∧ (s.flag R.pwrEvent f = false → raised t 0 48)
        let sags (t : State) := t.fld R.pwrCnt F.pwrCnt_sags = min (s.fld R.pwrCnt F.pwrCnt_sags + 1) (2 ^ 32 - 1)
        (s.running = true →
          (∀ v, v < s.fld R.pwrThr F.pwrThr_warnV * 10 → v ≤ 10_000 → Does (.vinWarn v) s fun t => Event t F.pwrEvent_warn
            ∧ t.fld R.pwrCnt F.pwrCnt_warns = min (s.fld R.pwrCnt F.pwrCnt_warns + 1) (2 ^ 32 - 1)
            ∧ OnlyRegsIrq s t [R.pwrEvent, R.pwrCnt, R.msiCtrl 0 48])
          ∧ (∀ x ∈ [(Instr.overvoltage, 1, F.pwrEvent_overvolt), (.overcurrent, 2, F.pwrEvent_overcurrent)], Does x.1 s fun t =>
              Event t x.2.2 ∧ t.pwr = { s.pwr with open_ := x.2.1 } ∧ OnlyRegsIrq { s with pwr := t.pwr } t [R.pwrEvent, R.msiCtrl 0 48])
          ∧ Does .overpower s (fun t => Event t F.pwrEvent_overpower ∧ t.overpower = true
              ∧ OnlyRegsIrq { s with overpower := true } t [R.pwrEvent, R.msiCtrl 0 48])
          ∧ (∀ x ∈ ([(.saveTrigger, s.pwr.open_, s.pwr.cycle), (.gracefulShutdown, 5, s.pwr.cycle),
              (.powerCycle, 5, true)] ++ (List.map (fun w => (Instr.thermalTrip w, 3, s.pwr.cycle))
                [.flow, .inlet, .junction]) : List (Instr × Nat × Bool)),
            let cause := x.2.1
            (s.pwr.save = none → s.fld R.saveStat F.saveStat_state = 0 → s.secState ≠ 2 → s.onyx.slots.length = 2 → Does x.1 s fun t =>
                saveRuns s t cause false ∧ t.pwr.cycle = x.2.2 ∧ Event t F.pwrEvent_sag ∧ sags t
                  ∧ (∀ c, c < 1024 → s.up (coreSite c) = true → (t.core c).halted ≠ 0)
                  ∧ (∀ r, r < 64 → t.flag (R.ringCtrl r) F.ringCtrl_pause = true)
                  ∧ (∀ j, j < 136 → s.up (seRefOf j).site = true → (t.seSt j).paused = true))
            ∧ (s.pwr.save = none → s.fld R.saveStat F.saveStat_state = 0 → s.secState = 2 → Does x.1 s fun t =>
                poweredDown s t cause x.2.2)
            ∧ (∀ r, s.pwr.save = some r → r.only = false → Does x.1 s fun t => sags t ∧ t.pwr = { s.pwr with cycle := x.2.2 }
                ∧ t.onyx = s.onyx ∧ OnlyRegs { s with pwr := t.pwr } t [R.pwrCnt])
            ∧ (∀ r, s.pwr.save = some r → r.only = true → Does x.1 s fun t => sags t ∧ Event t F.pwrEvent_sag
                ∧ t.pwr.save = some { r with cause := cause, only := false, image := { r.image with cause := cause } })))
        ∧ (∀ m : Master, passes s m R.saveCtrl = true →
          (s.fld R.saveStat F.saveStat_state = 0 → s.secState ≠ 2 → s.onyx.slots.length = 2 →
            Does (.saveOnly m) s fun t => saveRuns s t 4 true ∧ (∀ c, (t.core c).halted = (s.core c).halted))
          ∧ (s.fld R.saveStat F.saveStat_state = 0 → s.secState = 2 → Does (.saveOnly m) s fun t =>
              t.fld R.saveStat F.saveStat_lastResult = 2 ∧ OnlyRegs s t [R.saveCtrl, R.saveStat])
          ∧ (s.fld R.saveStat F.saveStat_state ≠ 0 → Does (.saveOnly m) s fun t => OnlyRegs s t [R.saveCtrl])))
  ∧ (
      ∀ s : State,
        (∀ r, s.pwr.save = some r → s.onyx.slots.length = 2 → r.slot < 2 →
          (r.only = true → Does .saveComplete s fun t =>
            t.pwr.save = none ∧ t.onyx.slots.getD r.slot none = some (r.image.written r.image.items.length true)
              ∧ t.fld R.saveStat F.saveStat_state = 0 ∧ t.fld R.saveStat F.saveStat_lastSlot = r.slot
              ∧ t.fld R.saveStat F.saveStat_lastCause = r.cause % 8 ∧ t.fld R.saveStat F.saveStat_lastResult = 0
              ∧ t.fld R.saveStat F.saveStat_lastSeq = r.image.seq % 2 ^ 32 ∧ t.flag R.pwrEvent F.pwrEvent_saveDone = true
              ∧ OnlyRegsIrq { s with pwr := t.pwr, onyx := t.onyx, told := t.told } t [R.saveStat, R.pwrEvent, R.msiCtrl 0 48])
          ∧ (r.only = false → Does .saveComplete s fun t => poweredDown s t r.cause s.pwr.cycle
              ∧ t.onyx.slots.getD r.slot none = some (r.image.written r.image.items.length true))
          ∧ (∀ n, Does (.converterDropout n) s fun t => poweredDown s t (if r.only then 0 else r.cause) s.pwr.cycle
              ∧ t.onyx.slots.getD r.slot none = some (r.image.written n false)))
        ∧ (∀ m : Master, passes s m R.saveCtrl = true →
          let n := s.fld R.saveCtrl F.saveCtrl_listCount
          let base := s.fld R.saveList F.saveList_addr * 4096
          let bs := (List.range (16 * n)).map (fun i => s.memByte (base + i))
          let Bad := fun (t : State) => t.flag R.pwrEvent F.pwrEvent_listBad = true ∧ t.pwr = s.pwr
            ∧ t.reg R.saveStat = s.reg R.saveStat ∧ t.dram = s.dram ∧ t.onyx = s.onyx;
          (256 < n → Does (.listCommit m) s Bad)
          ∧ (1 ≤ n → n ≤ 8 → lineReads s 0 .onyx (base / 128) →
            (∀ l, listEntries bs n = some l → listBytes l ≤ 8 * 2 ^ 20 → Does (.listCommit m) s fun t =>
              t.pwr = { s.pwr with list := l } ∧ t.fld R.saveStat F.saveStat_listEntries = l.length
                ∧ t.fld R.saveStat F.saveStat_listKib = listBytes l / 1024 ∧ t.dram = s.dram ∧ t.onyx = s.onyx)
            ∧ (listEntries bs n = none → Does (.listCommit m) s Bad)
            ∧ (∀ l, listEntries bs n = some l → 8 * 2 ^ 20 < listBytes l → Does (.listCommit m) s Bad))))

/--
- R692, R704, R714, R716: what powers the module on again and off: VIN's return, ON and the standby input clear what holds
  it down; ForceOff, the input and the loss of the standby rail end operation.
- R656, R657, R683, R684, R695, R723: at power-on the HOLD node is measured, and a module that may start boots Onyx: a store
  whose manifest and firmware verify brings it and the spindle into operation; a fuse, an open mesh, a failed ROM test or a bad
  store stops it at its stage. -/
def Obligations.PowerOnAndOff : Prop :=
  (
      ∀ s : State,
        let starts (p : PwrSt) : PwrSt :=
          if p.phase = .standby ∧ p.enable = true ∧ p.waitVin = false ∧ p.waitOn = false ∧ p.thermal = false then { p with phase := .starting } else p
        let Pwr := fun (t : State) (p : PwrSt) => t = { s with pwr := starts p, resp := t.resp, hold := false }
        (s.pwr.phase = .standby → s.pwr.waitVin = true → Does .powerRearm s fun t => Pwr t { s.pwr with waitVin := false })
        ∧ (s.pwr.phase = .standby → Does .on s fun t => Pwr t { s.pwr with waitOn := false })
        ∧ Does (.standbyEnable true) s (fun t => Pwr t { s.pwr with enable := true })
        ∧ (s.pwr.phase = .off ∨ s.pwr.phase = .standby → Does (.standbyEnable false) s fun t =>
            t = { s with pwr := { s.pwr with enable := false }, resp := t.resp, hold := false })
        ∧ (s.pwr.phase = .on ∨ s.pwr.phase = .starting →
            (Does (.standbyEnable false) s fun t => packageReset s t ∧ t.pwr.phase = .standby ∧ t.pwr.enable = false)
            ∧ (Does .forceOff s fun t => packageReset s t ∧ t.pwr.phase = .standby ∧ t.pwr.waitOn = true
                ∧ t.pwr.save = none))
        ∧ Does .standbyRailLoss s (fun t => packageReset s t ∧ t.pwr.phase = .off ∧ t.onyx.logPending = 0
            ∧ t.onyx.log = s.onyx.log.take (s.onyx.log.length - s.onyx.logPending)
            ∧ t.onyx.logNext = s.onyx.logNext - s.onyx.logPending))
  ∧ (
      ∀ (f : PowerFacts) (s : State),
        let p := s.pwr
        let go := p.enable = true ∧ p.waitVin = false ∧ p.waitOn = false ∧ p.thermal = false
        let Stops := fun (t : State) (stage : Nat) => t.secState = 4 ∧ t.fld R.secStat F.secStat_failStage = stage
          ∧ t.pwr.phase = .on ∧ t.onyx.boots = s.onyx.boots + 1 ∧ t.told.getLast? = some .bootFailed ∧ t.keys = s.keys ∧ t.dies = s.dies
        p.phase = .off ∨ p.phase = .starting →
        (f.capUf < 40 → Does (.packagePowerOn f) s fun t => t.pwr = { p with phase := .standby } ∧ t.told = s.told ++ [.bootFailed]
          ∧ t.fld R.pwrHoldup F.pwrHoldup_capUf = f.capUf ∧ t.flag R.pwrHoldup F.pwrHoldup_measValid = true
          ∧ t.flag R.pwrHoldup F.pwrHoldup_holdupLow = true
          ∧ OnlyRegsIrq { s with pwr := t.pwr, told := t.told } t [R.pwrHoldup, R.pwrEvent, R.msiCtrl 0 48])
        ∧ (40 ≤ f.capUf → f.capUf < 65536 → ¬ go → Does (.packagePowerOn f) s fun t => t.pwr = { p with phase := .standby }
          ∧ t.fld R.pwrHoldup F.pwrHoldup_capUf = f.capUf
          ∧ OnlyRegsIrq { s with pwr := t.pwr } t [R.pwrHoldup, R.pwrEvent, R.msiCtrl 0 48])
        ∧ (40 ≤ f.capUf → go → s.secState = 0 →
          let store := match s.onyx.store with | some y => some y | none => f.made
          (f.romTest = false → Does (.packagePowerOn f) s fun t => Stops t 1)
          ∧ (f.romTest = true → s.onyx.fuse = true ∨ f.meshOpen = true → Does (.packagePowerOn f) s fun t =>
              t.secState = 3 ∧ t.told.getLast? = some .tamper ∧ t.dies = s.dies ∧ t.keys = s.keys)
          ∧ (f.romTest = true → s.onyx.fuse = false → f.meshOpen = false →
            (store = none → Does (.packagePowerOn f) s fun t => Stops t 3)
            ∧ (∀ y, store = some y → (y.manifest.good = false ∨ y.manifest.version.toNat < F.secSvn_manifest.get s.onyx.fused) →
                Does (.packagePowerOn f) s fun t => Stops t 3)
            ∧ (∀ y, store = some y → y.manifest.good = true → F.secSvn_manifest.get s.onyx.fused ≤ y.manifest.version.toNat →
              let trusts := ({ s with onyx := { s.onyx with manifest := y.manifest.entries } } : State).verifies .onyxFw y.onyxFw
              (trusts = false → Does (.packagePowerOn f) s fun t => Stops t 4)
              ∧ (trusts = true → (f.die 0).strapFault = 0 → (f.die 0).selfTest = true → (f.die 0).siteId = 0 → (f.die 0).stepping = 4 →
                s.dies = [] → (∀ n, n ≠ 0 → (f.die n).answers = false) → Does (.packagePowerOn f) s fun t =>
                  t.secState = 1 ∧ t.up 0 = true ∧ t.pwr.phase = .on ∧ t.tick = 0 ∧ t.onyx.boots = s.onyx.boots + 1
                    ∧ t.onyx.store = some y ∧ t.onyx.manifest = y.manifest.entries ∧ t.key 0 = s.onyx.nextKey
                    ∧ t.key 8 = s.onyx.nextKey + 1 ∧ s.onyx.logNext < t.onyx.logNext ∧ t.marked = []
                    ∧ t.flag R.tbCtrl F.tbCtrl_refOk = (f.refOk || s.flag R.tbCtrl F.tbCtrl_refOk))))))

/-- R711: a coolant reading comes at the next 10 ms edge. On a running module it writes INLET_T, OUTLET_T and FLOW; COOL_WARN is
set exactly while flow is below 6 L/min (600 hundredths) or inlet above 40 degrees; DERATE_W is then the lesser of the two
caps, in whole watts and at most 5,200, and 0 once both conditions have cleared. The end of a thermal trip (R714) is seen at
the reading too. -/
def Obligations.CoolantReadings : Prop :=
  ∀ (s : State) (r : Coolant),
    let flow := r.flow.toNat
    let inlet := r.inlet.toNat
    let cap := if flow < 600 ∨ 40 < inlet then min 5200 (min (5200 * flow / 600) (5200 * (60 - inlet) / 20)) else 0
    let thermal := s.pwr.thermal && !(decide (600 ≤ flow ∧ 15 ≤ inlet ∧ inlet ≤ 40))
    let starts (p : PwrSt) : PwrSt :=
      if p.phase = .standby ∧ p.enable = true ∧ p.waitVin = false ∧ p.waitOn = false ∧ p.thermal = false then { p with phase := .starting } else p
    Does (.coolantReading r) s fun t => t.tick = (s.tick / 10_000_000 + 1) * 10_000_000
      ∧ (s.running = true → t.fld R.pwrCool F.pwrCool_inletT = inlet ∧ t.fld R.pwrCool F.pwrCool_outletT = r.outlet.toNat
          ∧ t.fld R.pwrCool F.pwrCool_flow = flow ∧ t.flag R.pwrCool F.pwrCool_coolWarn = decide (flow < 600 ∨ 40 < inlet)
          ∧ t.fld R.pwrCool F.pwrCool_derateW = cap ∧ t.pwr = { s.pwr with thermal := thermal }
          ∧ OnlyRegs { s with tick := t.tick, pwr := t.pwr } t [R.pwrCool])
      ∧ (s.running = false → t.pwr = starts { s.pwr with thermal := thermal }
          ∧ t = { s with tick := t.tick, pwr := t.pwr, resp := t.resp, hold := false })

/--
- R257, R478, R736, R737, R739 to R741: a detection is recorded, or merged, with its interrupt; an error in an engine's arrays
  marks the word, one in a cache poisons the copy; a full buffer of unread records drops a correctable error; the reader's
  registers show a record and release read ones; a self-test clears its cache.
- R730 to R732, R744: RESET_CD and a fatal error take a compute die out of service with all it held; RELEASE_CD lets it
  return; RESTORE finds a save and shows when it has been copied to memory; RESET_PKG resets the package. -/
def Obligations.ErrorsAndRecovery : Prop :=
  (
      ∀ s : State,
        (∀ d : Detection, (s.running = true ∨ s.up 0 = true) →
          (s.ras.length < rasSlots →
            (¬ (d.cls = 7 ∧ d.code = 3) → d.cls ≠ 4 → d.cls ≠ 5 → Does (.errorDetection d) s fun t => recorded s t d
              ∧ OnlyRegsIrq { s with ras := t.ras } t (errRegs s d))
            ∧ (d.cls = 5 → 1 ≤ d.die.toNat → d.die.toNat ≤ 8 → d.code = 2 → d.arg0.toNat < 2 →
              let c := unitCore d
              let w := d.arg1.toNat / 8
              Does (.errorDetection d) s fun t => recorded s t d
                ∧ (d.arg0 = 0 → w ∈ (t.core c).opcBad ∧ (t.core c).accBad = (s.core c).accBad)
                ∧ (d.arg0 = 1 → w ∈ (t.core c).accBad ∧ (t.core c).opcBad = (s.core c).opcBad)
                ∧ (∀ k, k ≠ c → t.core k = s.core k) ∧ (t.core c).groups = (s.core c).groups
                ∧ OnlyRegsIrq { s with ras := t.ras, cores := t.cores } t (errRegs s d))
            ∧ (∀ a, d.cls = 4 → d.code = 3 → d.addr = some a → (d.arg0.toNat = 1 ∨ d.arg0.toNat = 2) →
              let h := if d.arg0.toNat = 1 then unitCore d / 16 else xlIx
              let line := a.toNat / 128
              (s.cline h line).st ≠ .i → line < 2 ^ 34 → Does (.errorDetection d) s fun t => recorded s t d
                ∧ (t.cline h line).val.poison = (s.cline h line).val.poison ||| BitVec.ofNat 2 (a.toNat / 64 % 2 + 1)
                ∧ (t.cline h line).val.data = (s.cline h line).val.data ∧ LinesKept s t h line
                ∧ OnlyRegsIrq { s with ras := t.ras, lines := t.lines } t (errRegs s d)))
          ∧ (s.ras.length = rasSlots → d.severity = 0 → newestRec (fun r => decide (r.det.severity = 0)) s.ras = none →
            (∀ r ∈ s.ras, s.fld R.rasCons F.rasCons_cons ≤ r.seq) → d.cls ≠ 4 → d.cls ≠ 5 → d.cls ≠ 7 → Does (.errorDetection d) s fun t =>
              t.ras = s.ras ∧ t.fld R.rasCnt F.rasCnt_droppedCe = min (s.fld R.rasCnt F.rasCnt_droppedCe + 1) (2 ^ 16 - 1)
                ∧ OnlyRegs s t [R.rasCnt]))
        ∧ (∀ (m : Master) (v : Word),
          (passes s m R.rasRecSel = true → Does (.recSelWrite m v) s fun t =>
            t.reg R.rasRecSel = v
              ∧ (∀ i, i < 8 → t.reg (R.rasRec i) = (match s.ras.find? (fun r => decide (r.seq = v.toNat)) with
                  | some r => r.words.getD i 0 | none => 0))
              ∧ OnlyRegs s t (R.rasRecSel :: (List.range 8).map R.rasRec))
          ∧ (passes s m R.rasCons = true → Does (.rasConsWrite m v) s fun t =>
            t.reg R.rasCons = (if v.toNat ≤ s.fld R.rasProd F.rasProd_prod ∧ s.fld R.rasCons F.rasCons_cons ≤ v.toNat then v else s.reg R.rasCons)
              ∧ OnlyRegs s t [R.rasCons]))
        ∧ (s.flag R.secStat F.secStat_jtagUnlocked = true → ∀ (c : CoreIx) (cl : ClIx),
          (Does (.arraySelfTest (.l1 c)) s fun t => (t.core c.val).l1 = [] ∧ (∀ k, k ≠ c.val → t.core k = s.core k)
            ∧ t.flag (R.l1Ctrl (coreCl c.val) (c.val % 16)) F.l1Ctrl_invDone = false
            ∧ OnlyRegs { s with cores := t.cores } t [R.l1Ctrl (coreCl c.val) (c.val % 16)])
          ∧ (Does (.arraySelfTest (.l2 cl)) s fun t => (∀ l, l < 2 ^ 34 → t.cline cl.val l = {})
            ∧ t.flag (R.l2Cmd cl.val) F.l2Cmd_invDone = false ∧ t.dram = s.dram)
          ∧ Does (.arraySelfTest .xl) s fun t => (∀ l, l < 2 ^ 34 → t.cline xlIx l = {}) ∧ t.flag R.xlCmd F.xlCmd_invDone = false
            ∧ t.dram = s.dram))
  ∧ (
      ∀ s : State,
        (∀ (m : Master) (site : BitVec 4), passes s m R.rasCtrl = true →
          (∀ cd, cd < 8 → site.toNat = cd + 1 → s.cdUp cd = true → clear s (fun u => u.busWrite m R.rasCtrl (rasWord 1 site.toNat)) →
            Does (.resetCd m site) s fun t => dieGone s t cd)
          ∧ ((site.toNat = 0 ∨ 8 < site.toNat ∨ s.up site.toNat = false) → Does (.resetCd m site) s fun t => OnlyRegs s t [R.rasCtrl])
          ∧ (1 ≤ site.toNat → site.toNat ≤ 8 → Does (.releaseCd m site) s fun t =>
              t.die site.toNat = { s.die site.toNat with out := false } ∧ (∀ n, n ≠ site.toNat → t.die n = s.die n)
                ∧ OnlyRegs { s with dies := t.dies } t [R.rasCtrl]))
        ∧ (∀ (d : Detection) (cd : Nat), d.cls = 7 → d.code = 3 → cd < 8 → d.die.toNat = cd + 1 → s.cdUp cd = true →
          clear s (errorDetection d) → Does (.errorDetection d) s fun t => dieGone s t cd)
        ∧ (∀ m : Master, passes s m R.rasCtrl = true →
          (s.restoreSlot = none → Does (.restore m) s fun t => t.flag R.rasStat F.rasStat_restoreNone = true ∧ OnlyRegs s t [R.rasCtrl, R.rasStat])
          ∧ (∀ x, s.restoreSlot = some x → Does (.restore m) s fun t => t.flag R.rasStat F.rasStat_restoreBusy = true
              ∧ OnlyRegs s t [R.rasCtrl, R.rasStat])
          ∧ Does (.resetPkg m) s (fun t => packageReset s t ∧ t.pwr.phase = .starting ∧ t.onyx.slots = s.onyx.slots
              ∧ t.onyx.log = s.onyx.log ∧ t.dram = s.dram ∧ t.pending = s.pending))
        ∧ (∀ (i : Nat) (x : SaveSlot), s.flag R.rasStat F.rasStat_restoreBusy = true → s.restoreSlot = some (i, x) →
          let base := s.fld R.rasRestore F.rasRestore_addr * 4096
          let Flags := fun (t : State) => t.flag R.rasStat F.rasStat_restoreBusy = false ∧ t.flag R.rasStat F.rasStat_restoreDone = true;
          (clear s restoreDone → Does .restoreDone s fun t => Flags t ∧ t.onyx = s.onyx ∧ t.pwr = s.pwr)
          ∧ (x.items = [] → uncOpen s 0 .onyx (base / 128) (wrCost (spanOf base 64)) true → lineSound s (base / 128) →
            s.key (keyIndex s.ranges (linePa (base / 128))) ≠ 0 → Does .restoreDone s fun t => Flags t ∧ bytesPut s t base x.header
              ∧ CellsKept s t ((s.place (linePa (base / 128))).cell) 128 ∧ t.lines = s.lines ∧ t.onyx = s.onyx)))

/-- R740: a correctable detection whose class, die, unit, code and address equal those of the newest correctable record, and
which comes within 1 ms of that record's TICK (the end of the interval excluded), raises the record's COUNT, which saturates;
no record is written and no interrupt raised: nothing else changes. One that comes later, or that differs in one of the five,
is written to a record of its own while a slot is free. -/
def Obligations.MergedErrors : Prop :=
  ∀ (s : State) (d : Detection) (n : RasRec), (s.running = true ∨ s.up 0 = true) → d.severity = 0 → d.isCe = true →
    newestRec (fun r => decide (r.det.severity = 0)) s.ras = some n →
    let same := n.det.cls = d.cls ∧ n.det.die = d.die ∧ n.det.unit = d.unit ∧ n.det.code = d.code ∧ n.det.addr = d.addr
    (same → s.tick < n.tick + 1_000_000 → Does (.errorDetection d) s fun t =>
        t.ras = s.ras.map (fun r => if r.seq = n.seq then { r with count := min (r.count + 1) (2 ^ 32 - 1) } else r)
          ∧ OnlyRegs { s with ras := t.ras } t [])
    ∧ (¬ same ∨ n.tick + 1_000_000 ≤ s.tick → s.ras.length < rasSlots → Does (.errorDetection d) s fun t =>
        t.ras = s.ras ++ [⟨s.fld R.rasProd F.rasProd_prod, s.tick, d, 1⟩]
          ∧ t.fld R.rasProd F.rasProd_prod = (s.fld R.rasProd F.rasProd_prod + 1) % 2 ^ 64
          ∧ raised t (errSource s d).1 (errSource s d).2 ∧ OnlyRegsIrq { s with ras := t.ras } t (errRegs s d))
end

