-- ==== Sys2Proof/Laws/Sparse.lean ====
section
/-!
SUPPORT. The laws of sparse arrays: what a read gives after a write, and that every write keeps the canonical form.
-/

namespace Sys2Proof.Machine

theorem Sparse.get_erase {α : Type} (d : Nat → α) (k j : Nat) (m : Sparse α) :
    Sparse.get d (Sparse.erase k m) j = if j = k then d j else Sparse.get d m j := by
  induction m with
  | nil => simp [Sparse.erase, Sparse.get]
  | cons e m ih =>
    obtain ⟨i, w⟩ := e
    by_cases h : k = i
    · subst h
      simp only [Sparse.erase, if_true, ih, Sparse.get]
      split <;> simp_all
    · simp only [Sparse.erase, if_neg h, Sparse.get, ih]
      by_cases hj : j = i
      · subst hj; simp [Ne.symm h]
      · simp [hj]

theorem Sparse.get_insert {α : Type} (d : Nat → α) (k j : Nat) (v : α) (m : Sparse α) :
    Sparse.get d (Sparse.insert k v (Sparse.erase k m)) j = if j = k then v else Sparse.get d m j := by
  induction m with
  | nil => simp [Sparse.erase, Sparse.insert, Sparse.get]
  | cons e m ih =>
    obtain ⟨i, w⟩ := e
    by_cases h : k = i
    · subst h
      simp only [Sparse.erase, if_true, ih, Sparse.get]
      split <;> simp_all
    · simp only [Sparse.erase, if_neg h, Sparse.insert]
      split
      · simp only [Sparse.get, Sparse.get_erase]
        by_cases hk : j = k
        · simp [hk]
        · simp [hk]
      · simp only [Sparse.get, ih]
        by_cases hj : j = i
        · subst hj; simp [Ne.symm h]
        · simp [hj]

/-- A read after a write: the written index reads the value, every other reads as before. -/
theorem Sparse.get_set {α : Type} [DecidableEq α] (d : Nat → α) (m : Sparse α) (k : Nat) (v : α) (j : Nat) :
    Sparse.get d (Sparse.set d m k v) j = if j = k then v else Sparse.get d m j := by
  unfold Sparse.set
  split
  · rename_i h
    rw [Sparse.get_erase]
    split <;> simp_all
  · exact Sparse.get_insert d k j v m

@[simp] theorem Sparse.get_set_same {α : Type} [DecidableEq α] (d : Nat → α) (m : Sparse α) (k : Nat) (v : α) :
    Sparse.get d (Sparse.set d m k v) k = v := by simp [Sparse.get_set]

theorem Sparse.get_set_ne {α : Type} [DecidableEq α] (d : Nat → α) (m : Sparse α) (k : Nat) (v : α) (j : Nat)
    (h : j ≠ k) : Sparse.get d (Sparse.set d m k v) j = Sparse.get d m j := by simp [Sparse.get_set, h]

/-- Every index of the array is above `k`. -/
def Sparse.allAbove {α : Type} (k : Nat) (m : Sparse α) : Prop := ∀ e ∈ m, k < e.1

theorem Sparse.wf_cons {α : Type} [DecidableEq α] (d : Nat → α) (i : Nat) (w : α) (m : Sparse α) :
    Sparse.wf d ((i, w) :: m) = true ↔ w ≠ d i ∧ Sparse.allAbove i m ∧ Sparse.wf d m = true := by
  induction m generalizing i w with
  | nil => simp [Sparse.wf, Sparse.above, Sparse.allAbove]
  | cons e m ih =>
    obtain ⟨j, x⟩ := e
    have hj := ih j x
    simp only [Sparse.wf, Sparse.above, Bool.and_eq_true, decide_eq_true_eq] at hj ⊢
    constructor
    · rintro ⟨⟨hw, hij⟩, h⟩
      have h2 := hj.mp h
      refine ⟨hw, ?_, h⟩
      intro e he
      rcases List.mem_cons.mp he with rfl | he
      · exact hij
      · exact Nat.lt_trans hij (h2.2.1 e he)
    · rintro ⟨hw, ha, h⟩
      exact ⟨⟨hw, ha (j, x) (by simp)⟩, h⟩

theorem Sparse.mem_erase {α : Type} (k : Nat) (m : Sparse α) (e : Nat × α) :
    e ∈ Sparse.erase k m ↔ e ∈ m ∧ e.1 ≠ k := by
  induction m with
  | nil => simp [Sparse.erase]
  | cons f m ih =>
    obtain ⟨i, w⟩ := f
    by_cases h : k = i
    · subst h; simp only [Sparse.erase, if_true, ih]
      constructor
      · rintro ⟨a, b⟩; exact ⟨List.mem_cons_of_mem _ a, b⟩
      · rintro ⟨a, b⟩
        rcases List.mem_cons.mp a with rfl | a
        · exact absurd rfl b
        · exact ⟨a, b⟩
    · simp only [Sparse.erase, if_neg h, List.mem_cons, ih]
      constructor
      · rintro (rfl | ⟨a, b⟩)
        · exact ⟨Or.inl rfl, fun q => h q.symm⟩
        · exact ⟨Or.inr a, b⟩
      · rintro ⟨rfl | a, b⟩
        · exact Or.inl rfl
        · exact Or.inr ⟨a, b⟩

theorem Sparse.wf_erase {α : Type} [DecidableEq α] (d : Nat → α) (k : Nat) (m : Sparse α) (h : Sparse.wf d m = true) :
    Sparse.wf d (Sparse.erase k m) = true := by
  induction m with
  | nil => exact h
  | cons e m ih =>
    obtain ⟨i, w⟩ := e
    obtain ⟨hw, ha, hm⟩ := (Sparse.wf_cons d i w m).mp h
    simp only [Sparse.erase]
    split
    · exact ih hm
    · refine (Sparse.wf_cons d i w _).mpr ⟨hw, fun e he => ha e ((Sparse.mem_erase k m e).mp he).1, ih hm⟩

theorem Sparse.mem_insert {α : Type} (k : Nat) (v : α) (m : Sparse α) (e : Nat × α) :
    e ∈ Sparse.insert k v m ↔ e = (k, v) ∨ e ∈ m := by
  induction m with
  | nil => simp [Sparse.insert]
  | cons f m ih =>
    obtain ⟨i, w⟩ := f
    simp only [Sparse.insert]
    split
    · simp
    · simp only [List.mem_cons, ih]
      constructor
      · rintro (a | a | a)
        · exact Or.inr (Or.inl a)
        · exact Or.inl a
        · exact Or.inr (Or.inr a)
      · rintro (a | a | a)
        · exact Or.inr (Or.inl a)
        · exact Or.inl a
        · exact Or.inr (Or.inr a)

theorem Sparse.wf_insert {α : Type} [DecidableEq α] (d : Nat → α) (k : Nat) (v : α) (m : Sparse α) (hv : v ≠ d k)
    (hk : ∀ e ∈ m, e.1 ≠ k) (h : Sparse.wf d m = true) : Sparse.wf d (Sparse.insert k v m) = true := by
  induction m with
  | nil => simp [Sparse.insert, Sparse.wf, Sparse.above, hv]
  | cons e m ih =>
    obtain ⟨i, w⟩ := e
    obtain ⟨hw, ha, hm⟩ := (Sparse.wf_cons d i w m).mp h
    have hki : k ≠ i := fun q => hk (i, w) (by simp) q.symm
    simp only [Sparse.insert]
    split
    · rename_i hlt
      refine (Sparse.wf_cons d k v _).mpr ⟨hv, ?_, h⟩
      intro e he
      rcases List.mem_cons.mp he with rfl | he
      · exact hlt
      · exact Nat.lt_trans hlt (ha e he)
    · rename_i hlt
      refine (Sparse.wf_cons d i w _).mpr ⟨hw, ?_, ih (fun e he => hk e (List.mem_cons_of_mem _ he)) hm⟩
      intro e he
      rcases (Sparse.mem_insert k v m e).mp he with rfl | he
      · omega
      · exact ha e he

/-- A write keeps the canonical form. -/
theorem Sparse.wf_set {α : Type} [DecidableEq α] (d : Nat → α) (m : Sparse α) (k : Nat) (v : α)
    (h : Sparse.wf d m = true) : Sparse.wf d (Sparse.set d m k v) = true := by
  unfold Sparse.set
  split
  · exact Sparse.wf_erase d k m h
  · rename_i hv
    exact Sparse.wf_insert d k v _ hv (fun e he => ((Sparse.mem_erase k m e).mp he).2) (Sparse.wf_erase d k m h)

/-- Dropping entries keeps the canonical form. -/
theorem Sparse.wf_filter {α : Type} [DecidableEq α] (d : Nat → α) (p : Nat × α → Bool) (m : Sparse α)
    (h : Sparse.wf d m = true) : Sparse.wf d (m.filter p) = true := by
  induction m with
  | nil => exact h
  | cons e m ih =>
    obtain ⟨i, w⟩ := e
    obtain ⟨hw, ha, hm⟩ := (Sparse.wf_cons d i w m).mp h
    simp only [List.filter_cons]
    split
    · exact (Sparse.wf_cons d i w _).mpr ⟨hw, fun e he => ha e (List.mem_filter.mp he).1, ih hm⟩
    · exact ih hm

end Sys2Proof.Machine
end

