-- ==== Sys2Proof/Laws/State.lean ====
section
/-!
SUPPORT. What the updates of the state leave alone: one lemma per field and update, and what a register, a field of
a register, a die, a core and a group read after an update.
-/

namespace Sys2Proof.Machine

@[simp] theorem State.setReg_tick (s : State) (a : Nat) (v : Word) : (s.setReg a v).tick = s.tick := rfl
@[simp] theorem State.setReg_drawn (s : State) (a : Nat) (v : Word) : (s.setReg a v).drawn = s.drawn := rfl
@[simp] theorem State.setReg_resp (s : State) (a : Nat) (v : Word) : (s.setReg a v).resp = s.resp := rfl
@[simp] theorem State.setReg_imsic (s : State) (a : Nat) (v : Word) : (s.setReg a v).imsic = s.imsic := rfl
@[simp] theorem State.setReg_dies (s : State) (a : Nat) (v : Word) : (s.setReg a v).dies = s.dies := rfl
@[simp] theorem State.setReg_links (s : State) (a : Nat) (v : Word) : (s.setReg a v).links = s.links := rfl
@[simp] theorem State.setReg_cores (s : State) (a : Nat) (v : Word) : (s.setReg a v).cores = s.cores := rfl
@[simp] theorem State.setReg_sync (s : State) (a : Nat) (v : Word) : (s.setReg a v).sync = s.sync := rfl
@[simp] theorem State.setReg_ras (s : State) (a : Nat) (v : Word) : (s.setReg a v).ras = s.ras := rfl
@[simp] theorem State.setReg_onyx (s : State) (a : Nat) (v : Word) : (s.setReg a v).onyx = s.onyx := rfl
@[simp] theorem State.setReg_hold (s : State) (a : Nat) (v : Word) : (s.setReg a v).hold = s.hold := rfl
@[simp] theorem State.setReg_stamp (s : State) (a : Nat) (v : Word) : (s.setReg a v).stamp = s.stamp := rfl
@[simp] theorem State.setReg_dram (s : State) (a : Nat) (v : Word) : (s.setReg a v).dram = s.dram := rfl
@[simp] theorem State.setReg_tags (s : State) (a : Nat) (v : Word) : (s.setReg a v).tags = s.tags := rfl
@[simp] theorem State.setReg_bad (s : State) (a : Nat) (v : Word) : (s.setReg a v).bad = s.bad := rfl
@[simp] theorem State.setReg_red (s : State) (a : Nat) (v : Word) : (s.setReg a v).red = s.red := rfl
@[simp] theorem State.setReg_keys (s : State) (a : Nat) (v : Word) : (s.setReg a v).keys = s.keys := rfl
@[simp] theorem State.setReg_sak (s : State) (a : Nat) (v : Word) : (s.setReg a v).sak = s.sak := rfl
@[simp] theorem State.setReg_pkg (s : State) (a : Nat) (v : Word) : (s.setReg a v).pkg = s.pkg := rfl
@[simp] theorem State.setReg_rowCe (s : State) (a : Nat) (v : Word) : (s.setReg a v).rowCe = s.rowCe := rfl
@[simp] theorem State.setReg_zero (s : State) (a : Nat) (v : Word) : (s.setReg a v).zero = s.zero := rfl
@[simp] theorem State.setReg_zeroed (s : State) (a : Nat) (v : Word) : (s.setReg a v).zeroed = s.zeroed := rfl
@[simp] theorem State.setReg_lines (s : State) (a : Nat) (v : Word) : (s.setReg a v).lines = s.lines := rfl
@[simp] theorem State.setReg_subs (s : State) (a : Nat) (v : Word) : (s.setReg a v).subs = s.subs := rfl
@[simp] theorem State.setReg_dir (s : State) (a : Nat) (v : Word) : (s.setReg a v).dir = s.dir := rfl
@[simp] theorem State.setReg_miss (s : State) (a : Nat) (v : Word) : (s.setReg a v).miss = s.miss := rfl
@[simp] theorem State.setReg_tile (s : State) (a : Nat) (v : Word) : (s.setReg a v).tile = s.tile := rfl
@[simp] theorem State.setReg_tileBad (s : State) (a : Nat) (v : Word) : (s.setReg a v).tileBad = s.tileBad := rfl
@[simp] theorem State.setReg_tileWait (s : State) (a : Nat) (v : Word) : (s.setReg a v).tileWait = s.tileWait := rfl
@[simp] theorem State.setReg_walk (s : State) (a : Nat) (v : Word) : (s.setReg a v).walk = s.walk := rfl
@[simp] theorem State.setReg_ufault (s : State) (a : Nat) (v : Word) : (s.setReg a v).ufault = s.ufault := rfl
@[simp] theorem State.setReg_fq (s : State) (a : Nat) (v : Word) : (s.setReg a v).fq = s.fq := rfl
@[simp] theorem State.setReg_shoot (s : State) (a : Nat) (v : Word) : (s.setReg a v).shoot = s.shoot := rfl
@[simp] theorem State.setReg_se (s : State) (a : Nat) (v : Word) : (s.setReg a v).se = s.se := rfl
@[simp] theorem State.setReg_ringWait (s : State) (a : Nat) (v : Word) : (s.setReg a v).ringWait = s.ringWait := rfl
@[simp] theorem State.setReg_clConf (s : State) (a : Nat) (v : Word) : (s.setReg a v).clConf = s.clConf := rfl
@[simp] theorem State.setReg_wv (s : State) (a : Nat) (v : Word) : (s.setReg a v).wv = s.wv := rfl
@[simp] theorem State.setReg_killed (s : State) (a : Nat) (v : Word) : (s.setReg a v).killed = s.killed := rfl
@[simp] theorem State.setReg_rings (s : State) (a : Nat) (v : Word) : (s.setReg a v).rings = s.rings := rfl
@[simp] theorem State.setReg_launches (s : State) (a : Nat) (v : Word) : (s.setReg a v).launches = s.launches := rfl
@[simp] theorem State.setReg_triples (s : State) (a : Nat) (v : Word) : (s.setReg a v).triples = s.triples := rfl
@[simp] theorem State.setReg_dcLate (s : State) (a : Nat) (v : Word) : (s.setReg a v).dcLate = s.dcLate := rfl
@[simp] theorem State.setReg_host (s : State) (a : Nat) (v : Word) : (s.setReg a v).host = s.host := rfl
@[simp] theorem State.setReg_told (s : State) (a : Nat) (v : Word) : (s.setReg a v).told = s.told := rfl
@[simp] theorem State.setReg_twn (s : State) (a : Nat) (v : Word) : (s.setReg a v).twn = s.twn := rfl
@[simp] theorem State.setReg_lost (s : State) (a : Nat) (v : Word) : (s.setReg a v).lost = s.lost := rfl
@[simp] theorem State.setReg_sleep (s : State) (a : Nat) (v : Word) : (s.setReg a v).sleep = s.sleep := rfl
@[simp] theorem State.setReg_waking (s : State) (a : Nat) (v : Word) : (s.setReg a v).waking = s.waking := rfl
@[simp] theorem State.setReg_idleSince (s : State) (a : Nat) (v : Word) : (s.setReg a v).idleSince = s.idleSince := rfl
@[simp] theorem State.setReg_bells (s : State) (a : Nat) (v : Word) : (s.setReg a v).bells = s.bells := rfl
@[simp] theorem State.setReg_hops (s : State) (a : Nat) (v : Word) : (s.setReg a v).hops = s.hops := rfl
@[simp] theorem State.setReg_overpower (s : State) (a : Nat) (v : Word) : (s.setReg a v).overpower = s.overpower := rfl
@[simp] theorem State.setReg_snaps (s : State) (a : Nat) (v : Word) : (s.setReg a v).snaps = s.snaps := rfl
@[simp] theorem State.setReg_pkgSnap (s : State) (a : Nat) (v : Word) : (s.setReg a v).pkgSnap = s.pkgSnap := rfl
@[simp] theorem State.setReg_marked (s : State) (a : Nat) (v : Word) : (s.setReg a v).marked = s.marked := rfl
@[simp] theorem State.setReg_pwr (s : State) (a : Nat) (v : Word) : (s.setReg a v).pwr = s.pwr := rfl
@[simp] theorem State.setReg_pending (s : State) (a : Nat) (v : Word) : (s.setReg a v).pending = s.pending := rfl

@[simp] theorem State.setFld_tick (s : State) (a : Nat) (f : Fld) (v : Nat) : (s.setFld a f v).tick = s.tick := rfl
@[simp] theorem State.setFld_drawn (s : State) (a : Nat) (f : Fld) (v : Nat) : (s.setFld a f v).drawn = s.drawn := rfl
@[simp] theorem State.setFld_resp (s : State) (a : Nat) (f : Fld) (v : Nat) : (s.setFld a f v).resp = s.resp := rfl
@[simp] theorem State.setFld_imsic (s : State) (a : Nat) (f : Fld) (v : Nat) : (s.setFld a f v).imsic = s.imsic := rfl
@[simp] theorem State.setFld_dies (s : State) (a : Nat) (f : Fld) (v : Nat) : (s.setFld a f v).dies = s.dies := rfl
@[simp] theorem State.setFld_links (s : State) (a : Nat) (f : Fld) (v : Nat) : (s.setFld a f v).links = s.links := rfl
@[simp] theorem State.setFld_cores (s : State) (a : Nat) (f : Fld) (v : Nat) : (s.setFld a f v).cores = s.cores := rfl
@[simp] theorem State.setFld_sync (s : State) (a : Nat) (f : Fld) (v : Nat) : (s.setFld a f v).sync = s.sync := rfl
@[simp] theorem State.setFld_ras (s : State) (a : Nat) (f : Fld) (v : Nat) : (s.setFld a f v).ras = s.ras := rfl
@[simp] theorem State.setFld_onyx (s : State) (a : Nat) (f : Fld) (v : Nat) : (s.setFld a f v).onyx = s.onyx := rfl
@[simp] theorem State.setFld_hold (s : State) (a : Nat) (f : Fld) (v : Nat) : (s.setFld a f v).hold = s.hold := rfl
@[simp] theorem State.setFld_stamp (s : State) (a : Nat) (f : Fld) (v : Nat) : (s.setFld a f v).stamp = s.stamp := rfl
@[simp] theorem State.setFld_dram (s : State) (a : Nat) (f : Fld) (v : Nat) : (s.setFld a f v).dram = s.dram := rfl
@[simp] theorem State.setFld_tags (s : State) (a : Nat) (f : Fld) (v : Nat) : (s.setFld a f v).tags = s.tags := rfl
@[simp] theorem State.setFld_bad (s : State) (a : Nat) (f : Fld) (v : Nat) : (s.setFld a f v).bad = s.bad := rfl
@[simp] theorem State.setFld_red (s : State) (a : Nat) (f : Fld) (v : Nat) : (s.setFld a f v).red = s.red := rfl
@[simp] theorem State.setFld_keys (s : State) (a : Nat) (f : Fld) (v : Nat) : (s.setFld a f v).keys = s.keys := rfl
@[simp] theorem State.setFld_sak (s : State) (a : Nat) (f : Fld) (v : Nat) : (s.setFld a f v).sak = s.sak := rfl
@[simp] theorem State.setFld_pkg (s : State) (a : Nat) (f : Fld) (v : Nat) : (s.setFld a f v).pkg = s.pkg := rfl
@[simp] theorem State.setFld_rowCe (s : State) (a : Nat) (f : Fld) (v : Nat) : (s.setFld a f v).rowCe = s.rowCe := rfl
@[simp] theorem State.setFld_zero (s : State) (a : Nat) (f : Fld) (v : Nat) : (s.setFld a f v).zero = s.zero := rfl
@[simp] theorem State.setFld_zeroed (s : State) (a : Nat) (f : Fld) (v : Nat) : (s.setFld a f v).zeroed = s.zeroed := rfl
@[simp] theorem State.setFld_lines (s : State) (a : Nat) (f : Fld) (v : Nat) : (s.setFld a f v).lines = s.lines := rfl
@[simp] theorem State.setFld_subs (s : State) (a : Nat) (f : Fld) (v : Nat) : (s.setFld a f v).subs = s.subs := rfl
@[simp] theorem State.setFld_dir (s : State) (a : Nat) (f : Fld) (v : Nat) : (s.setFld a f v).dir = s.dir := rfl
@[simp] theorem State.setFld_miss (s : State) (a : Nat) (f : Fld) (v : Nat) : (s.setFld a f v).miss = s.miss := rfl
@[simp] theorem State.setFld_tile (s : State) (a : Nat) (f : Fld) (v : Nat) : (s.setFld a f v).tile = s.tile := rfl
@[simp] theorem State.setFld_tileBad (s : State) (a : Nat) (f : Fld) (v : Nat) : (s.setFld a f v).tileBad = s.tileBad := rfl
@[simp] theorem State.setFld_tileWait (s : State) (a : Nat) (f : Fld) (v : Nat) : (s.setFld a f v).tileWait = s.tileWait := rfl
@[simp] theorem State.setFld_walk (s : State) (a : Nat) (f : Fld) (v : Nat) : (s.setFld a f v).walk = s.walk := rfl
@[simp] theorem State.setFld_ufault (s : State) (a : Nat) (f : Fld) (v : Nat) : (s.setFld a f v).ufault = s.ufault := rfl
@[simp] theorem State.setFld_fq (s : State) (a : Nat) (f : Fld) (v : Nat) : (s.setFld a f v).fq = s.fq := rfl
@[simp] theorem State.setFld_shoot (s : State) (a : Nat) (f : Fld) (v : Nat) : (s.setFld a f v).shoot = s.shoot := rfl
@[simp] theorem State.setFld_se (s : State) (a : Nat) (f : Fld) (v : Nat) : (s.setFld a f v).se = s.se := rfl
@[simp] theorem State.setFld_ringWait (s : State) (a : Nat) (f : Fld) (v : Nat) : (s.setFld a f v).ringWait = s.ringWait := rfl
@[simp] theorem State.setFld_clConf (s : State) (a : Nat) (f : Fld) (v : Nat) : (s.setFld a f v).clConf = s.clConf := rfl
@[simp] theorem State.setFld_wv (s : State) (a : Nat) (f : Fld) (v : Nat) : (s.setFld a f v).wv = s.wv := rfl
@[simp] theorem State.setFld_killed (s : State) (a : Nat) (f : Fld) (v : Nat) : (s.setFld a f v).killed = s.killed := rfl
@[simp] theorem State.setFld_rings (s : State) (a : Nat) (f : Fld) (v : Nat) : (s.setFld a f v).rings = s.rings := rfl
@[simp] theorem State.setFld_launches (s : State) (a : Nat) (f : Fld) (v : Nat) : (s.setFld a f v).launches = s.launches := rfl
@[simp] theorem State.setFld_triples (s : State) (a : Nat) (f : Fld) (v : Nat) : (s.setFld a f v).triples = s.triples := rfl
@[simp] theorem State.setFld_dcLate (s : State) (a : Nat) (f : Fld) (v : Nat) : (s.setFld a f v).dcLate = s.dcLate := rfl
@[simp] theorem State.setFld_host (s : State) (a : Nat) (f : Fld) (v : Nat) : (s.setFld a f v).host = s.host := rfl
@[simp] theorem State.setFld_told (s : State) (a : Nat) (f : Fld) (v : Nat) : (s.setFld a f v).told = s.told := rfl
@[simp] theorem State.setFld_twn (s : State) (a : Nat) (f : Fld) (v : Nat) : (s.setFld a f v).twn = s.twn := rfl
@[simp] theorem State.setFld_lost (s : State) (a : Nat) (f : Fld) (v : Nat) : (s.setFld a f v).lost = s.lost := rfl
@[simp] theorem State.setFld_sleep (s : State) (a : Nat) (f : Fld) (v : Nat) : (s.setFld a f v).sleep = s.sleep := rfl
@[simp] theorem State.setFld_waking (s : State) (a : Nat) (f : Fld) (v : Nat) : (s.setFld a f v).waking = s.waking := rfl
@[simp] theorem State.setFld_idleSince (s : State) (a : Nat) (f : Fld) (v : Nat) : (s.setFld a f v).idleSince = s.idleSince := rfl
@[simp] theorem State.setFld_bells (s : State) (a : Nat) (f : Fld) (v : Nat) : (s.setFld a f v).bells = s.bells := rfl
@[simp] theorem State.setFld_hops (s : State) (a : Nat) (f : Fld) (v : Nat) : (s.setFld a f v).hops = s.hops := rfl
@[simp] theorem State.setFld_overpower (s : State) (a : Nat) (f : Fld) (v : Nat) : (s.setFld a f v).overpower = s.overpower := rfl
@[simp] theorem State.setFld_snaps (s : State) (a : Nat) (f : Fld) (v : Nat) : (s.setFld a f v).snaps = s.snaps := rfl
@[simp] theorem State.setFld_pkgSnap (s : State) (a : Nat) (f : Fld) (v : Nat) : (s.setFld a f v).pkgSnap = s.pkgSnap := rfl
@[simp] theorem State.setFld_marked (s : State) (a : Nat) (f : Fld) (v : Nat) : (s.setFld a f v).marked = s.marked := rfl
@[simp] theorem State.setFld_pwr (s : State) (a : Nat) (f : Fld) (v : Nat) : (s.setFld a f v).pwr = s.pwr := rfl
@[simp] theorem State.setFld_pending (s : State) (a : Nat) (f : Fld) (v : Nat) : (s.setFld a f v).pending = s.pending := rfl

@[simp] theorem State.count_tick (s : State) (a : Nat) (f : Fld) (n : Nat) : (s.count a f n).tick = s.tick := rfl
@[simp] theorem State.count_drawn (s : State) (a : Nat) (f : Fld) (n : Nat) : (s.count a f n).drawn = s.drawn := rfl
@[simp] theorem State.count_resp (s : State) (a : Nat) (f : Fld) (n : Nat) : (s.count a f n).resp = s.resp := rfl
@[simp] theorem State.count_imsic (s : State) (a : Nat) (f : Fld) (n : Nat) : (s.count a f n).imsic = s.imsic := rfl
@[simp] theorem State.count_dies (s : State) (a : Nat) (f : Fld) (n : Nat) : (s.count a f n).dies = s.dies := rfl
@[simp] theorem State.count_links (s : State) (a : Nat) (f : Fld) (n : Nat) : (s.count a f n).links = s.links := rfl
@[simp] theorem State.count_cores (s : State) (a : Nat) (f : Fld) (n : Nat) : (s.count a f n).cores = s.cores := rfl
@[simp] theorem State.count_sync (s : State) (a : Nat) (f : Fld) (n : Nat) : (s.count a f n).sync = s.sync := rfl
@[simp] theorem State.count_ras (s : State) (a : Nat) (f : Fld) (n : Nat) : (s.count a f n).ras = s.ras := rfl
@[simp] theorem State.count_onyx (s : State) (a : Nat) (f : Fld) (n : Nat) : (s.count a f n).onyx = s.onyx := rfl
@[simp] theorem State.count_hold (s : State) (a : Nat) (f : Fld) (n : Nat) : (s.count a f n).hold = s.hold := rfl
@[simp] theorem State.count_stamp (s : State) (a : Nat) (f : Fld) (n : Nat) : (s.count a f n).stamp = s.stamp := rfl
@[simp] theorem State.count_dram (s : State) (a : Nat) (f : Fld) (n : Nat) : (s.count a f n).dram = s.dram := rfl
@[simp] theorem State.count_tags (s : State) (a : Nat) (f : Fld) (n : Nat) : (s.count a f n).tags = s.tags := rfl
@[simp] theorem State.count_bad (s : State) (a : Nat) (f : Fld) (n : Nat) : (s.count a f n).bad = s.bad := rfl
@[simp] theorem State.count_red (s : State) (a : Nat) (f : Fld) (n : Nat) : (s.count a f n).red = s.red := rfl
@[simp] theorem State.count_keys (s : State) (a : Nat) (f : Fld) (n : Nat) : (s.count a f n).keys = s.keys := rfl
@[simp] theorem State.count_sak (s : State) (a : Nat) (f : Fld) (n : Nat) : (s.count a f n).sak = s.sak := rfl
@[simp] theorem State.count_pkg (s : State) (a : Nat) (f : Fld) (n : Nat) : (s.count a f n).pkg = s.pkg := rfl
@[simp] theorem State.count_rowCe (s : State) (a : Nat) (f : Fld) (n : Nat) : (s.count a f n).rowCe = s.rowCe := rfl
@[simp] theorem State.count_zero (s : State) (a : Nat) (f : Fld) (n : Nat) : (s.count a f n).zero = s.zero := rfl
@[simp] theorem State.count_zeroed (s : State) (a : Nat) (f : Fld) (n : Nat) : (s.count a f n).zeroed = s.zeroed := rfl
@[simp] theorem State.count_lines (s : State) (a : Nat) (f : Fld) (n : Nat) : (s.count a f n).lines = s.lines := rfl
@[simp] theorem State.count_subs (s : State) (a : Nat) (f : Fld) (n : Nat) : (s.count a f n).subs = s.subs := rfl
@[simp] theorem State.count_dir (s : State) (a : Nat) (f : Fld) (n : Nat) : (s.count a f n).dir = s.dir := rfl
@[simp] theorem State.count_miss (s : State) (a : Nat) (f : Fld) (n : Nat) : (s.count a f n).miss = s.miss := rfl
@[simp] theorem State.count_tile (s : State) (a : Nat) (f : Fld) (n : Nat) : (s.count a f n).tile = s.tile := rfl
@[simp] theorem State.count_tileBad (s : State) (a : Nat) (f : Fld) (n : Nat) : (s.count a f n).tileBad = s.tileBad := rfl
@[simp] theorem State.count_tileWait (s : State) (a : Nat) (f : Fld) (n : Nat) : (s.count a f n).tileWait = s.tileWait := rfl
@[simp] theorem State.count_walk (s : State) (a : Nat) (f : Fld) (n : Nat) : (s.count a f n).walk = s.walk := rfl
@[simp] theorem State.count_ufault (s : State) (a : Nat) (f : Fld) (n : Nat) : (s.count a f n).ufault = s.ufault := rfl
@[simp] theorem State.count_fq (s : State) (a : Nat) (f : Fld) (n : Nat) : (s.count a f n).fq = s.fq := rfl
@[simp] theorem State.count_shoot (s : State) (a : Nat) (f : Fld) (n : Nat) : (s.count a f n).shoot = s.shoot := rfl
@[simp] theorem State.count_se (s : State) (a : Nat) (f : Fld) (n : Nat) : (s.count a f n).se = s.se := rfl
@[simp] theorem State.count_ringWait (s : State) (a : Nat) (f : Fld) (n : Nat) : (s.count a f n).ringWait = s.ringWait := rfl
@[simp] theorem State.count_clConf (s : State) (a : Nat) (f : Fld) (n : Nat) : (s.count a f n).clConf = s.clConf := rfl
@[simp] theorem State.count_wv (s : State) (a : Nat) (f : Fld) (n : Nat) : (s.count a f n).wv = s.wv := rfl
@[simp] theorem State.count_killed (s : State) (a : Nat) (f : Fld) (n : Nat) : (s.count a f n).killed = s.killed := rfl
@[simp] theorem State.count_rings (s : State) (a : Nat) (f : Fld) (n : Nat) : (s.count a f n).rings = s.rings := rfl
@[simp] theorem State.count_launches (s : State) (a : Nat) (f : Fld) (n : Nat) : (s.count a f n).launches = s.launches := rfl
@[simp] theorem State.count_triples (s : State) (a : Nat) (f : Fld) (n : Nat) : (s.count a f n).triples = s.triples := rfl
@[simp] theorem State.count_dcLate (s : State) (a : Nat) (f : Fld) (n : Nat) : (s.count a f n).dcLate = s.dcLate := rfl
@[simp] theorem State.count_host (s : State) (a : Nat) (f : Fld) (n : Nat) : (s.count a f n).host = s.host := rfl
@[simp] theorem State.count_told (s : State) (a : Nat) (f : Fld) (n : Nat) : (s.count a f n).told = s.told := rfl
@[simp] theorem State.count_twn (s : State) (a : Nat) (f : Fld) (n : Nat) : (s.count a f n).twn = s.twn := rfl
@[simp] theorem State.count_lost (s : State) (a : Nat) (f : Fld) (n : Nat) : (s.count a f n).lost = s.lost := rfl
@[simp] theorem State.count_sleep (s : State) (a : Nat) (f : Fld) (n : Nat) : (s.count a f n).sleep = s.sleep := rfl
@[simp] theorem State.count_waking (s : State) (a : Nat) (f : Fld) (n : Nat) : (s.count a f n).waking = s.waking := rfl
@[simp] theorem State.count_idleSince (s : State) (a : Nat) (f : Fld) (n : Nat) : (s.count a f n).idleSince = s.idleSince := rfl
@[simp] theorem State.count_bells (s : State) (a : Nat) (f : Fld) (n : Nat) : (s.count a f n).bells = s.bells := rfl
@[simp] theorem State.count_hops (s : State) (a : Nat) (f : Fld) (n : Nat) : (s.count a f n).hops = s.hops := rfl
@[simp] theorem State.count_overpower (s : State) (a : Nat) (f : Fld) (n : Nat) : (s.count a f n).overpower = s.overpower := rfl
@[simp] theorem State.count_snaps (s : State) (a : Nat) (f : Fld) (n : Nat) : (s.count a f n).snaps = s.snaps := rfl
@[simp] theorem State.count_pkgSnap (s : State) (a : Nat) (f : Fld) (n : Nat) : (s.count a f n).pkgSnap = s.pkgSnap := rfl
@[simp] theorem State.count_marked (s : State) (a : Nat) (f : Fld) (n : Nat) : (s.count a f n).marked = s.marked := rfl
@[simp] theorem State.count_pwr (s : State) (a : Nat) (f : Fld) (n : Nat) : (s.count a f n).pwr = s.pwr := rfl
@[simp] theorem State.count_pending (s : State) (a : Nat) (f : Fld) (n : Nat) : (s.count a f n).pending = s.pending := rfl

@[simp] theorem State.resetRegs_tick (s : State) (lo hi : Nat) : (s.resetRegs lo hi).tick = s.tick := rfl
@[simp] theorem State.resetRegs_drawn (s : State) (lo hi : Nat) : (s.resetRegs lo hi).drawn = s.drawn := rfl
@[simp] theorem State.resetRegs_resp (s : State) (lo hi : Nat) : (s.resetRegs lo hi).resp = s.resp := rfl
@[simp] theorem State.resetRegs_imsic (s : State) (lo hi : Nat) : (s.resetRegs lo hi).imsic = s.imsic := rfl
@[simp] theorem State.resetRegs_dies (s : State) (lo hi : Nat) : (s.resetRegs lo hi).dies = s.dies := rfl
@[simp] theorem State.resetRegs_links (s : State) (lo hi : Nat) : (s.resetRegs lo hi).links = s.links := rfl
@[simp] theorem State.resetRegs_cores (s : State) (lo hi : Nat) : (s.resetRegs lo hi).cores = s.cores := rfl
@[simp] theorem State.resetRegs_sync (s : State) (lo hi : Nat) : (s.resetRegs lo hi).sync = s.sync := rfl
@[simp] theorem State.resetRegs_ras (s : State) (lo hi : Nat) : (s.resetRegs lo hi).ras = s.ras := rfl
@[simp] theorem State.resetRegs_onyx (s : State) (lo hi : Nat) : (s.resetRegs lo hi).onyx = s.onyx := rfl
@[simp] theorem State.resetRegs_hold (s : State) (lo hi : Nat) : (s.resetRegs lo hi).hold = s.hold := rfl
@[simp] theorem State.resetRegs_stamp (s : State) (lo hi : Nat) : (s.resetRegs lo hi).stamp = s.stamp := rfl
@[simp] theorem State.resetRegs_dram (s : State) (lo hi : Nat) : (s.resetRegs lo hi).dram = s.dram := rfl
@[simp] theorem State.resetRegs_tags (s : State) (lo hi : Nat) : (s.resetRegs lo hi).tags = s.tags := rfl
@[simp] theorem State.resetRegs_bad (s : State) (lo hi : Nat) : (s.resetRegs lo hi).bad = s.bad := rfl
@[simp] theorem State.resetRegs_red (s : State) (lo hi : Nat) : (s.resetRegs lo hi).red = s.red := rfl
@[simp] theorem State.resetRegs_keys (s : State) (lo hi : Nat) : (s.resetRegs lo hi).keys = s.keys := rfl
@[simp] theorem State.resetRegs_sak (s : State) (lo hi : Nat) : (s.resetRegs lo hi).sak = s.sak := rfl
@[simp] theorem State.resetRegs_pkg (s : State) (lo hi : Nat) : (s.resetRegs lo hi).pkg = s.pkg := rfl
@[simp] theorem State.resetRegs_rowCe (s : State) (lo hi : Nat) : (s.resetRegs lo hi).rowCe = s.rowCe := rfl
@[simp] theorem State.resetRegs_zero (s : State) (lo hi : Nat) : (s.resetRegs lo hi).zero = s.zero := rfl
@[simp] theorem State.resetRegs_zeroed (s : State) (lo hi : Nat) : (s.resetRegs lo hi).zeroed = s.zeroed := rfl
@[simp] theorem State.resetRegs_lines (s : State) (lo hi : Nat) : (s.resetRegs lo hi).lines = s.lines := rfl
@[simp] theorem State.resetRegs_subs (s : State) (lo hi : Nat) : (s.resetRegs lo hi).subs = s.subs := rfl
@[simp] theorem State.resetRegs_dir (s : State) (lo hi : Nat) : (s.resetRegs lo hi).dir = s.dir := rfl
@[simp] theorem State.resetRegs_miss (s : State) (lo hi : Nat) : (s.resetRegs lo hi).miss = s.miss := rfl
@[simp] theorem State.resetRegs_tile (s : State) (lo hi : Nat) : (s.resetRegs lo hi).tile = s.tile := rfl
@[simp] theorem State.resetRegs_tileBad (s : State) (lo hi : Nat) : (s.resetRegs lo hi).tileBad = s.tileBad := rfl
@[simp] theorem State.resetRegs_tileWait (s : State) (lo hi : Nat) : (s.resetRegs lo hi).tileWait = s.tileWait := rfl
@[simp] theorem State.resetRegs_walk (s : State) (lo hi : Nat) : (s.resetRegs lo hi).walk = s.walk := rfl
@[simp] theorem State.resetRegs_ufault (s : State) (lo hi : Nat) : (s.resetRegs lo hi).ufault = s.ufault := rfl
@[simp] theorem State.resetRegs_fq (s : State) (lo hi : Nat) : (s.resetRegs lo hi).fq = s.fq := rfl
@[simp] theorem State.resetRegs_shoot (s : State) (lo hi : Nat) : (s.resetRegs lo hi).shoot = s.shoot := rfl
@[simp] theorem State.resetRegs_se (s : State) (lo hi : Nat) : (s.resetRegs lo hi).se = s.se := rfl
@[simp] theorem State.resetRegs_ringWait (s : State) (lo hi : Nat) : (s.resetRegs lo hi).ringWait = s.ringWait := rfl
@[simp] theorem State.resetRegs_clConf (s : State) (lo hi : Nat) : (s.resetRegs lo hi).clConf = s.clConf := rfl
@[simp] theorem State.resetRegs_wv (s : State) (lo hi : Nat) : (s.resetRegs lo hi).wv = s.wv := rfl
@[simp] theorem State.resetRegs_killed (s : State) (lo hi : Nat) : (s.resetRegs lo hi).killed = s.killed := rfl
@[simp] theorem State.resetRegs_rings (s : State) (lo hi : Nat) : (s.resetRegs lo hi).rings = s.rings := rfl
@[simp] theorem State.resetRegs_launches (s : State) (lo hi : Nat) : (s.resetRegs lo hi).launches = s.launches := rfl
@[simp] theorem State.resetRegs_triples (s : State) (lo hi : Nat) : (s.resetRegs lo hi).triples = s.triples := rfl
@[simp] theorem State.resetRegs_dcLate (s : State) (lo hi : Nat) : (s.resetRegs lo hi).dcLate = s.dcLate := rfl
@[simp] theorem State.resetRegs_host (s : State) (lo hi : Nat) : (s.resetRegs lo hi).host = s.host := rfl
@[simp] theorem State.resetRegs_told (s : State) (lo hi : Nat) : (s.resetRegs lo hi).told = s.told := rfl
@[simp] theorem State.resetRegs_twn (s : State) (lo hi : Nat) : (s.resetRegs lo hi).twn = s.twn := rfl
@[simp] theorem State.resetRegs_lost (s : State) (lo hi : Nat) : (s.resetRegs lo hi).lost = s.lost := rfl
@[simp] theorem State.resetRegs_sleep (s : State) (lo hi : Nat) : (s.resetRegs lo hi).sleep = s.sleep := rfl
@[simp] theorem State.resetRegs_waking (s : State) (lo hi : Nat) : (s.resetRegs lo hi).waking = s.waking := rfl
@[simp] theorem State.resetRegs_idleSince (s : State) (lo hi : Nat) : (s.resetRegs lo hi).idleSince = s.idleSince := rfl
@[simp] theorem State.resetRegs_bells (s : State) (lo hi : Nat) : (s.resetRegs lo hi).bells = s.bells := rfl
@[simp] theorem State.resetRegs_hops (s : State) (lo hi : Nat) : (s.resetRegs lo hi).hops = s.hops := rfl
@[simp] theorem State.resetRegs_overpower (s : State) (lo hi : Nat) : (s.resetRegs lo hi).overpower = s.overpower := rfl
@[simp] theorem State.resetRegs_snaps (s : State) (lo hi : Nat) : (s.resetRegs lo hi).snaps = s.snaps := rfl
@[simp] theorem State.resetRegs_pkgSnap (s : State) (lo hi : Nat) : (s.resetRegs lo hi).pkgSnap = s.pkgSnap := rfl
@[simp] theorem State.resetRegs_marked (s : State) (lo hi : Nat) : (s.resetRegs lo hi).marked = s.marked := rfl
@[simp] theorem State.resetRegs_pwr (s : State) (lo hi : Nat) : (s.resetRegs lo hi).pwr = s.pwr := rfl
@[simp] theorem State.resetRegs_pending (s : State) (lo hi : Nat) : (s.resetRegs lo hi).pending = s.pending := rfl

@[simp] theorem State.until_drawn (s : State) (n : Nat) : (s.until n).drawn = s.drawn := rfl
@[simp] theorem State.until_resp (s : State) (n : Nat) : (s.until n).resp = s.resp := rfl
@[simp] theorem State.until_regs (s : State) (n : Nat) : (s.until n).regs = s.regs := rfl
@[simp] theorem State.until_imsic (s : State) (n : Nat) : (s.until n).imsic = s.imsic := rfl
@[simp] theorem State.until_dies (s : State) (n : Nat) : (s.until n).dies = s.dies := rfl
@[simp] theorem State.until_links (s : State) (n : Nat) : (s.until n).links = s.links := rfl
@[simp] theorem State.until_cores (s : State) (n : Nat) : (s.until n).cores = s.cores := rfl
@[simp] theorem State.until_sync (s : State) (n : Nat) : (s.until n).sync = s.sync := rfl
@[simp] theorem State.until_ras (s : State) (n : Nat) : (s.until n).ras = s.ras := rfl
@[simp] theorem State.until_onyx (s : State) (n : Nat) : (s.until n).onyx = s.onyx := rfl
@[simp] theorem State.until_hold (s : State) (n : Nat) : (s.until n).hold = s.hold := rfl
@[simp] theorem State.until_stamp (s : State) (n : Nat) : (s.until n).stamp = s.stamp := rfl
@[simp] theorem State.until_dram (s : State) (n : Nat) : (s.until n).dram = s.dram := rfl
@[simp] theorem State.until_tags (s : State) (n : Nat) : (s.until n).tags = s.tags := rfl
@[simp] theorem State.until_bad (s : State) (n : Nat) : (s.until n).bad = s.bad := rfl
@[simp] theorem State.until_red (s : State) (n : Nat) : (s.until n).red = s.red := rfl
@[simp] theorem State.until_keys (s : State) (n : Nat) : (s.until n).keys = s.keys := rfl
@[simp] theorem State.until_sak (s : State) (n : Nat) : (s.until n).sak = s.sak := rfl
@[simp] theorem State.until_pkg (s : State) (n : Nat) : (s.until n).pkg = s.pkg := rfl
@[simp] theorem State.until_rowCe (s : State) (n : Nat) : (s.until n).rowCe = s.rowCe := rfl
@[simp] theorem State.until_zero (s : State) (n : Nat) : (s.until n).zero = s.zero := rfl
@[simp] theorem State.until_zeroed (s : State) (n : Nat) : (s.until n).zeroed = s.zeroed := rfl
@[simp] theorem State.until_lines (s : State) (n : Nat) : (s.until n).lines = s.lines := rfl
@[simp] theorem State.until_subs (s : State) (n : Nat) : (s.until n).subs = s.subs := rfl
@[simp] theorem State.until_dir (s : State) (n : Nat) : (s.until n).dir = s.dir := rfl
@[simp] theorem State.until_miss (s : State) (n : Nat) : (s.until n).miss = s.miss := rfl
@[simp] theorem State.until_tile (s : State) (n : Nat) : (s.until n).tile = s.tile := rfl
@[simp] theorem State.until_tileBad (s : State) (n : Nat) : (s.until n).tileBad = s.tileBad := rfl
@[simp] theorem State.until_tileWait (s : State) (n : Nat) : (s.until n).tileWait = s.tileWait := rfl
@[simp] theorem State.until_walk (s : State) (n : Nat) : (s.until n).walk = s.walk := rfl
@[simp] theorem State.until_ufault (s : State) (n : Nat) : (s.until n).ufault = s.ufault := rfl
@[simp] theorem State.until_fq (s : State) (n : Nat) : (s.until n).fq = s.fq := rfl
@[simp] theorem State.until_shoot (s : State) (n : Nat) : (s.until n).shoot = s.shoot := rfl
@[simp] theorem State.until_se (s : State) (n : Nat) : (s.until n).se = s.se := rfl
@[simp] theorem State.until_ringWait (s : State) (n : Nat) : (s.until n).ringWait = s.ringWait := rfl
@[simp] theorem State.until_clConf (s : State) (n : Nat) : (s.until n).clConf = s.clConf := rfl
@[simp] theorem State.until_wv (s : State) (n : Nat) : (s.until n).wv = s.wv := rfl
@[simp] theorem State.until_killed (s : State) (n : Nat) : (s.until n).killed = s.killed := rfl
@[simp] theorem State.until_rings (s : State) (n : Nat) : (s.until n).rings = s.rings := rfl
@[simp] theorem State.until_launches (s : State) (n : Nat) : (s.until n).launches = s.launches := rfl
@[simp] theorem State.until_triples (s : State) (n : Nat) : (s.until n).triples = s.triples := rfl
@[simp] theorem State.until_dcLate (s : State) (n : Nat) : (s.until n).dcLate = s.dcLate := rfl
@[simp] theorem State.until_host (s : State) (n : Nat) : (s.until n).host = s.host := rfl
@[simp] theorem State.until_told (s : State) (n : Nat) : (s.until n).told = s.told := rfl
@[simp] theorem State.until_twn (s : State) (n : Nat) : (s.until n).twn = s.twn := rfl
@[simp] theorem State.until_lost (s : State) (n : Nat) : (s.until n).lost = s.lost := rfl
@[simp] theorem State.until_sleep (s : State) (n : Nat) : (s.until n).sleep = s.sleep := rfl
@[simp] theorem State.until_waking (s : State) (n : Nat) : (s.until n).waking = s.waking := rfl
@[simp] theorem State.until_idleSince (s : State) (n : Nat) : (s.until n).idleSince = s.idleSince := rfl
@[simp] theorem State.until_bells (s : State) (n : Nat) : (s.until n).bells = s.bells := rfl
@[simp] theorem State.until_hops (s : State) (n : Nat) : (s.until n).hops = s.hops := rfl
@[simp] theorem State.until_overpower (s : State) (n : Nat) : (s.until n).overpower = s.overpower := rfl
@[simp] theorem State.until_snaps (s : State) (n : Nat) : (s.until n).snaps = s.snaps := rfl
@[simp] theorem State.until_pkgSnap (s : State) (n : Nat) : (s.until n).pkgSnap = s.pkgSnap := rfl
@[simp] theorem State.until_marked (s : State) (n : Nat) : (s.until n).marked = s.marked := rfl
@[simp] theorem State.until_pwr (s : State) (n : Nat) : (s.until n).pwr = s.pwr := rfl
@[simp] theorem State.until_pending (s : State) (n : Nat) : (s.until n).pending = s.pending := rfl

@[simp] theorem State.answer_tick (s : State) (st : RespStatus) (data : List Word) : (s.answer st data).tick = s.tick := rfl
@[simp] theorem State.answer_drawn (s : State) (st : RespStatus) (data : List Word) : (s.answer st data).drawn = s.drawn := rfl
@[simp] theorem State.answer_regs (s : State) (st : RespStatus) (data : List Word) : (s.answer st data).regs = s.regs := rfl
@[simp] theorem State.answer_imsic (s : State) (st : RespStatus) (data : List Word) : (s.answer st data).imsic = s.imsic := rfl
@[simp] theorem State.answer_dies (s : State) (st : RespStatus) (data : List Word) : (s.answer st data).dies = s.dies := rfl
@[simp] theorem State.answer_links (s : State) (st : RespStatus) (data : List Word) : (s.answer st data).links = s.links := rfl
@[simp] theorem State.answer_cores (s : State) (st : RespStatus) (data : List Word) : (s.answer st data).cores = s.cores := rfl
@[simp] theorem State.answer_sync (s : State) (st : RespStatus) (data : List Word) : (s.answer st data).sync = s.sync := rfl
@[simp] theorem State.answer_ras (s : State) (st : RespStatus) (data : List Word) : (s.answer st data).ras = s.ras := rfl
@[simp] theorem State.answer_onyx (s : State) (st : RespStatus) (data : List Word) : (s.answer st data).onyx = s.onyx := rfl
@[simp] theorem State.answer_hold (s : State) (st : RespStatus) (data : List Word) : (s.answer st data).hold = s.hold := rfl
@[simp] theorem State.answer_stamp (s : State) (st : RespStatus) (data : List Word) : (s.answer st data).stamp = s.stamp := rfl
@[simp] theorem State.answer_dram (s : State) (st : RespStatus) (data : List Word) : (s.answer st data).dram = s.dram := rfl
@[simp] theorem State.answer_tags (s : State) (st : RespStatus) (data : List Word) : (s.answer st data).tags = s.tags := rfl
@[simp] theorem State.answer_bad (s : State) (st : RespStatus) (data : List Word) : (s.answer st data).bad = s.bad := rfl
@[simp] theorem State.answer_red (s : State) (st : RespStatus) (data : List Word) : (s.answer st data).red = s.red := rfl
@[simp] theorem State.answer_keys (s : State) (st : RespStatus) (data : List Word) : (s.answer st data).keys = s.keys := rfl
@[simp] theorem State.answer_sak (s : State) (st : RespStatus) (data : List Word) : (s.answer st data).sak = s.sak := rfl
@[simp] theorem State.answer_pkg (s : State) (st : RespStatus) (data : List Word) : (s.answer st data).pkg = s.pkg := rfl
@[simp] theorem State.answer_rowCe (s : State) (st : RespStatus) (data : List Word) : (s.answer st data).rowCe = s.rowCe := rfl
@[simp] theorem State.answer_zero (s : State) (st : RespStatus) (data : List Word) : (s.answer st data).zero = s.zero := rfl
@[simp] theorem State.answer_zeroed (s : State) (st : RespStatus) (data : List Word) : (s.answer st data).zeroed = s.zeroed := rfl
@[simp] theorem State.answer_lines (s : State) (st : RespStatus) (data : List Word) : (s.answer st data).lines = s.lines := rfl
@[simp] theorem State.answer_subs (s : State) (st : RespStatus) (data : List Word) : (s.answer st data).subs = s.subs := rfl
@[simp] theorem State.answer_dir (s : State) (st : RespStatus) (data : List Word) : (s.answer st data).dir = s.dir := rfl
@[simp] theorem State.answer_miss (s : State) (st : RespStatus) (data : List Word) : (s.answer st data).miss = s.miss := rfl
@[simp] theorem State.answer_tile (s : State) (st : RespStatus) (data : List Word) : (s.answer st data).tile = s.tile := rfl
@[simp] theorem State.answer_tileBad (s : State) (st : RespStatus) (data : List Word) : (s.answer st data).tileBad = s.tileBad := rfl
@[simp] theorem State.answer_tileWait (s : State) (st : RespStatus) (data : List Word) : (s.answer st data).tileWait = s.tileWait := rfl
@[simp] theorem State.answer_walk (s : State) (st : RespStatus) (data : List Word) : (s.answer st data).walk = s.walk := rfl
@[simp] theorem State.answer_ufault (s : State) (st : RespStatus) (data : List Word) : (s.answer st data).ufault = s.ufault := rfl
@[simp] theorem State.answer_fq (s : State) (st : RespStatus) (data : List Word) : (s.answer st data).fq = s.fq := rfl
@[simp] theorem State.answer_shoot (s : State) (st : RespStatus) (data : List Word) : (s.answer st data).shoot = s.shoot := rfl
@[simp] theorem State.answer_se (s : State) (st : RespStatus) (data : List Word) : (s.answer st data).se = s.se := rfl
@[simp] theorem State.answer_ringWait (s : State) (st : RespStatus) (data : List Word) : (s.answer st data).ringWait = s.ringWait := rfl
@[simp] theorem State.answer_clConf (s : State) (st : RespStatus) (data : List Word) : (s.answer st data).clConf = s.clConf := rfl
@[simp] theorem State.answer_wv (s : State) (st : RespStatus) (data : List Word) : (s.answer st data).wv = s.wv := rfl
@[simp] theorem State.answer_killed (s : State) (st : RespStatus) (data : List Word) : (s.answer st data).killed = s.killed := rfl
@[simp] theorem State.answer_rings (s : State) (st : RespStatus) (data : List Word) : (s.answer st data).rings = s.rings := rfl
@[simp] theorem State.answer_launches (s : State) (st : RespStatus) (data : List Word) : (s.answer st data).launches = s.launches := rfl
@[simp] theorem State.answer_triples (s : State) (st : RespStatus) (data : List Word) : (s.answer st data).triples = s.triples := rfl
@[simp] theorem State.answer_dcLate (s : State) (st : RespStatus) (data : List Word) : (s.answer st data).dcLate = s.dcLate := rfl
@[simp] theorem State.answer_host (s : State) (st : RespStatus) (data : List Word) : (s.answer st data).host = s.host := rfl
@[simp] theorem State.answer_told (s : State) (st : RespStatus) (data : List Word) : (s.answer st data).told = s.told := rfl
@[simp] theorem State.answer_twn (s : State) (st : RespStatus) (data : List Word) : (s.answer st data).twn = s.twn := rfl
@[simp] theorem State.answer_lost (s : State) (st : RespStatus) (data : List Word) : (s.answer st data).lost = s.lost := rfl
@[simp] theorem State.answer_sleep (s : State) (st : RespStatus) (data : List Word) : (s.answer st data).sleep = s.sleep := rfl
@[simp] theorem State.answer_waking (s : State) (st : RespStatus) (data : List Word) : (s.answer st data).waking = s.waking := rfl
@[simp] theorem State.answer_idleSince (s : State) (st : RespStatus) (data : List Word) : (s.answer st data).idleSince = s.idleSince := rfl
@[simp] theorem State.answer_bells (s : State) (st : RespStatus) (data : List Word) : (s.answer st data).bells = s.bells := rfl
@[simp] theorem State.answer_hops (s : State) (st : RespStatus) (data : List Word) : (s.answer st data).hops = s.hops := rfl
@[simp] theorem State.answer_overpower (s : State) (st : RespStatus) (data : List Word) : (s.answer st data).overpower = s.overpower := rfl
@[simp] theorem State.answer_snaps (s : State) (st : RespStatus) (data : List Word) : (s.answer st data).snaps = s.snaps := rfl
@[simp] theorem State.answer_pkgSnap (s : State) (st : RespStatus) (data : List Word) : (s.answer st data).pkgSnap = s.pkgSnap := rfl
@[simp] theorem State.answer_marked (s : State) (st : RespStatus) (data : List Word) : (s.answer st data).marked = s.marked := rfl
@[simp] theorem State.answer_pwr (s : State) (st : RespStatus) (data : List Word) : (s.answer st data).pwr = s.pwr := rfl
@[simp] theorem State.answer_pending (s : State) (st : RespStatus) (data : List Word) : (s.answer st data).pending = s.pending := rfl

@[simp] theorem State.draw_tick (s : State) : (s.draw).tick = s.tick := rfl
@[simp] theorem State.draw_resp (s : State) : (s.draw).resp = s.resp := rfl
@[simp] theorem State.draw_regs (s : State) : (s.draw).regs = s.regs := rfl
@[simp] theorem State.draw_imsic (s : State) : (s.draw).imsic = s.imsic := rfl
@[simp] theorem State.draw_dies (s : State) : (s.draw).dies = s.dies := rfl
@[simp] theorem State.draw_links (s : State) : (s.draw).links = s.links := rfl
@[simp] theorem State.draw_cores (s : State) : (s.draw).cores = s.cores := rfl
@[simp] theorem State.draw_sync (s : State) : (s.draw).sync = s.sync := rfl
@[simp] theorem State.draw_ras (s : State) : (s.draw).ras = s.ras := rfl
@[simp] theorem State.draw_onyx (s : State) : (s.draw).onyx = s.onyx := rfl
@[simp] theorem State.draw_hold (s : State) : (s.draw).hold = s.hold := rfl
@[simp] theorem State.draw_stamp (s : State) : (s.draw).stamp = s.stamp := rfl
@[simp] theorem State.draw_dram (s : State) : (s.draw).dram = s.dram := rfl
@[simp] theorem State.draw_tags (s : State) : (s.draw).tags = s.tags := rfl
@[simp] theorem State.draw_bad (s : State) : (s.draw).bad = s.bad := rfl
@[simp] theorem State.draw_red (s : State) : (s.draw).red = s.red := rfl
@[simp] theorem State.draw_keys (s : State) : (s.draw).keys = s.keys := rfl
@[simp] theorem State.draw_sak (s : State) : (s.draw).sak = s.sak := rfl
@[simp] theorem State.draw_pkg (s : State) : (s.draw).pkg = s.pkg := rfl
@[simp] theorem State.draw_rowCe (s : State) : (s.draw).rowCe = s.rowCe := rfl
@[simp] theorem State.draw_zero (s : State) : (s.draw).zero = s.zero := rfl
@[simp] theorem State.draw_zeroed (s : State) : (s.draw).zeroed = s.zeroed := rfl
@[simp] theorem State.draw_lines (s : State) : (s.draw).lines = s.lines := rfl
@[simp] theorem State.draw_subs (s : State) : (s.draw).subs = s.subs := rfl
@[simp] theorem State.draw_dir (s : State) : (s.draw).dir = s.dir := rfl
@[simp] theorem State.draw_miss (s : State) : (s.draw).miss = s.miss := rfl
@[simp] theorem State.draw_tile (s : State) : (s.draw).tile = s.tile := rfl
@[simp] theorem State.draw_tileBad (s : State) : (s.draw).tileBad = s.tileBad := rfl
@[simp] theorem State.draw_tileWait (s : State) : (s.draw).tileWait = s.tileWait := rfl
@[simp] theorem State.draw_walk (s : State) : (s.draw).walk = s.walk := rfl
@[simp] theorem State.draw_ufault (s : State) : (s.draw).ufault = s.ufault := rfl
@[simp] theorem State.draw_fq (s : State) : (s.draw).fq = s.fq := rfl
@[simp] theorem State.draw_shoot (s : State) : (s.draw).shoot = s.shoot := rfl
@[simp] theorem State.draw_se (s : State) : (s.draw).se = s.se := rfl
@[simp] theorem State.draw_ringWait (s : State) : (s.draw).ringWait = s.ringWait := rfl
@[simp] theorem State.draw_clConf (s : State) : (s.draw).clConf = s.clConf := rfl
@[simp] theorem State.draw_wv (s : State) : (s.draw).wv = s.wv := rfl
@[simp] theorem State.draw_killed (s : State) : (s.draw).killed = s.killed := rfl
@[simp] theorem State.draw_rings (s : State) : (s.draw).rings = s.rings := rfl
@[simp] theorem State.draw_launches (s : State) : (s.draw).launches = s.launches := rfl
@[simp] theorem State.draw_triples (s : State) : (s.draw).triples = s.triples := rfl
@[simp] theorem State.draw_dcLate (s : State) : (s.draw).dcLate = s.dcLate := rfl
@[simp] theorem State.draw_host (s : State) : (s.draw).host = s.host := rfl
@[simp] theorem State.draw_told (s : State) : (s.draw).told = s.told := rfl
@[simp] theorem State.draw_twn (s : State) : (s.draw).twn = s.twn := rfl
@[simp] theorem State.draw_lost (s : State) : (s.draw).lost = s.lost := rfl
@[simp] theorem State.draw_sleep (s : State) : (s.draw).sleep = s.sleep := rfl
@[simp] theorem State.draw_waking (s : State) : (s.draw).waking = s.waking := rfl
@[simp] theorem State.draw_idleSince (s : State) : (s.draw).idleSince = s.idleSince := rfl
@[simp] theorem State.draw_bells (s : State) : (s.draw).bells = s.bells := rfl
@[simp] theorem State.draw_hops (s : State) : (s.draw).hops = s.hops := rfl
@[simp] theorem State.draw_overpower (s : State) : (s.draw).overpower = s.overpower := rfl
@[simp] theorem State.draw_snaps (s : State) : (s.draw).snaps = s.snaps := rfl
@[simp] theorem State.draw_pkgSnap (s : State) : (s.draw).pkgSnap = s.pkgSnap := rfl
@[simp] theorem State.draw_marked (s : State) : (s.draw).marked = s.marked := rfl
@[simp] theorem State.draw_pwr (s : State) : (s.draw).pwr = s.pwr := rfl
@[simp] theorem State.draw_pending (s : State) : (s.draw).pending = s.pending := rfl

@[simp] theorem State.drawN_tick (s : State) (n : Nat) : (s.drawN n).tick = s.tick := rfl
@[simp] theorem State.drawN_resp (s : State) (n : Nat) : (s.drawN n).resp = s.resp := rfl
@[simp] theorem State.drawN_regs (s : State) (n : Nat) : (s.drawN n).regs = s.regs := rfl
@[simp] theorem State.drawN_imsic (s : State) (n : Nat) : (s.drawN n).imsic = s.imsic := rfl
@[simp] theorem State.drawN_dies (s : State) (n : Nat) : (s.drawN n).dies = s.dies := rfl
@[simp] theorem State.drawN_links (s : State) (n : Nat) : (s.drawN n).links = s.links := rfl
@[simp] theorem State.drawN_cores (s : State) (n : Nat) : (s.drawN n).cores = s.cores := rfl
@[simp] theorem State.drawN_sync (s : State) (n : Nat) : (s.drawN n).sync = s.sync := rfl
@[simp] theorem State.drawN_ras (s : State) (n : Nat) : (s.drawN n).ras = s.ras := rfl
@[simp] theorem State.drawN_onyx (s : State) (n : Nat) : (s.drawN n).onyx = s.onyx := rfl
@[simp] theorem State.drawN_hold (s : State) (n : Nat) : (s.drawN n).hold = s.hold := rfl
@[simp] theorem State.drawN_stamp (s : State) (n : Nat) : (s.drawN n).stamp = s.stamp := rfl
@[simp] theorem State.drawN_dram (s : State) (n : Nat) : (s.drawN n).dram = s.dram := rfl
@[simp] theorem State.drawN_tags (s : State) (n : Nat) : (s.drawN n).tags = s.tags := rfl
@[simp] theorem State.drawN_bad (s : State) (n : Nat) : (s.drawN n).bad = s.bad := rfl
@[simp] theorem State.drawN_red (s : State) (n : Nat) : (s.drawN n).red = s.red := rfl
@[simp] theorem State.drawN_keys (s : State) (n : Nat) : (s.drawN n).keys = s.keys := rfl
@[simp] theorem State.drawN_sak (s : State) (n : Nat) : (s.drawN n).sak = s.sak := rfl
@[simp] theorem State.drawN_pkg (s : State) (n : Nat) : (s.drawN n).pkg = s.pkg := rfl
@[simp] theorem State.drawN_rowCe (s : State) (n : Nat) : (s.drawN n).rowCe = s.rowCe := rfl
@[simp] theorem State.drawN_zero (s : State) (n : Nat) : (s.drawN n).zero = s.zero := rfl
@[simp] theorem State.drawN_zeroed (s : State) (n : Nat) : (s.drawN n).zeroed = s.zeroed := rfl
@[simp] theorem State.drawN_lines (s : State) (n : Nat) : (s.drawN n).lines = s.lines := rfl
@[simp] theorem State.drawN_subs (s : State) (n : Nat) : (s.drawN n).subs = s.subs := rfl
@[simp] theorem State.drawN_dir (s : State) (n : Nat) : (s.drawN n).dir = s.dir := rfl
@[simp] theorem State.drawN_miss (s : State) (n : Nat) : (s.drawN n).miss = s.miss := rfl
@[simp] theorem State.drawN_tile (s : State) (n : Nat) : (s.drawN n).tile = s.tile := rfl
@[simp] theorem State.drawN_tileBad (s : State) (n : Nat) : (s.drawN n).tileBad = s.tileBad := rfl
@[simp] theorem State.drawN_tileWait (s : State) (n : Nat) : (s.drawN n).tileWait = s.tileWait := rfl
@[simp] theorem State.drawN_walk (s : State) (n : Nat) : (s.drawN n).walk = s.walk := rfl
@[simp] theorem State.drawN_ufault (s : State) (n : Nat) : (s.drawN n).ufault = s.ufault := rfl
@[simp] theorem State.drawN_fq (s : State) (n : Nat) : (s.drawN n).fq = s.fq := rfl
@[simp] theorem State.drawN_shoot (s : State) (n : Nat) : (s.drawN n).shoot = s.shoot := rfl
@[simp] theorem State.drawN_se (s : State) (n : Nat) : (s.drawN n).se = s.se := rfl
@[simp] theorem State.drawN_ringWait (s : State) (n : Nat) : (s.drawN n).ringWait = s.ringWait := rfl
@[simp] theorem State.drawN_clConf (s : State) (n : Nat) : (s.drawN n).clConf = s.clConf := rfl
@[simp] theorem State.drawN_wv (s : State) (n : Nat) : (s.drawN n).wv = s.wv := rfl
@[simp] theorem State.drawN_killed (s : State) (n : Nat) : (s.drawN n).killed = s.killed := rfl
@[simp] theorem State.drawN_rings (s : State) (n : Nat) : (s.drawN n).rings = s.rings := rfl
@[simp] theorem State.drawN_launches (s : State) (n : Nat) : (s.drawN n).launches = s.launches := rfl
@[simp] theorem State.drawN_triples (s : State) (n : Nat) : (s.drawN n).triples = s.triples := rfl
@[simp] theorem State.drawN_dcLate (s : State) (n : Nat) : (s.drawN n).dcLate = s.dcLate := rfl
@[simp] theorem State.drawN_host (s : State) (n : Nat) : (s.drawN n).host = s.host := rfl
@[simp] theorem State.drawN_told (s : State) (n : Nat) : (s.drawN n).told = s.told := rfl
@[simp] theorem State.drawN_twn (s : State) (n : Nat) : (s.drawN n).twn = s.twn := rfl
@[simp] theorem State.drawN_lost (s : State) (n : Nat) : (s.drawN n).lost = s.lost := rfl
@[simp] theorem State.drawN_sleep (s : State) (n : Nat) : (s.drawN n).sleep = s.sleep := rfl
@[simp] theorem State.drawN_waking (s : State) (n : Nat) : (s.drawN n).waking = s.waking := rfl
@[simp] theorem State.drawN_idleSince (s : State) (n : Nat) : (s.drawN n).idleSince = s.idleSince := rfl
@[simp] theorem State.drawN_bells (s : State) (n : Nat) : (s.drawN n).bells = s.bells := rfl
@[simp] theorem State.drawN_hops (s : State) (n : Nat) : (s.drawN n).hops = s.hops := rfl
@[simp] theorem State.drawN_overpower (s : State) (n : Nat) : (s.drawN n).overpower = s.overpower := rfl
@[simp] theorem State.drawN_snaps (s : State) (n : Nat) : (s.drawN n).snaps = s.snaps := rfl
@[simp] theorem State.drawN_pkgSnap (s : State) (n : Nat) : (s.drawN n).pkgSnap = s.pkgSnap := rfl
@[simp] theorem State.drawN_marked (s : State) (n : Nat) : (s.drawN n).marked = s.marked := rfl
@[simp] theorem State.drawN_pwr (s : State) (n : Nat) : (s.drawN n).pwr = s.pwr := rfl
@[simp] theorem State.drawN_pending (s : State) (n : Nat) : (s.drawN n).pending = s.pending := rfl

@[simp] theorem State.wait_tick (s : State) : (s.wait).tick = s.tick := rfl
@[simp] theorem State.wait_drawn (s : State) : (s.wait).drawn = s.drawn := rfl
@[simp] theorem State.wait_resp (s : State) : (s.wait).resp = s.resp := rfl
@[simp] theorem State.wait_regs (s : State) : (s.wait).regs = s.regs := rfl
@[simp] theorem State.wait_imsic (s : State) : (s.wait).imsic = s.imsic := rfl
@[simp] theorem State.wait_dies (s : State) : (s.wait).dies = s.dies := rfl
@[simp] theorem State.wait_links (s : State) : (s.wait).links = s.links := rfl
@[simp] theorem State.wait_cores (s : State) : (s.wait).cores = s.cores := rfl
@[simp] theorem State.wait_sync (s : State) : (s.wait).sync = s.sync := rfl
@[simp] theorem State.wait_ras (s : State) : (s.wait).ras = s.ras := rfl
@[simp] theorem State.wait_onyx (s : State) : (s.wait).onyx = s.onyx := rfl
@[simp] theorem State.wait_stamp (s : State) : (s.wait).stamp = s.stamp := rfl
@[simp] theorem State.wait_dram (s : State) : (s.wait).dram = s.dram := rfl
@[simp] theorem State.wait_tags (s : State) : (s.wait).tags = s.tags := rfl
@[simp] theorem State.wait_bad (s : State) : (s.wait).bad = s.bad := rfl
@[simp] theorem State.wait_red (s : State) : (s.wait).red = s.red := rfl
@[simp] theorem State.wait_keys (s : State) : (s.wait).keys = s.keys := rfl
@[simp] theorem State.wait_sak (s : State) : (s.wait).sak = s.sak := rfl
@[simp] theorem State.wait_pkg (s : State) : (s.wait).pkg = s.pkg := rfl
@[simp] theorem State.wait_rowCe (s : State) : (s.wait).rowCe = s.rowCe := rfl
@[simp] theorem State.wait_zero (s : State) : (s.wait).zero = s.zero := rfl
@[simp] theorem State.wait_zeroed (s : State) : (s.wait).zeroed = s.zeroed := rfl
@[simp] theorem State.wait_lines (s : State) : (s.wait).lines = s.lines := rfl
@[simp] theorem State.wait_subs (s : State) : (s.wait).subs = s.subs := rfl
@[simp] theorem State.wait_dir (s : State) : (s.wait).dir = s.dir := rfl
@[simp] theorem State.wait_miss (s : State) : (s.wait).miss = s.miss := rfl
@[simp] theorem State.wait_tile (s : State) : (s.wait).tile = s.tile := rfl
@[simp] theorem State.wait_tileBad (s : State) : (s.wait).tileBad = s.tileBad := rfl
@[simp] theorem State.wait_tileWait (s : State) : (s.wait).tileWait = s.tileWait := rfl
@[simp] theorem State.wait_walk (s : State) : (s.wait).walk = s.walk := rfl
@[simp] theorem State.wait_ufault (s : State) : (s.wait).ufault = s.ufault := rfl
@[simp] theorem State.wait_fq (s : State) : (s.wait).fq = s.fq := rfl
@[simp] theorem State.wait_shoot (s : State) : (s.wait).shoot = s.shoot := rfl
@[simp] theorem State.wait_se (s : State) : (s.wait).se = s.se := rfl
@[simp] theorem State.wait_ringWait (s : State) : (s.wait).ringWait = s.ringWait := rfl
@[simp] theorem State.wait_clConf (s : State) : (s.wait).clConf = s.clConf := rfl
@[simp] theorem State.wait_wv (s : State) : (s.wait).wv = s.wv := rfl
@[simp] theorem State.wait_killed (s : State) : (s.wait).killed = s.killed := rfl
@[simp] theorem State.wait_rings (s : State) : (s.wait).rings = s.rings := rfl
@[simp] theorem State.wait_launches (s : State) : (s.wait).launches = s.launches := rfl
@[simp] theorem State.wait_triples (s : State) : (s.wait).triples = s.triples := rfl
@[simp] theorem State.wait_dcLate (s : State) : (s.wait).dcLate = s.dcLate := rfl
@[simp] theorem State.wait_host (s : State) : (s.wait).host = s.host := rfl
@[simp] theorem State.wait_told (s : State) : (s.wait).told = s.told := rfl
@[simp] theorem State.wait_twn (s : State) : (s.wait).twn = s.twn := rfl
@[simp] theorem State.wait_lost (s : State) : (s.wait).lost = s.lost := rfl
@[simp] theorem State.wait_sleep (s : State) : (s.wait).sleep = s.sleep := rfl
@[simp] theorem State.wait_waking (s : State) : (s.wait).waking = s.waking := rfl
@[simp] theorem State.wait_idleSince (s : State) : (s.wait).idleSince = s.idleSince := rfl
@[simp] theorem State.wait_bells (s : State) : (s.wait).bells = s.bells := rfl
@[simp] theorem State.wait_hops (s : State) : (s.wait).hops = s.hops := rfl
@[simp] theorem State.wait_overpower (s : State) : (s.wait).overpower = s.overpower := rfl
@[simp] theorem State.wait_snaps (s : State) : (s.wait).snaps = s.snaps := rfl
@[simp] theorem State.wait_pkgSnap (s : State) : (s.wait).pkgSnap = s.pkgSnap := rfl
@[simp] theorem State.wait_marked (s : State) : (s.wait).marked = s.marked := rfl
@[simp] theorem State.wait_pwr (s : State) : (s.wait).pwr = s.pwr := rfl
@[simp] theorem State.wait_pending (s : State) : (s.wait).pending = s.pending := rfl

@[simp] theorem State.setDie_tick (s : State) (n : Nat) (d : DieSt) : (s.setDie n d).tick = s.tick := rfl
@[simp] theorem State.setDie_drawn (s : State) (n : Nat) (d : DieSt) : (s.setDie n d).drawn = s.drawn := rfl
@[simp] theorem State.setDie_resp (s : State) (n : Nat) (d : DieSt) : (s.setDie n d).resp = s.resp := rfl
@[simp] theorem State.setDie_regs (s : State) (n : Nat) (d : DieSt) : (s.setDie n d).regs = s.regs := rfl
@[simp] theorem State.setDie_imsic (s : State) (n : Nat) (d : DieSt) : (s.setDie n d).imsic = s.imsic := rfl
@[simp] theorem State.setDie_links (s : State) (n : Nat) (d : DieSt) : (s.setDie n d).links = s.links := rfl
@[simp] theorem State.setDie_cores (s : State) (n : Nat) (d : DieSt) : (s.setDie n d).cores = s.cores := rfl
@[simp] theorem State.setDie_sync (s : State) (n : Nat) (d : DieSt) : (s.setDie n d).sync = s.sync := rfl
@[simp] theorem State.setDie_ras (s : State) (n : Nat) (d : DieSt) : (s.setDie n d).ras = s.ras := rfl
@[simp] theorem State.setDie_onyx (s : State) (n : Nat) (d : DieSt) : (s.setDie n d).onyx = s.onyx := rfl
@[simp] theorem State.setDie_hold (s : State) (n : Nat) (d : DieSt) : (s.setDie n d).hold = s.hold := rfl
@[simp] theorem State.setDie_stamp (s : State) (n : Nat) (d : DieSt) : (s.setDie n d).stamp = s.stamp := rfl
@[simp] theorem State.setDie_dram (s : State) (n : Nat) (d : DieSt) : (s.setDie n d).dram = s.dram := rfl
@[simp] theorem State.setDie_tags (s : State) (n : Nat) (d : DieSt) : (s.setDie n d).tags = s.tags := rfl
@[simp] theorem State.setDie_bad (s : State) (n : Nat) (d : DieSt) : (s.setDie n d).bad = s.bad := rfl
@[simp] theorem State.setDie_red (s : State) (n : Nat) (d : DieSt) : (s.setDie n d).red = s.red := rfl
@[simp] theorem State.setDie_keys (s : State) (n : Nat) (d : DieSt) : (s.setDie n d).keys = s.keys := rfl
@[simp] theorem State.setDie_sak (s : State) (n : Nat) (d : DieSt) : (s.setDie n d).sak = s.sak := rfl
@[simp] theorem State.setDie_pkg (s : State) (n : Nat) (d : DieSt) : (s.setDie n d).pkg = s.pkg := rfl
@[simp] theorem State.setDie_rowCe (s : State) (n : Nat) (d : DieSt) : (s.setDie n d).rowCe = s.rowCe := rfl
@[simp] theorem State.setDie_zero (s : State) (n : Nat) (d : DieSt) : (s.setDie n d).zero = s.zero := rfl
@[simp] theorem State.setDie_zeroed (s : State) (n : Nat) (d : DieSt) : (s.setDie n d).zeroed = s.zeroed := rfl
@[simp] theorem State.setDie_lines (s : State) (n : Nat) (d : DieSt) : (s.setDie n d).lines = s.lines := rfl
@[simp] theorem State.setDie_subs (s : State) (n : Nat) (d : DieSt) : (s.setDie n d).subs = s.subs := rfl
@[simp] theorem State.setDie_dir (s : State) (n : Nat) (d : DieSt) : (s.setDie n d).dir = s.dir := rfl
@[simp] theorem State.setDie_miss (s : State) (n : Nat) (d : DieSt) : (s.setDie n d).miss = s.miss := rfl
@[simp] theorem State.setDie_tile (s : State) (n : Nat) (d : DieSt) : (s.setDie n d).tile = s.tile := rfl
@[simp] theorem State.setDie_tileBad (s : State) (n : Nat) (d : DieSt) : (s.setDie n d).tileBad = s.tileBad := rfl
@[simp] theorem State.setDie_tileWait (s : State) (n : Nat) (d : DieSt) : (s.setDie n d).tileWait = s.tileWait := rfl
@[simp] theorem State.setDie_walk (s : State) (n : Nat) (d : DieSt) : (s.setDie n d).walk = s.walk := rfl
@[simp] theorem State.setDie_ufault (s : State) (n : Nat) (d : DieSt) : (s.setDie n d).ufault = s.ufault := rfl
@[simp] theorem State.setDie_fq (s : State) (n : Nat) (d : DieSt) : (s.setDie n d).fq = s.fq := rfl
@[simp] theorem State.setDie_shoot (s : State) (n : Nat) (d : DieSt) : (s.setDie n d).shoot = s.shoot := rfl
@[simp] theorem State.setDie_se (s : State) (n : Nat) (d : DieSt) : (s.setDie n d).se = s.se := rfl
@[simp] theorem State.setDie_ringWait (s : State) (n : Nat) (d : DieSt) : (s.setDie n d).ringWait = s.ringWait := rfl
@[simp] theorem State.setDie_clConf (s : State) (n : Nat) (d : DieSt) : (s.setDie n d).clConf = s.clConf := rfl
@[simp] theorem State.setDie_wv (s : State) (n : Nat) (d : DieSt) : (s.setDie n d).wv = s.wv := rfl
@[simp] theorem State.setDie_killed (s : State) (n : Nat) (d : DieSt) : (s.setDie n d).killed = s.killed := rfl
@[simp] theorem State.setDie_rings (s : State) (n : Nat) (d : DieSt) : (s.setDie n d).rings = s.rings := rfl
@[simp] theorem State.setDie_launches (s : State) (n : Nat) (d : DieSt) : (s.setDie n d).launches = s.launches := rfl
@[simp] theorem State.setDie_triples (s : State) (n : Nat) (d : DieSt) : (s.setDie n d).triples = s.triples := rfl
@[simp] theorem State.setDie_dcLate (s : State) (n : Nat) (d : DieSt) : (s.setDie n d).dcLate = s.dcLate := rfl
@[simp] theorem State.setDie_host (s : State) (n : Nat) (d : DieSt) : (s.setDie n d).host = s.host := rfl
@[simp] theorem State.setDie_told (s : State) (n : Nat) (d : DieSt) : (s.setDie n d).told = s.told := rfl
@[simp] theorem State.setDie_twn (s : State) (n : Nat) (d : DieSt) : (s.setDie n d).twn = s.twn := rfl
@[simp] theorem State.setDie_lost (s : State) (n : Nat) (d : DieSt) : (s.setDie n d).lost = s.lost := rfl
@[simp] theorem State.setDie_sleep (s : State) (n : Nat) (d : DieSt) : (s.setDie n d).sleep = s.sleep := rfl
@[simp] theorem State.setDie_waking (s : State) (n : Nat) (d : DieSt) : (s.setDie n d).waking = s.waking := rfl
@[simp] theorem State.setDie_idleSince (s : State) (n : Nat) (d : DieSt) : (s.setDie n d).idleSince = s.idleSince := rfl
@[simp] theorem State.setDie_bells (s : State) (n : Nat) (d : DieSt) : (s.setDie n d).bells = s.bells := rfl
@[simp] theorem State.setDie_hops (s : State) (n : Nat) (d : DieSt) : (s.setDie n d).hops = s.hops := rfl
@[simp] theorem State.setDie_overpower (s : State) (n : Nat) (d : DieSt) : (s.setDie n d).overpower = s.overpower := rfl
@[simp] theorem State.setDie_snaps (s : State) (n : Nat) (d : DieSt) : (s.setDie n d).snaps = s.snaps := rfl
@[simp] theorem State.setDie_pkgSnap (s : State) (n : Nat) (d : DieSt) : (s.setDie n d).pkgSnap = s.pkgSnap := rfl
@[simp] theorem State.setDie_marked (s : State) (n : Nat) (d : DieSt) : (s.setDie n d).marked = s.marked := rfl
@[simp] theorem State.setDie_pwr (s : State) (n : Nat) (d : DieSt) : (s.setDie n d).pwr = s.pwr := rfl
@[simp] theorem State.setDie_pending (s : State) (n : Nat) (d : DieSt) : (s.setDie n d).pending = s.pending := rfl

@[simp] theorem State.setLnk_tick (s : State) (l : Nat) (k : LinkSt) : (s.setLnk l k).tick = s.tick := rfl
@[simp] theorem State.setLnk_drawn (s : State) (l : Nat) (k : LinkSt) : (s.setLnk l k).drawn = s.drawn := rfl
@[simp] theorem State.setLnk_resp (s : State) (l : Nat) (k : LinkSt) : (s.setLnk l k).resp = s.resp := rfl
@[simp] theorem State.setLnk_regs (s : State) (l : Nat) (k : LinkSt) : (s.setLnk l k).regs = s.regs := rfl
@[simp] theorem State.setLnk_imsic (s : State) (l : Nat) (k : LinkSt) : (s.setLnk l k).imsic = s.imsic := rfl
@[simp] theorem State.setLnk_dies (s : State) (l : Nat) (k : LinkSt) : (s.setLnk l k).dies = s.dies := rfl
@[simp] theorem State.setLnk_cores (s : State) (l : Nat) (k : LinkSt) : (s.setLnk l k).cores = s.cores := rfl
@[simp] theorem State.setLnk_sync (s : State) (l : Nat) (k : LinkSt) : (s.setLnk l k).sync = s.sync := rfl
@[simp] theorem State.setLnk_ras (s : State) (l : Nat) (k : LinkSt) : (s.setLnk l k).ras = s.ras := rfl
@[simp] theorem State.setLnk_onyx (s : State) (l : Nat) (k : LinkSt) : (s.setLnk l k).onyx = s.onyx := rfl
@[simp] theorem State.setLnk_hold (s : State) (l : Nat) (k : LinkSt) : (s.setLnk l k).hold = s.hold := rfl
@[simp] theorem State.setLnk_stamp (s : State) (l : Nat) (k : LinkSt) : (s.setLnk l k).stamp = s.stamp := rfl
@[simp] theorem State.setLnk_dram (s : State) (l : Nat) (k : LinkSt) : (s.setLnk l k).dram = s.dram := rfl
@[simp] theorem State.setLnk_tags (s : State) (l : Nat) (k : LinkSt) : (s.setLnk l k).tags = s.tags := rfl
@[simp] theorem State.setLnk_bad (s : State) (l : Nat) (k : LinkSt) : (s.setLnk l k).bad = s.bad := rfl
@[simp] theorem State.setLnk_red (s : State) (l : Nat) (k : LinkSt) : (s.setLnk l k).red = s.red := rfl
@[simp] theorem State.setLnk_keys (s : State) (l : Nat) (k : LinkSt) : (s.setLnk l k).keys = s.keys := rfl
@[simp] theorem State.setLnk_sak (s : State) (l : Nat) (k : LinkSt) : (s.setLnk l k).sak = s.sak := rfl
@[simp] theorem State.setLnk_pkg (s : State) (l : Nat) (k : LinkSt) : (s.setLnk l k).pkg = s.pkg := rfl
@[simp] theorem State.setLnk_rowCe (s : State) (l : Nat) (k : LinkSt) : (s.setLnk l k).rowCe = s.rowCe := rfl
@[simp] theorem State.setLnk_zero (s : State) (l : Nat) (k : LinkSt) : (s.setLnk l k).zero = s.zero := rfl
@[simp] theorem State.setLnk_zeroed (s : State) (l : Nat) (k : LinkSt) : (s.setLnk l k).zeroed = s.zeroed := rfl
@[simp] theorem State.setLnk_lines (s : State) (l : Nat) (k : LinkSt) : (s.setLnk l k).lines = s.lines := rfl
@[simp] theorem State.setLnk_subs (s : State) (l : Nat) (k : LinkSt) : (s.setLnk l k).subs = s.subs := rfl
@[simp] theorem State.setLnk_dir (s : State) (l : Nat) (k : LinkSt) : (s.setLnk l k).dir = s.dir := rfl
@[simp] theorem State.setLnk_miss (s : State) (l : Nat) (k : LinkSt) : (s.setLnk l k).miss = s.miss := rfl
@[simp] theorem State.setLnk_tile (s : State) (l : Nat) (k : LinkSt) : (s.setLnk l k).tile = s.tile := rfl
@[simp] theorem State.setLnk_tileBad (s : State) (l : Nat) (k : LinkSt) : (s.setLnk l k).tileBad = s.tileBad := rfl
@[simp] theorem State.setLnk_tileWait (s : State) (l : Nat) (k : LinkSt) : (s.setLnk l k).tileWait = s.tileWait := rfl
@[simp] theorem State.setLnk_walk (s : State) (l : Nat) (k : LinkSt) : (s.setLnk l k).walk = s.walk := rfl
@[simp] theorem State.setLnk_ufault (s : State) (l : Nat) (k : LinkSt) : (s.setLnk l k).ufault = s.ufault := rfl
@[simp] theorem State.setLnk_fq (s : State) (l : Nat) (k : LinkSt) : (s.setLnk l k).fq = s.fq := rfl
@[simp] theorem State.setLnk_shoot (s : State) (l : Nat) (k : LinkSt) : (s.setLnk l k).shoot = s.shoot := rfl
@[simp] theorem State.setLnk_se (s : State) (l : Nat) (k : LinkSt) : (s.setLnk l k).se = s.se := rfl
@[simp] theorem State.setLnk_ringWait (s : State) (l : Nat) (k : LinkSt) : (s.setLnk l k).ringWait = s.ringWait := rfl
@[simp] theorem State.setLnk_clConf (s : State) (l : Nat) (k : LinkSt) : (s.setLnk l k).clConf = s.clConf := rfl
@[simp] theorem State.setLnk_wv (s : State) (l : Nat) (k : LinkSt) : (s.setLnk l k).wv = s.wv := rfl
@[simp] theorem State.setLnk_killed (s : State) (l : Nat) (k : LinkSt) : (s.setLnk l k).killed = s.killed := rfl
@[simp] theorem State.setLnk_rings (s : State) (l : Nat) (k : LinkSt) : (s.setLnk l k).rings = s.rings := rfl
@[simp] theorem State.setLnk_launches (s : State) (l : Nat) (k : LinkSt) : (s.setLnk l k).launches = s.launches := rfl
@[simp] theorem State.setLnk_triples (s : State) (l : Nat) (k : LinkSt) : (s.setLnk l k).triples = s.triples := rfl
@[simp] theorem State.setLnk_dcLate (s : State) (l : Nat) (k : LinkSt) : (s.setLnk l k).dcLate = s.dcLate := rfl
@[simp] theorem State.setLnk_host (s : State) (l : Nat) (k : LinkSt) : (s.setLnk l k).host = s.host := rfl
@[simp] theorem State.setLnk_told (s : State) (l : Nat) (k : LinkSt) : (s.setLnk l k).told = s.told := rfl
@[simp] theorem State.setLnk_twn (s : State) (l : Nat) (k : LinkSt) : (s.setLnk l k).twn = s.twn := rfl
@[simp] theorem State.setLnk_lost (s : State) (l : Nat) (k : LinkSt) : (s.setLnk l k).lost = s.lost := rfl
@[simp] theorem State.setLnk_sleep (s : State) (l : Nat) (k : LinkSt) : (s.setLnk l k).sleep = s.sleep := rfl
@[simp] theorem State.setLnk_waking (s : State) (l : Nat) (k : LinkSt) : (s.setLnk l k).waking = s.waking := rfl
@[simp] theorem State.setLnk_idleSince (s : State) (l : Nat) (k : LinkSt) : (s.setLnk l k).idleSince = s.idleSince := rfl
@[simp] theorem State.setLnk_bells (s : State) (l : Nat) (k : LinkSt) : (s.setLnk l k).bells = s.bells := rfl
@[simp] theorem State.setLnk_hops (s : State) (l : Nat) (k : LinkSt) : (s.setLnk l k).hops = s.hops := rfl
@[simp] theorem State.setLnk_overpower (s : State) (l : Nat) (k : LinkSt) : (s.setLnk l k).overpower = s.overpower := rfl
@[simp] theorem State.setLnk_snaps (s : State) (l : Nat) (k : LinkSt) : (s.setLnk l k).snaps = s.snaps := rfl
@[simp] theorem State.setLnk_pkgSnap (s : State) (l : Nat) (k : LinkSt) : (s.setLnk l k).pkgSnap = s.pkgSnap := rfl
@[simp] theorem State.setLnk_marked (s : State) (l : Nat) (k : LinkSt) : (s.setLnk l k).marked = s.marked := rfl
@[simp] theorem State.setLnk_pwr (s : State) (l : Nat) (k : LinkSt) : (s.setLnk l k).pwr = s.pwr := rfl
@[simp] theorem State.setLnk_pending (s : State) (l : Nat) (k : LinkSt) : (s.setLnk l k).pending = s.pending := rfl

@[simp] theorem State.setIp_tick (s : State) (page ident : Nat) : (s.setIp page ident).tick = s.tick := by unfold State.setIp; split <;> rfl
@[simp] theorem State.setIp_drawn (s : State) (page ident : Nat) : (s.setIp page ident).drawn = s.drawn := by unfold State.setIp; split <;> rfl
@[simp] theorem State.setIp_resp (s : State) (page ident : Nat) : (s.setIp page ident).resp = s.resp := by unfold State.setIp; split <;> rfl
@[simp] theorem State.setIp_regs (s : State) (page ident : Nat) : (s.setIp page ident).regs = s.regs := by unfold State.setIp; split <;> rfl
@[simp] theorem State.setIp_dies (s : State) (page ident : Nat) : (s.setIp page ident).dies = s.dies := by unfold State.setIp; split <;> rfl
@[simp] theorem State.setIp_links (s : State) (page ident : Nat) : (s.setIp page ident).links = s.links := by unfold State.setIp; split <;> rfl
@[simp] theorem State.setIp_cores (s : State) (page ident : Nat) : (s.setIp page ident).cores = s.cores := by unfold State.setIp; split <;> rfl
@[simp] theorem State.setIp_sync (s : State) (page ident : Nat) : (s.setIp page ident).sync = s.sync := by unfold State.setIp; split <;> rfl
@[simp] theorem State.setIp_ras (s : State) (page ident : Nat) : (s.setIp page ident).ras = s.ras := by unfold State.setIp; split <;> rfl
@[simp] theorem State.setIp_onyx (s : State) (page ident : Nat) : (s.setIp page ident).onyx = s.onyx := by unfold State.setIp; split <;> rfl
@[simp] theorem State.setIp_hold (s : State) (page ident : Nat) : (s.setIp page ident).hold = s.hold := by unfold State.setIp; split <;> rfl
@[simp] theorem State.setIp_stamp (s : State) (page ident : Nat) : (s.setIp page ident).stamp = s.stamp := by unfold State.setIp; split <;> rfl
@[simp] theorem State.setIp_dram (s : State) (page ident : Nat) : (s.setIp page ident).dram = s.dram := by unfold State.setIp; split <;> rfl
@[simp] theorem State.setIp_tags (s : State) (page ident : Nat) : (s.setIp page ident).tags = s.tags := by unfold State.setIp; split <;> rfl
@[simp] theorem State.setIp_bad (s : State) (page ident : Nat) : (s.setIp page ident).bad = s.bad := by unfold State.setIp; split <;> rfl
@[simp] theorem State.setIp_red (s : State) (page ident : Nat) : (s.setIp page ident).red = s.red := by unfold State.setIp; split <;> rfl
@[simp] theorem State.setIp_keys (s : State) (page ident : Nat) : (s.setIp page ident).keys = s.keys := by unfold State.setIp; split <;> rfl
@[simp] theorem State.setIp_sak (s : State) (page ident : Nat) : (s.setIp page ident).sak = s.sak := by unfold State.setIp; split <;> rfl
@[simp] theorem State.setIp_pkg (s : State) (page ident : Nat) : (s.setIp page ident).pkg = s.pkg := by unfold State.setIp; split <;> rfl
@[simp] theorem State.setIp_rowCe (s : State) (page ident : Nat) : (s.setIp page ident).rowCe = s.rowCe := by unfold State.setIp; split <;> rfl
@[simp] theorem State.setIp_zero (s : State) (page ident : Nat) : (s.setIp page ident).zero = s.zero := by unfold State.setIp; split <;> rfl
@[simp] theorem State.setIp_zeroed (s : State) (page ident : Nat) : (s.setIp page ident).zeroed = s.zeroed := by unfold State.setIp; split <;> rfl
@[simp] theorem State.setIp_lines (s : State) (page ident : Nat) : (s.setIp page ident).lines = s.lines := by unfold State.setIp; split <;> rfl
@[simp] theorem State.setIp_subs (s : State) (page ident : Nat) : (s.setIp page ident).subs = s.subs := by unfold State.setIp; split <;> rfl
@[simp] theorem State.setIp_dir (s : State) (page ident : Nat) : (s.setIp page ident).dir = s.dir := by unfold State.setIp; split <;> rfl
@[simp] theorem State.setIp_miss (s : State) (page ident : Nat) : (s.setIp page ident).miss = s.miss := by unfold State.setIp; split <;> rfl
@[simp] theorem State.setIp_tile (s : State) (page ident : Nat) : (s.setIp page ident).tile = s.tile := by unfold State.setIp; split <;> rfl
@[simp] theorem State.setIp_tileBad (s : State) (page ident : Nat) : (s.setIp page ident).tileBad = s.tileBad := by unfold State.setIp; split <;> rfl
@[simp] theorem State.setIp_tileWait (s : State) (page ident : Nat) : (s.setIp page ident).tileWait = s.tileWait := by unfold State.setIp; split <;> rfl
@[simp] theorem State.setIp_walk (s : State) (page ident : Nat) : (s.setIp page ident).walk = s.walk := by unfold State.setIp; split <;> rfl
@[simp] theorem State.setIp_ufault (s : State) (page ident : Nat) : (s.setIp page ident).ufault = s.ufault := by unfold State.setIp; split <;> rfl
@[simp] theorem State.setIp_fq (s : State) (page ident : Nat) : (s.setIp page ident).fq = s.fq := by unfold State.setIp; split <;> rfl
@[simp] theorem State.setIp_shoot (s : State) (page ident : Nat) : (s.setIp page ident).shoot = s.shoot := by unfold State.setIp; split <;> rfl
@[simp] theorem State.setIp_se (s : State) (page ident : Nat) : (s.setIp page ident).se = s.se := by unfold State.setIp; split <;> rfl
@[simp] theorem State.setIp_ringWait (s : State) (page ident : Nat) : (s.setIp page ident).ringWait = s.ringWait := by unfold State.setIp; split <;> rfl
@[simp] theorem State.setIp_clConf (s : State) (page ident : Nat) : (s.setIp page ident).clConf = s.clConf := by unfold State.setIp; split <;> rfl
@[simp] theorem State.setIp_wv (s : State) (page ident : Nat) : (s.setIp page ident).wv = s.wv := by unfold State.setIp; split <;> rfl
@[simp] theorem State.setIp_killed (s : State) (page ident : Nat) : (s.setIp page ident).killed = s.killed := by unfold State.setIp; split <;> rfl
@[simp] theorem State.setIp_rings (s : State) (page ident : Nat) : (s.setIp page ident).rings = s.rings := by unfold State.setIp; split <;> rfl
@[simp] theorem State.setIp_launches (s : State) (page ident : Nat) : (s.setIp page ident).launches = s.launches := by unfold State.setIp; split <;> rfl
@[simp] theorem State.setIp_triples (s : State) (page ident : Nat) : (s.setIp page ident).triples = s.triples := by unfold State.setIp; split <;> rfl
@[simp] theorem State.setIp_dcLate (s : State) (page ident : Nat) : (s.setIp page ident).dcLate = s.dcLate := by unfold State.setIp; split <;> rfl
@[simp] theorem State.setIp_host (s : State) (page ident : Nat) : (s.setIp page ident).host = s.host := by unfold State.setIp; split <;> rfl
@[simp] theorem State.setIp_told (s : State) (page ident : Nat) : (s.setIp page ident).told = s.told := by unfold State.setIp; split <;> rfl
@[simp] theorem State.setIp_twn (s : State) (page ident : Nat) : (s.setIp page ident).twn = s.twn := by unfold State.setIp; split <;> rfl
@[simp] theorem State.setIp_lost (s : State) (page ident : Nat) : (s.setIp page ident).lost = s.lost := by unfold State.setIp; split <;> rfl
@[simp] theorem State.setIp_sleep (s : State) (page ident : Nat) : (s.setIp page ident).sleep = s.sleep := by unfold State.setIp; split <;> rfl
@[simp] theorem State.setIp_waking (s : State) (page ident : Nat) : (s.setIp page ident).waking = s.waking := by unfold State.setIp; split <;> rfl
@[simp] theorem State.setIp_idleSince (s : State) (page ident : Nat) : (s.setIp page ident).idleSince = s.idleSince := by unfold State.setIp; split <;> rfl
@[simp] theorem State.setIp_bells (s : State) (page ident : Nat) : (s.setIp page ident).bells = s.bells := by unfold State.setIp; split <;> rfl
@[simp] theorem State.setIp_hops (s : State) (page ident : Nat) : (s.setIp page ident).hops = s.hops := by unfold State.setIp; split <;> rfl
@[simp] theorem State.setIp_overpower (s : State) (page ident : Nat) : (s.setIp page ident).overpower = s.overpower := by unfold State.setIp; split <;> rfl
@[simp] theorem State.setIp_snaps (s : State) (page ident : Nat) : (s.setIp page ident).snaps = s.snaps := by unfold State.setIp; split <;> rfl
@[simp] theorem State.setIp_pkgSnap (s : State) (page ident : Nat) : (s.setIp page ident).pkgSnap = s.pkgSnap := by unfold State.setIp; split <;> rfl
@[simp] theorem State.setIp_marked (s : State) (page ident : Nat) : (s.setIp page ident).marked = s.marked := by unfold State.setIp; split <;> rfl
@[simp] theorem State.setIp_pwr (s : State) (page ident : Nat) : (s.setIp page ident).pwr = s.pwr := by unfold State.setIp; split <;> rfl
@[simp] theorem State.setIp_pending (s : State) (page ident : Nat) : (s.setIp page ident).pending = s.pending := by unfold State.setIp; split <;> rfl

@[simp] theorem State.setCore_tick (s : State) (c : Nat) (k : CoreSt) : (s.setCore c k).tick = s.tick := rfl
@[simp] theorem State.setCore_drawn (s : State) (c : Nat) (k : CoreSt) : (s.setCore c k).drawn = s.drawn := rfl
@[simp] theorem State.setCore_resp (s : State) (c : Nat) (k : CoreSt) : (s.setCore c k).resp = s.resp := rfl
@[simp] theorem State.setCore_regs (s : State) (c : Nat) (k : CoreSt) : (s.setCore c k).regs = s.regs := rfl
@[simp] theorem State.setCore_imsic (s : State) (c : Nat) (k : CoreSt) : (s.setCore c k).imsic = s.imsic := rfl
@[simp] theorem State.setCore_dies (s : State) (c : Nat) (k : CoreSt) : (s.setCore c k).dies = s.dies := rfl
@[simp] theorem State.setCore_links (s : State) (c : Nat) (k : CoreSt) : (s.setCore c k).links = s.links := rfl
@[simp] theorem State.setCore_sync (s : State) (c : Nat) (k : CoreSt) : (s.setCore c k).sync = s.sync := rfl
@[simp] theorem State.setCore_ras (s : State) (c : Nat) (k : CoreSt) : (s.setCore c k).ras = s.ras := rfl
@[simp] theorem State.setCore_onyx (s : State) (c : Nat) (k : CoreSt) : (s.setCore c k).onyx = s.onyx := rfl
@[simp] theorem State.setCore_hold (s : State) (c : Nat) (k : CoreSt) : (s.setCore c k).hold = s.hold := rfl
@[simp] theorem State.setCore_stamp (s : State) (c : Nat) (k : CoreSt) : (s.setCore c k).stamp = s.stamp := rfl
@[simp] theorem State.setCore_dram (s : State) (c : Nat) (k : CoreSt) : (s.setCore c k).dram = s.dram := rfl
@[simp] theorem State.setCore_tags (s : State) (c : Nat) (k : CoreSt) : (s.setCore c k).tags = s.tags := rfl
@[simp] theorem State.setCore_bad (s : State) (c : Nat) (k : CoreSt) : (s.setCore c k).bad = s.bad := rfl
@[simp] theorem State.setCore_red (s : State) (c : Nat) (k : CoreSt) : (s.setCore c k).red = s.red := rfl
@[simp] theorem State.setCore_keys (s : State) (c : Nat) (k : CoreSt) : (s.setCore c k).keys = s.keys := rfl
@[simp] theorem State.setCore_sak (s : State) (c : Nat) (k : CoreSt) : (s.setCore c k).sak = s.sak := rfl
@[simp] theorem State.setCore_pkg (s : State) (c : Nat) (k : CoreSt) : (s.setCore c k).pkg = s.pkg := rfl
@[simp] theorem State.setCore_rowCe (s : State) (c : Nat) (k : CoreSt) : (s.setCore c k).rowCe = s.rowCe := rfl
@[simp] theorem State.setCore_zero (s : State) (c : Nat) (k : CoreSt) : (s.setCore c k).zero = s.zero := rfl
@[simp] theorem State.setCore_zeroed (s : State) (c : Nat) (k : CoreSt) : (s.setCore c k).zeroed = s.zeroed := rfl
@[simp] theorem State.setCore_lines (s : State) (c : Nat) (k : CoreSt) : (s.setCore c k).lines = s.lines := rfl
@[simp] theorem State.setCore_subs (s : State) (c : Nat) (k : CoreSt) : (s.setCore c k).subs = s.subs := rfl
@[simp] theorem State.setCore_dir (s : State) (c : Nat) (k : CoreSt) : (s.setCore c k).dir = s.dir := rfl
@[simp] theorem State.setCore_miss (s : State) (c : Nat) (k : CoreSt) : (s.setCore c k).miss = s.miss := rfl
@[simp] theorem State.setCore_tile (s : State) (c : Nat) (k : CoreSt) : (s.setCore c k).tile = s.tile := rfl
@[simp] theorem State.setCore_tileBad (s : State) (c : Nat) (k : CoreSt) : (s.setCore c k).tileBad = s.tileBad := rfl
@[simp] theorem State.setCore_tileWait (s : State) (c : Nat) (k : CoreSt) : (s.setCore c k).tileWait = s.tileWait := rfl
@[simp] theorem State.setCore_walk (s : State) (c : Nat) (k : CoreSt) : (s.setCore c k).walk = s.walk := rfl
@[simp] theorem State.setCore_ufault (s : State) (c : Nat) (k : CoreSt) : (s.setCore c k).ufault = s.ufault := rfl
@[simp] theorem State.setCore_fq (s : State) (c : Nat) (k : CoreSt) : (s.setCore c k).fq = s.fq := rfl
@[simp] theorem State.setCore_shoot (s : State) (c : Nat) (k : CoreSt) : (s.setCore c k).shoot = s.shoot := rfl
@[simp] theorem State.setCore_se (s : State) (c : Nat) (k : CoreSt) : (s.setCore c k).se = s.se := rfl
@[simp] theorem State.setCore_ringWait (s : State) (c : Nat) (k : CoreSt) : (s.setCore c k).ringWait = s.ringWait := rfl
@[simp] theorem State.setCore_clConf (s : State) (c : Nat) (k : CoreSt) : (s.setCore c k).clConf = s.clConf := rfl
@[simp] theorem State.setCore_wv (s : State) (c : Nat) (k : CoreSt) : (s.setCore c k).wv = s.wv := rfl
@[simp] theorem State.setCore_killed (s : State) (c : Nat) (k : CoreSt) : (s.setCore c k).killed = s.killed := rfl
@[simp] theorem State.setCore_rings (s : State) (c : Nat) (k : CoreSt) : (s.setCore c k).rings = s.rings := rfl
@[simp] theorem State.setCore_launches (s : State) (c : Nat) (k : CoreSt) : (s.setCore c k).launches = s.launches := rfl
@[simp] theorem State.setCore_triples (s : State) (c : Nat) (k : CoreSt) : (s.setCore c k).triples = s.triples := rfl
@[simp] theorem State.setCore_dcLate (s : State) (c : Nat) (k : CoreSt) : (s.setCore c k).dcLate = s.dcLate := rfl
@[simp] theorem State.setCore_host (s : State) (c : Nat) (k : CoreSt) : (s.setCore c k).host = s.host := rfl
@[simp] theorem State.setCore_told (s : State) (c : Nat) (k : CoreSt) : (s.setCore c k).told = s.told := rfl
@[simp] theorem State.setCore_twn (s : State) (c : Nat) (k : CoreSt) : (s.setCore c k).twn = s.twn := rfl
@[simp] theorem State.setCore_lost (s : State) (c : Nat) (k : CoreSt) : (s.setCore c k).lost = s.lost := rfl
@[simp] theorem State.setCore_sleep (s : State) (c : Nat) (k : CoreSt) : (s.setCore c k).sleep = s.sleep := rfl
@[simp] theorem State.setCore_waking (s : State) (c : Nat) (k : CoreSt) : (s.setCore c k).waking = s.waking := rfl
@[simp] theorem State.setCore_idleSince (s : State) (c : Nat) (k : CoreSt) : (s.setCore c k).idleSince = s.idleSince := rfl
@[simp] theorem State.setCore_bells (s : State) (c : Nat) (k : CoreSt) : (s.setCore c k).bells = s.bells := rfl
@[simp] theorem State.setCore_hops (s : State) (c : Nat) (k : CoreSt) : (s.setCore c k).hops = s.hops := rfl
@[simp] theorem State.setCore_overpower (s : State) (c : Nat) (k : CoreSt) : (s.setCore c k).overpower = s.overpower := rfl
@[simp] theorem State.setCore_snaps (s : State) (c : Nat) (k : CoreSt) : (s.setCore c k).snaps = s.snaps := rfl
@[simp] theorem State.setCore_pkgSnap (s : State) (c : Nat) (k : CoreSt) : (s.setCore c k).pkgSnap = s.pkgSnap := rfl
@[simp] theorem State.setCore_marked (s : State) (c : Nat) (k : CoreSt) : (s.setCore c k).marked = s.marked := rfl
@[simp] theorem State.setCore_pwr (s : State) (c : Nat) (k : CoreSt) : (s.setCore c k).pwr = s.pwr := rfl
@[simp] theorem State.setCore_pending (s : State) (c : Nat) (k : CoreSt) : (s.setCore c k).pending = s.pending := rfl

@[simp] theorem State.setGrp_tick (s : State) (g : GroupRef) (x : Group) : (s.setGrp g x).tick = s.tick := rfl
@[simp] theorem State.setGrp_drawn (s : State) (g : GroupRef) (x : Group) : (s.setGrp g x).drawn = s.drawn := rfl
@[simp] theorem State.setGrp_resp (s : State) (g : GroupRef) (x : Group) : (s.setGrp g x).resp = s.resp := rfl
@[simp] theorem State.setGrp_regs (s : State) (g : GroupRef) (x : Group) : (s.setGrp g x).regs = s.regs := rfl
@[simp] theorem State.setGrp_imsic (s : State) (g : GroupRef) (x : Group) : (s.setGrp g x).imsic = s.imsic := rfl
@[simp] theorem State.setGrp_dies (s : State) (g : GroupRef) (x : Group) : (s.setGrp g x).dies = s.dies := rfl
@[simp] theorem State.setGrp_links (s : State) (g : GroupRef) (x : Group) : (s.setGrp g x).links = s.links := rfl
@[simp] theorem State.setGrp_sync (s : State) (g : GroupRef) (x : Group) : (s.setGrp g x).sync = s.sync := rfl
@[simp] theorem State.setGrp_ras (s : State) (g : GroupRef) (x : Group) : (s.setGrp g x).ras = s.ras := rfl
@[simp] theorem State.setGrp_onyx (s : State) (g : GroupRef) (x : Group) : (s.setGrp g x).onyx = s.onyx := rfl
@[simp] theorem State.setGrp_hold (s : State) (g : GroupRef) (x : Group) : (s.setGrp g x).hold = s.hold := rfl
@[simp] theorem State.setGrp_stamp (s : State) (g : GroupRef) (x : Group) : (s.setGrp g x).stamp = s.stamp := rfl
@[simp] theorem State.setGrp_dram (s : State) (g : GroupRef) (x : Group) : (s.setGrp g x).dram = s.dram := rfl
@[simp] theorem State.setGrp_tags (s : State) (g : GroupRef) (x : Group) : (s.setGrp g x).tags = s.tags := rfl
@[simp] theorem State.setGrp_bad (s : State) (g : GroupRef) (x : Group) : (s.setGrp g x).bad = s.bad := rfl
@[simp] theorem State.setGrp_red (s : State) (g : GroupRef) (x : Group) : (s.setGrp g x).red = s.red := rfl
@[simp] theorem State.setGrp_keys (s : State) (g : GroupRef) (x : Group) : (s.setGrp g x).keys = s.keys := rfl
@[simp] theorem State.setGrp_sak (s : State) (g : GroupRef) (x : Group) : (s.setGrp g x).sak = s.sak := rfl
@[simp] theorem State.setGrp_pkg (s : State) (g : GroupRef) (x : Group) : (s.setGrp g x).pkg = s.pkg := rfl
@[simp] theorem State.setGrp_rowCe (s : State) (g : GroupRef) (x : Group) : (s.setGrp g x).rowCe = s.rowCe := rfl
@[simp] theorem State.setGrp_zero (s : State) (g : GroupRef) (x : Group) : (s.setGrp g x).zero = s.zero := rfl
@[simp] theorem State.setGrp_zeroed (s : State) (g : GroupRef) (x : Group) : (s.setGrp g x).zeroed = s.zeroed := rfl
@[simp] theorem State.setGrp_lines (s : State) (g : GroupRef) (x : Group) : (s.setGrp g x).lines = s.lines := rfl
@[simp] theorem State.setGrp_subs (s : State) (g : GroupRef) (x : Group) : (s.setGrp g x).subs = s.subs := rfl
@[simp] theorem State.setGrp_dir (s : State) (g : GroupRef) (x : Group) : (s.setGrp g x).dir = s.dir := rfl
@[simp] theorem State.setGrp_miss (s : State) (g : GroupRef) (x : Group) : (s.setGrp g x).miss = s.miss := rfl
@[simp] theorem State.setGrp_tile (s : State) (g : GroupRef) (x : Group) : (s.setGrp g x).tile = s.tile := rfl
@[simp] theorem State.setGrp_tileBad (s : State) (g : GroupRef) (x : Group) : (s.setGrp g x).tileBad = s.tileBad := rfl
@[simp] theorem State.setGrp_tileWait (s : State) (g : GroupRef) (x : Group) : (s.setGrp g x).tileWait = s.tileWait := rfl
@[simp] theorem State.setGrp_walk (s : State) (g : GroupRef) (x : Group) : (s.setGrp g x).walk = s.walk := rfl
@[simp] theorem State.setGrp_ufault (s : State) (g : GroupRef) (x : Group) : (s.setGrp g x).ufault = s.ufault := rfl
@[simp] theorem State.setGrp_fq (s : State) (g : GroupRef) (x : Group) : (s.setGrp g x).fq = s.fq := rfl
@[simp] theorem State.setGrp_shoot (s : State) (g : GroupRef) (x : Group) : (s.setGrp g x).shoot = s.shoot := rfl
@[simp] theorem State.setGrp_se (s : State) (g : GroupRef) (x : Group) : (s.setGrp g x).se = s.se := rfl
@[simp] theorem State.setGrp_ringWait (s : State) (g : GroupRef) (x : Group) : (s.setGrp g x).ringWait = s.ringWait := rfl
@[simp] theorem State.setGrp_clConf (s : State) (g : GroupRef) (x : Group) : (s.setGrp g x).clConf = s.clConf := rfl
@[simp] theorem State.setGrp_wv (s : State) (g : GroupRef) (x : Group) : (s.setGrp g x).wv = s.wv := rfl
@[simp] theorem State.setGrp_killed (s : State) (g : GroupRef) (x : Group) : (s.setGrp g x).killed = s.killed := rfl
@[simp] theorem State.setGrp_rings (s : State) (g : GroupRef) (x : Group) : (s.setGrp g x).rings = s.rings := rfl
@[simp] theorem State.setGrp_launches (s : State) (g : GroupRef) (x : Group) : (s.setGrp g x).launches = s.launches := rfl
@[simp] theorem State.setGrp_triples (s : State) (g : GroupRef) (x : Group) : (s.setGrp g x).triples = s.triples := rfl
@[simp] theorem State.setGrp_dcLate (s : State) (g : GroupRef) (x : Group) : (s.setGrp g x).dcLate = s.dcLate := rfl
@[simp] theorem State.setGrp_host (s : State) (g : GroupRef) (x : Group) : (s.setGrp g x).host = s.host := rfl
@[simp] theorem State.setGrp_told (s : State) (g : GroupRef) (x : Group) : (s.setGrp g x).told = s.told := rfl
@[simp] theorem State.setGrp_twn (s : State) (g : GroupRef) (x : Group) : (s.setGrp g x).twn = s.twn := rfl
@[simp] theorem State.setGrp_lost (s : State) (g : GroupRef) (x : Group) : (s.setGrp g x).lost = s.lost := rfl
@[simp] theorem State.setGrp_sleep (s : State) (g : GroupRef) (x : Group) : (s.setGrp g x).sleep = s.sleep := rfl
@[simp] theorem State.setGrp_waking (s : State) (g : GroupRef) (x : Group) : (s.setGrp g x).waking = s.waking := rfl
@[simp] theorem State.setGrp_idleSince (s : State) (g : GroupRef) (x : Group) : (s.setGrp g x).idleSince = s.idleSince := rfl
@[simp] theorem State.setGrp_bells (s : State) (g : GroupRef) (x : Group) : (s.setGrp g x).bells = s.bells := rfl
@[simp] theorem State.setGrp_hops (s : State) (g : GroupRef) (x : Group) : (s.setGrp g x).hops = s.hops := rfl
@[simp] theorem State.setGrp_overpower (s : State) (g : GroupRef) (x : Group) : (s.setGrp g x).overpower = s.overpower := rfl
@[simp] theorem State.setGrp_snaps (s : State) (g : GroupRef) (x : Group) : (s.setGrp g x).snaps = s.snaps := rfl
@[simp] theorem State.setGrp_pkgSnap (s : State) (g : GroupRef) (x : Group) : (s.setGrp g x).pkgSnap = s.pkgSnap := rfl
@[simp] theorem State.setGrp_marked (s : State) (g : GroupRef) (x : Group) : (s.setGrp g x).marked = s.marked := rfl
@[simp] theorem State.setGrp_pwr (s : State) (g : GroupRef) (x : Group) : (s.setGrp g x).pwr = s.pwr := rfl
@[simp] theorem State.setGrp_pending (s : State) (g : GroupRef) (x : Group) : (s.setGrp g x).pending = s.pending := rfl

@[simp] theorem State.fresh_tick (s : State) : (s.fresh).tick = s.tick := rfl
@[simp] theorem State.fresh_drawn (s : State) : (s.fresh).drawn = s.drawn := rfl
@[simp] theorem State.fresh_resp (s : State) : (s.fresh).resp = s.resp := rfl
@[simp] theorem State.fresh_regs (s : State) : (s.fresh).regs = s.regs := rfl
@[simp] theorem State.fresh_imsic (s : State) : (s.fresh).imsic = s.imsic := rfl
@[simp] theorem State.fresh_dies (s : State) : (s.fresh).dies = s.dies := rfl
@[simp] theorem State.fresh_links (s : State) : (s.fresh).links = s.links := rfl
@[simp] theorem State.fresh_cores (s : State) : (s.fresh).cores = s.cores := rfl
@[simp] theorem State.fresh_sync (s : State) : (s.fresh).sync = s.sync := rfl
@[simp] theorem State.fresh_ras (s : State) : (s.fresh).ras = s.ras := rfl
@[simp] theorem State.fresh_onyx (s : State) : (s.fresh).onyx = s.onyx := rfl
@[simp] theorem State.fresh_stamp (s : State) : (s.fresh).stamp = s.stamp := rfl
@[simp] theorem State.fresh_dram (s : State) : (s.fresh).dram = s.dram := rfl
@[simp] theorem State.fresh_tags (s : State) : (s.fresh).tags = s.tags := rfl
@[simp] theorem State.fresh_bad (s : State) : (s.fresh).bad = s.bad := rfl
@[simp] theorem State.fresh_red (s : State) : (s.fresh).red = s.red := rfl
@[simp] theorem State.fresh_keys (s : State) : (s.fresh).keys = s.keys := rfl
@[simp] theorem State.fresh_sak (s : State) : (s.fresh).sak = s.sak := rfl
@[simp] theorem State.fresh_pkg (s : State) : (s.fresh).pkg = s.pkg := rfl
@[simp] theorem State.fresh_rowCe (s : State) : (s.fresh).rowCe = s.rowCe := rfl
@[simp] theorem State.fresh_zero (s : State) : (s.fresh).zero = s.zero := rfl
@[simp] theorem State.fresh_zeroed (s : State) : (s.fresh).zeroed = s.zeroed := rfl
@[simp] theorem State.fresh_lines (s : State) : (s.fresh).lines = s.lines := rfl
@[simp] theorem State.fresh_subs (s : State) : (s.fresh).subs = s.subs := rfl
@[simp] theorem State.fresh_dir (s : State) : (s.fresh).dir = s.dir := rfl
@[simp] theorem State.fresh_miss (s : State) : (s.fresh).miss = s.miss := rfl
@[simp] theorem State.fresh_tile (s : State) : (s.fresh).tile = s.tile := rfl
@[simp] theorem State.fresh_tileBad (s : State) : (s.fresh).tileBad = s.tileBad := rfl
@[simp] theorem State.fresh_tileWait (s : State) : (s.fresh).tileWait = s.tileWait := rfl
@[simp] theorem State.fresh_walk (s : State) : (s.fresh).walk = s.walk := rfl
@[simp] theorem State.fresh_ufault (s : State) : (s.fresh).ufault = s.ufault := rfl
@[simp] theorem State.fresh_fq (s : State) : (s.fresh).fq = s.fq := rfl
@[simp] theorem State.fresh_shoot (s : State) : (s.fresh).shoot = s.shoot := rfl
@[simp] theorem State.fresh_se (s : State) : (s.fresh).se = s.se := rfl
@[simp] theorem State.fresh_ringWait (s : State) : (s.fresh).ringWait = s.ringWait := rfl
@[simp] theorem State.fresh_clConf (s : State) : (s.fresh).clConf = s.clConf := rfl
@[simp] theorem State.fresh_wv (s : State) : (s.fresh).wv = s.wv := rfl
@[simp] theorem State.fresh_killed (s : State) : (s.fresh).killed = s.killed := rfl
@[simp] theorem State.fresh_rings (s : State) : (s.fresh).rings = s.rings := rfl
@[simp] theorem State.fresh_launches (s : State) : (s.fresh).launches = s.launches := rfl
@[simp] theorem State.fresh_triples (s : State) : (s.fresh).triples = s.triples := rfl
@[simp] theorem State.fresh_dcLate (s : State) : (s.fresh).dcLate = s.dcLate := rfl
@[simp] theorem State.fresh_host (s : State) : (s.fresh).host = s.host := rfl
@[simp] theorem State.fresh_told (s : State) : (s.fresh).told = s.told := rfl
@[simp] theorem State.fresh_twn (s : State) : (s.fresh).twn = s.twn := rfl
@[simp] theorem State.fresh_lost (s : State) : (s.fresh).lost = s.lost := rfl
@[simp] theorem State.fresh_sleep (s : State) : (s.fresh).sleep = s.sleep := rfl
@[simp] theorem State.fresh_waking (s : State) : (s.fresh).waking = s.waking := rfl
@[simp] theorem State.fresh_idleSince (s : State) : (s.fresh).idleSince = s.idleSince := rfl
@[simp] theorem State.fresh_bells (s : State) : (s.fresh).bells = s.bells := rfl
@[simp] theorem State.fresh_hops (s : State) : (s.fresh).hops = s.hops := rfl
@[simp] theorem State.fresh_overpower (s : State) : (s.fresh).overpower = s.overpower := rfl
@[simp] theorem State.fresh_snaps (s : State) : (s.fresh).snaps = s.snaps := rfl
@[simp] theorem State.fresh_pkgSnap (s : State) : (s.fresh).pkgSnap = s.pkgSnap := rfl
@[simp] theorem State.fresh_marked (s : State) : (s.fresh).marked = s.marked := rfl
@[simp] theorem State.fresh_pwr (s : State) : (s.fresh).pwr = s.pwr := rfl
@[simp] theorem State.fresh_pending (s : State) : (s.fresh).pending = s.pending := rfl

@[simp] theorem State.beats_tick (s : State) (c : Nat) : (s.beats c).tick = s.tick := rfl
@[simp] theorem State.beats_resp (s : State) (c : Nat) : (s.beats c).resp = s.resp := rfl
@[simp] theorem State.beats_imsic (s : State) (c : Nat) : (s.beats c).imsic = s.imsic := rfl
@[simp] theorem State.beats_dies (s : State) (c : Nat) : (s.beats c).dies = s.dies := rfl
@[simp] theorem State.beats_links (s : State) (c : Nat) : (s.beats c).links = s.links := rfl
@[simp] theorem State.beats_cores (s : State) (c : Nat) : (s.beats c).cores = s.cores := rfl
@[simp] theorem State.beats_sync (s : State) (c : Nat) : (s.beats c).sync = s.sync := rfl
@[simp] theorem State.beats_ras (s : State) (c : Nat) : (s.beats c).ras = s.ras := rfl
@[simp] theorem State.beats_onyx (s : State) (c : Nat) : (s.beats c).onyx = s.onyx := rfl
@[simp] theorem State.beats_hold (s : State) (c : Nat) : (s.beats c).hold = s.hold := rfl
@[simp] theorem State.beats_stamp (s : State) (c : Nat) : (s.beats c).stamp = s.stamp := rfl
@[simp] theorem State.beats_dram (s : State) (c : Nat) : (s.beats c).dram = s.dram := rfl
@[simp] theorem State.beats_tags (s : State) (c : Nat) : (s.beats c).tags = s.tags := rfl
@[simp] theorem State.beats_bad (s : State) (c : Nat) : (s.beats c).bad = s.bad := rfl
@[simp] theorem State.beats_red (s : State) (c : Nat) : (s.beats c).red = s.red := rfl
@[simp] theorem State.beats_keys (s : State) (c : Nat) : (s.beats c).keys = s.keys := rfl
@[simp] theorem State.beats_sak (s : State) (c : Nat) : (s.beats c).sak = s.sak := rfl
@[simp] theorem State.beats_pkg (s : State) (c : Nat) : (s.beats c).pkg = s.pkg := rfl
@[simp] theorem State.beats_rowCe (s : State) (c : Nat) : (s.beats c).rowCe = s.rowCe := rfl
@[simp] theorem State.beats_zero (s : State) (c : Nat) : (s.beats c).zero = s.zero := rfl
@[simp] theorem State.beats_zeroed (s : State) (c : Nat) : (s.beats c).zeroed = s.zeroed := rfl
@[simp] theorem State.beats_lines (s : State) (c : Nat) : (s.beats c).lines = s.lines := rfl
@[simp] theorem State.beats_subs (s : State) (c : Nat) : (s.beats c).subs = s.subs := rfl
@[simp] theorem State.beats_dir (s : State) (c : Nat) : (s.beats c).dir = s.dir := rfl
@[simp] theorem State.beats_miss (s : State) (c : Nat) : (s.beats c).miss = s.miss := rfl
@[simp] theorem State.beats_tile (s : State) (c : Nat) : (s.beats c).tile = s.tile := rfl
@[simp] theorem State.beats_tileBad (s : State) (c : Nat) : (s.beats c).tileBad = s.tileBad := rfl
@[simp] theorem State.beats_tileWait (s : State) (c : Nat) : (s.beats c).tileWait = s.tileWait := rfl
@[simp] theorem State.beats_walk (s : State) (c : Nat) : (s.beats c).walk = s.walk := rfl
@[simp] theorem State.beats_ufault (s : State) (c : Nat) : (s.beats c).ufault = s.ufault := rfl
@[simp] theorem State.beats_fq (s : State) (c : Nat) : (s.beats c).fq = s.fq := rfl
@[simp] theorem State.beats_shoot (s : State) (c : Nat) : (s.beats c).shoot = s.shoot := rfl
@[simp] theorem State.beats_se (s : State) (c : Nat) : (s.beats c).se = s.se := rfl
@[simp] theorem State.beats_ringWait (s : State) (c : Nat) : (s.beats c).ringWait = s.ringWait := rfl
@[simp] theorem State.beats_clConf (s : State) (c : Nat) : (s.beats c).clConf = s.clConf := rfl
@[simp] theorem State.beats_wv (s : State) (c : Nat) : (s.beats c).wv = s.wv := rfl
@[simp] theorem State.beats_killed (s : State) (c : Nat) : (s.beats c).killed = s.killed := rfl
@[simp] theorem State.beats_rings (s : State) (c : Nat) : (s.beats c).rings = s.rings := rfl
@[simp] theorem State.beats_launches (s : State) (c : Nat) : (s.beats c).launches = s.launches := rfl
@[simp] theorem State.beats_triples (s : State) (c : Nat) : (s.beats c).triples = s.triples := rfl
@[simp] theorem State.beats_dcLate (s : State) (c : Nat) : (s.beats c).dcLate = s.dcLate := rfl
@[simp] theorem State.beats_host (s : State) (c : Nat) : (s.beats c).host = s.host := rfl
@[simp] theorem State.beats_told (s : State) (c : Nat) : (s.beats c).told = s.told := rfl
@[simp] theorem State.beats_twn (s : State) (c : Nat) : (s.beats c).twn = s.twn := rfl
@[simp] theorem State.beats_lost (s : State) (c : Nat) : (s.beats c).lost = s.lost := rfl
@[simp] theorem State.beats_sleep (s : State) (c : Nat) : (s.beats c).sleep = s.sleep := rfl
@[simp] theorem State.beats_waking (s : State) (c : Nat) : (s.beats c).waking = s.waking := rfl
@[simp] theorem State.beats_idleSince (s : State) (c : Nat) : (s.beats c).idleSince = s.idleSince := rfl
@[simp] theorem State.beats_bells (s : State) (c : Nat) : (s.beats c).bells = s.bells := rfl
@[simp] theorem State.beats_hops (s : State) (c : Nat) : (s.beats c).hops = s.hops := rfl
@[simp] theorem State.beats_overpower (s : State) (c : Nat) : (s.beats c).overpower = s.overpower := rfl
@[simp] theorem State.beats_snaps (s : State) (c : Nat) : (s.beats c).snaps = s.snaps := rfl
@[simp] theorem State.beats_pkgSnap (s : State) (c : Nat) : (s.beats c).pkgSnap = s.pkgSnap := rfl
@[simp] theorem State.beats_marked (s : State) (c : Nat) : (s.beats c).marked = s.marked := rfl
@[simp] theorem State.beats_pwr (s : State) (c : Nat) : (s.beats c).pwr = s.pwr := rfl
@[simp] theorem State.beats_pending (s : State) (c : Nat) : (s.beats c).pending = s.pending := rfl

/-! ## Reads after updates -/

@[simp] theorem State.reg_setReg (s : State) (a : Nat) (v : Word) (b : Nat) :
    (s.setReg a v).reg b = if b = a then v else s.reg b := Sparse.get_set _ _ _ _ _

theorem State.reg_setFld (s : State) (a : Nat) (f : Fld) (v b : Nat) :
    (s.setFld a f v).reg b = if b = a then f.set v (s.reg a) else s.reg b := State.reg_setReg _ _ _ _

theorem State.reg_setFld_ne (s : State) (a : Nat) (f : Fld) (v b : Nat) (h : b ≠ a) :
    (s.setFld a f v).reg b = s.reg b := by simp [State.reg_setFld, h]

theorem State.reg_count_ne (s : State) (a : Nat) (f : Fld) (n b : Nat) (h : b ≠ a) :
    (s.count a f n).reg b = s.reg b := State.reg_setFld_ne _ _ _ _ _ h

@[simp] theorem State.die_setDie (s : State) (n : Nat) (d : DieSt) (m : Nat) :
    (s.setDie n d).die m = if m = n then d else s.die m := Sparse.get_set _ _ _ _ _

@[simp] theorem State.lnk_setLnk (s : State) (l : Nat) (k : LinkSt) (m : Nat) :
    (s.setLnk l k).lnk m = if m = l then k else s.lnk m := Sparse.get_set _ _ _ _ _

@[simp] theorem State.core_setCore (s : State) (c : Nat) (k : CoreSt) (d : Nat) :
    (s.setCore c k).core d = if d = c then k else s.core d := Sparse.get_set _ _ _ _ _

@[simp] theorem State.grp_setGrp (s : State) (g : GroupRef) (x : Group) : (s.setGrp g x).grp g = x := by
  simp [State.grp, State.setGrp, CoreSt.grp]

theorem State.grp_setGrp_ne (s : State) (g h : GroupRef) (x : Group) (n : h ≠ g) : (s.setGrp g x).grp h = s.grp h := by
  simp only [State.grp, State.setGrp, State.core_setCore, CoreSt.grp]
  split
  · rename_i hc
    have hs : h.slot.val ≠ g.slot.val := by
      intro hs
      apply n
      obtain ⟨hc1, hs1⟩ := h
      obtain ⟨gc1, gs1⟩ := g
      simp only at hc hs
      exact congr (congrArg GroupRef.mk (Fin.ext hc)) (Fin.ext hs)
    rw [Sparse.get_set_ne _ _ _ _ _ hs, hc]
  · rfl

/-! ## Fields of a word -/

theorem Fld.set_testBit (f : Fld) (v : Nat) (x : Word) (i : Nat) (hi : i < 64) :
    (f.set v x).getLsbD i = if f.lo ≤ i ∧ i < f.lo + f.w then v.testBit (i - f.lo) else x.getLsbD i := by
  simp only [Fld.set, Fld.mask, Word.of, BitVec.getLsbD_or, BitVec.getLsbD_and, BitVec.getLsbD_not, BitVec.getLsbD_ofNat,
    Nat.testBit_shiftLeft, hi, decide_true, Bool.true_and, Nat.testBit_mod_two_pow, Nat.testBit_two_pow_sub_one]
  by_cases h1 : f.lo ≤ i
  · by_cases h2 : i - f.lo < f.w
    · have : i < f.lo + f.w := by omega
      simp [h1, h2, this]
    · have : ¬ i < f.lo + f.w := by omega
      simp [h1, h2, this]
  · simp [h1]

theorem Fld.get_testBit (f : Fld) (x : Word) (i : Nat) : (f.get x).testBit i = (decide (i < f.w) && x.getLsbD (f.lo + i)) := by
  simp [Fld.get, bits, Nat.testBit_mod_two_pow, Nat.testBit_shiftRight, BitVec.getLsbD]

/-- A field reads what was set, cut to its width. -/
theorem Fld.get_set (f : Fld) (v : Nat) (x : Word) (h : f.lo + f.w ≤ 64) : f.get (f.set v x) = v % 2 ^ f.w := by
  apply Nat.eq_of_testBit_eq
  intro i
  rw [Fld.get_testBit, Nat.testBit_mod_two_pow]
  by_cases hi : i < f.w
  · rw [Fld.set_testBit _ _ _ _ (by omega)]
    have : f.lo ≤ f.lo + i ∧ f.lo + i < f.lo + f.w := by omega
    simp [hi]
  · simp [hi]

/-- A field keeps its value when another field that shares no bit with it is set. -/
theorem Fld.get_set_ne (f g : Fld) (v : Nat) (x : Word) (h : f.lo + f.w ≤ g.lo ∨ g.lo + g.w ≤ f.lo) :
    f.get (g.set v x) = f.get x := by
  apply Nat.eq_of_testBit_eq
  intro i
  rw [Fld.get_testBit, Fld.get_testBit]
  by_cases hi : i < f.w
  · by_cases h64 : f.lo + i < 64
    · rw [Fld.set_testBit _ _ _ _ h64]
      have : ¬ (g.lo ≤ f.lo + i ∧ f.lo + i < g.lo + g.w) := by omega
      simp [this]
    · rw [BitVec.getLsbD_of_ge _ _ (by omega), BitVec.getLsbD_of_ge _ _ (by omega)]
  · simp [hi]

theorem State.fld_setFld (s : State) (a : Nat) (f : Fld) (v : Nat) (h : f.lo + f.w ≤ 64) :
    (s.setFld a f v).fld a f = v % 2 ^ f.w := by
  simp [State.fld, State.reg_setFld, Fld.get_set f v _ h]

theorem State.fld_setFld_ne (s : State) (a : Nat) (f : Fld) (v b : Nat) (g : Fld) (h : b ≠ a) :
    (s.setFld a f v).fld b g = s.fld b g := by simp [State.fld, State.reg_setFld, h]

theorem State.fld_setFld_other (s : State) (a : Nat) (f : Fld) (v : Nat) (g : Fld)
    (h : g.lo + g.w ≤ f.lo ∨ f.lo + f.w ≤ g.lo) : (s.setFld a f v).fld a g = s.fld a g := by
  simp [State.fld, State.reg_setFld, Fld.get_set_ne g f v _ h]

/-! ## Commands -/

@[simp] theorem State.fresh_hold (s : State) : s.fresh.hold = false := rfl

/-- A command whose effect has not to wait answers the state its effect gives, with the queue as it was. -/
theorem State.run_of_goes (s : State) (body : State → State) (h : (body s.fresh).hold = false) :
    s.run body = .next { body s.fresh with pending := s.pending, hold := false } := by
  simp [State.run, State.commit, h]

/-- The same of an effect that is committed twice over. -/
theorem State.run_commit_goes (s : State) (body : State → State) (h : (body s.fresh).hold = false) :
    s.run (fun s => s.commit body) = .next { body s.fresh with pending := s.pending, hold := false } := by
  simp [State.run, State.commit, h]

/-- A command that has to wait changes nothing and answers `held`. -/
theorem State.run_of_waits (s : State) (body : State → State) (h : (body s.fresh).hold = true) :
    s.run body = .next { s.answer .held with hold := false } := by
  simp only [State.run, State.commit, h, if_true]; rfl

/-- Every effect that runs as a command ends in a next state with the queue as it was and nothing half done. -/
theorem State.run_next (s : State) (body : State → State) :
    ∃ t, s.run body = .next t ∧ t.pending = s.pending ∧ t.hold = false := ⟨_, rfl, rfl, rfl⟩

end Sys2Proof.Machine
end

