-- ==== Sys2Proof/Laws/Bus.lean ====
section
/-!
SUPPORT. Register accesses: where an address falls, what a write leaves in a register, and the one thing a store of
a register that meets no gate does.
-/

namespace Sys2Proof.Machine

/-! ## Places -/

theorem regPlace_hub (o : Nat) (ho : o < 0x1_0000_0000) : regPlace o = some (0, rows_glob ++ rows_hub, o) := by
  have h1 : o / 0x1_0000_0000 = 0 := by omega
  have h2 : o % 0x1_0000_0000 = o := by omega
  simp [regPlace, h1, h2]

theorem regPlace_cd (cd o : Nat) (hc : cd < 8) (ho : o < 0x0100_0000) :
    regPlace (cdBase cd + o) = some (cd + 1, rows_glob ++ rows_cd, o) := by
  have h1 : (cdBase cd + o) / 0x1_0000_0000 = cd + 1 := by simp only [cdBase]; omega
  have h2 : (cdBase cd + o) % 0x1_0000_0000 = o := by simp only [cdBase]; omega
  have h3 : cd + 1 ≤ 8 := by omega
  simp [regPlace, h1, h2, h3, ho]

theorem regPlace_hd (hd o : Nat) (hc : hd < 2) (ho : o < 0x1_0000_0000) :
    regPlace (hdBase hd + o) = some (hd + 9, rows_glob ++ rows_hd, o) := by
  have h1 : (hdBase hd + o) / 0x1_0000_0000 = hd + 9 := by simp only [hdBase]; omega
  have h2 : (hdBase hd + o) % 0x1_0000_0000 = o := by simp only [hdBase]; omega
  have h3 : hd + 9 ≤ 10 := by omega
  simp [regPlace, h1, h2, h3]

theorem regPlace_glob (site o : Nat) (hs : site < 11) (ho : o < 0x0100_0000) :
    ∃ rest, regPlace (site * 0x1_0000_0000 + o) = some (site, rows_glob ++ rest, o) := by
  have h1 : (site * 0x1_0000_0000 + o) / 0x1_0000_0000 = site := by omega
  have h2 : (site * 0x1_0000_0000 + o) % 0x1_0000_0000 = o := by omega
  by_cases h0 : site = 0
  · subst h0
    exact ⟨rows_hub, by simpa using regPlace_hub (0 * 0x1_0000_0000 + o) (by omega)⟩
  · by_cases h8 : site ≤ 8
    · exact ⟨rows_cd, by simp [regPlace, h1, h2, h0, h8, ho]⟩
    · exact ⟨rows_hd, by simp [regPlace, h1, h2, h0, h8]; omega⟩

theorem cluBase_split (cl o : Nat) (_hc : cl < 64) (ho : o < 0x20_0000) :
    (cluBase cl + o) / 0x1_0000_0000 = cl / 8 + 1
      ∧ (cluBase cl + o) % 0x1_0000_0000 = 0x0100_0000 + (cl % 8) * 0x20_0000 + o := by
  simp only [cluBase, cdBase]; omega

theorem regPlace_clu (cl o : Nat) (hc : cl < 64) (ho : o < 0x1_0000) :
    regPlace (cluBase cl + o) = some (cl / 8 + 1, rows_clu, o) := by
  obtain ⟨h1, h2⟩ := cluBase_split cl o hc (by omega)
  have h3 : cl / 8 + 1 ≤ 8 := by omega
  have h4 : ¬ (0x0100_0000 + (cl % 8) * 0x20_0000 + o < 0x0100_0000) := by omega
  have h5 : (0x0100_0000 + (cl % 8) * 0x20_0000 + o - 0x0100_0000) / 0x20_0000 = cl % 8 := by omega
  have h6 : (0x0100_0000 + (cl % 8) * 0x20_0000 + o - 0x0100_0000) % 0x20_0000 / 0x1_0000 = 0 := by omega
  have h7 : (0x0100_0000 + (cl % 8) * 0x20_0000 + o) % 0x1_0000 = o := by omega
  have h8 : cl % 8 < 8 := by omega
  simp only [regPlace, h1, h2, h3, h4, h5, h6, h7, h8, if_true, if_false, Nat.succ_ne_zero]

theorem regPlace_core (c o : Nat) (hc : c < 1024) (ho : o < 0x1_0000) :
    regPlace (coreBase c + o) = some (c / 128 + 1, rows_core, o) := by
  have e : coreBase c + o = cluBase (c / 16) + ((c % 16 + 1) * 0x1_0000 + o) := by simp only [coreBase]; omega
  obtain ⟨h1, h2⟩ := cluBase_split (c / 16) ((c % 16 + 1) * 0x1_0000 + o) (by omega) (by omega)
  rw [← e] at h1 h2
  have h0 : c / 16 / 8 = c / 128 := by omega
  rw [h0] at h1
  generalize hk : 0x0100_0000 + (c / 16 % 8) * 0x20_0000 + ((c % 16 + 1) * 0x1_0000 + o) = w at h2
  have h3 : c / 128 + 1 ≤ 8 := by omega
  have h4 : ¬ (w < 0x0100_0000) := by omega
  have h5 : (w - 0x0100_0000) / 0x20_0000 < 8 := by omega
  have h6 : (w - 0x0100_0000) % 0x20_0000 / 0x1_0000 = c % 16 + 1 := by omega
  have h7 : w % 0x1_0000 = o := by omega
  have h8 : c % 16 + 1 ≤ 16 := by omega
  simp only [regPlace, h1, h2, h3, h4, h5, h6, h7, h8, if_true, if_false, Nat.succ_ne_zero]

/-- A register is the row that its window's rows find at its offset. -/
theorem regRow_of (a site o : Nat) (rows : List RegRow) (r : RegRow) (hp : regPlace a = some (site, rows, o))
    (hr : rows.find? (fun x => x.hit o) = some r) : regRow a = some (r, false) := by
  simp [regRow, hp, hr]

/-! ## Gates and fields -/

theorem Acc.gated_of (acc : Acc) (priv secure : Bool) (hp : acc = .rwp ∨ acc = .rop → priv = true)
    (hs : acc = .rws → secure = true) : acc.gated priv secure = false := by
  cases acc <;> simp_all [Acc.gated]

/-- A write that no field gates breaks no gate. -/
theorem writeWord_passes (fs : List Fld) (priv secure : Bool) (copy : Nat) (old v : Word)
    (h : ∀ f ∈ fs, f.acc.gated priv secure = false) :
    (writeWord fs priv secure copy old v).priv = false ∧ (writeWord fs priv secure copy old v).secure = false := by
  suffices ∀ (fs : List Fld) (x : Met), (∀ f ∈ fs, f.acc.gated priv secure = false) → x.priv = false → x.secure = false →
      (fs.foldl (Met.writeFld priv secure copy old v) x).priv = false
        ∧ (fs.foldl (Met.writeFld priv secure copy old v) x).secure = false from
    this fs _ h rfl rfl
  intro fs
  induction fs with
  | nil => intro x _ h1 h2; exact ⟨h1, h2⟩
  | cons f fs ih =>
    intro x hg h1 h2
    have hf := hg f (by simp)
    have : (Met.writeFld priv secure copy old v x f).priv = x.priv
        ∧ (Met.writeFld priv secure copy old v x f).secure = x.secure := by
      simp only [Met.writeFld, hf]
      repeat' split
      all_goals first | exact ⟨rfl, rfl⟩ | contradiction
    exact ih _ (fun g hg' => hg g (List.mem_cons_of_mem _ hg')) (this.1.trans h1) (this.2.trans h2)

/-! ## Stores -/

/-- Whether a master's store reaches a register: the master can send it, the die is in service, and a compute die
is not in I4. -/
theorem State.busWrite_eq (s : State) (m : Master) (a : Nat) (v : Word) (row : RegRow)
    (hi : s.canIssue m = true) (hb : a < 0x100_0000_0000) (hu : s.up (a / 0x1_0000_0000) = true)
    (hw : 1 ≤ a / 0x1_0000_0000 → a / 0x1_0000_0000 ≤ 8 → s.inI4 (a / 0x1_0000_0000 - 1) = false)
    (hf : filePage (a - a % 0x1000) = none) (h8 : a % 8 = 0) (hc : regCopy a = 0)
    (hr : regRow a = some (row, false)) (hp : plainWritable row.fields = true)
    (hg : ∀ f ∈ row.fields, f.acc.gated (s.isPriv m) (s.isSecure m) = false) (x : Met)
    (hx : writeWord row.fields (s.isPriv m) (s.isSecure m) 0 (s.regOld a) v = x) :
    s.busWrite m a v = s.commit fun s => (s.regStore m a x.word x.pulse).answer .ok := by
  have hpl : regPlain a = a := by simp [regPlain, hc]
  have e1 : regSpace + a - regSpace = a := by omega
  have e2 : ¬ (regSpace + a < regSpace) := by omega
  have e3 : ¬ (0xF00_0000_0000 ≤ regSpace + a) := by simp only [regSpace]; omega
  have haw : (if (decide (1 ≤ a / 0x1_0000_0000) && decide (a / 0x1_0000_0000 ≤ 8) && !quietStore a (.store v)) = true
      then s.awake (a / 0x1_0000_0000 - 1) else s) = s := by
    split
    · rename_i h
      simp only [Bool.and_eq_true, decide_eq_true_eq] at h
      simp [State.awake, hw h.1.1 h.1.2]
    · rfl
  obtain ⟨p1, p2⟩ := writeWord_passes row.fields (s.isPriv m) (s.isSecure m) 0 (s.regOld a) v hg
  unfold State.busWrite State.busAccess
  rw [hx] at p1 p2
  have hbody : (if regSpace + a < regSpace ∨ 0xF00_0000_0000 ≤ regSpace + a ∨ (!s.canIssue m) = true then s.answer .refused
      else s.regAccess m (regSpace + a - regSpace) 8 (.store v)) = (s.regStore m a x.word x.pulse).answer .ok := by
    rw [if_neg (by simp [hi, e2, e3]), e1]
    simp only [State.regAccess, hu, hpl, hr, haw, hf, h8]
    simp [State.regWrite, hc, hp, State.violate, hx, p1, p2]
  simp only [State.commit, hbody]

/-- Sending and gating do not depend on what the model keeps for itself. -/
@[simp] theorem State.fresh_canIssue (s : State) (m : Master) : s.fresh.canIssue m = s.canIssue m := by cases m <;> rfl
@[simp] theorem State.fresh_isSecure (s : State) (m : Master) : s.fresh.isSecure m = s.isSecure m := by
  cases m <;> rfl
@[simp] theorem State.fresh_isPriv (s : State) (m : Master) : s.fresh.isPriv m = s.isPriv m := by
  cases m <;> rfl

/-- A store that reaches a register, as a command: `old` is what the store finds, `x` what it leaves and starts. -/
theorem State.run_busWrite (s : State) (m : Master) (a : Nat) (v : Word) (row : RegRow) (hp : passes s m a = true)
    (hb : a < 0x100_0000_0000) (hf : filePage (a - a % 0x1000) = none) (h8 : a % 8 = 0) (hc : regCopy a = 0)
    (hr : regRow a = some (row, false)) (hw : plainWritable row.fields = true) (x : Met)
    (hx : writeWord row.fields (s.isPriv m) (s.isSecure m) 0 (s.fresh.regOld a) v = x) (t : State)
    (ht : s.fresh.regStore m a x.word x.pulse = t) (hgo : t.hold = false) :
    s.run (fun s => s.busWrite m a v) = .next { t.answer .ok with pending := s.pending, hold := false } := by
  simp only [passes, hr, Bool.and_eq_true] at hp
  obtain ⟨⟨⟨p1, p2⟩, p3'⟩, p4'⟩ := hp
  have p3 : ∀ cd : Cd, a / 0x1_0000_0000 = cd.val + 1 → s.inI4 cd.val = false := by
    intro cd hcd
    have := List.all_eq_true.mp p3' cd.val (by simp [upTo])
    simpa [hcd] using this
  have p4 : ∀ f ∈ row.fields, f.acc.gated (s.isPriv m) (s.isSecure m) = false := by
    intro f hf
    simpa using List.all_eq_true.mp p4' f hf
  have key := State.busWrite_eq s.fresh m a v row (by simpa using p1) hb p2
    (fun h1 h2 => p3 ⟨a / 0x1_0000_0000 - 1, by omega⟩ (by show _ = a / 0x1_0000_0000 - 1 + 1; omega)) hf h8 hc hr hw
    (by simpa using p4) x (by simpa using hx)
  have h2 : (s.fresh.busWrite m a v).hold = false := by rw [key]; simp [State.commit, ht, hgo]
  rw [State.run_of_goes s _ h2, key]
  simp [State.commit, ht, hgo]

/-! ## What a write leaves in each field -/

/-- Two fields share no bit. -/
def Fld.apart (f g : Fld) : Prop := f.lo + f.w ≤ g.lo ∨ g.lo + g.w ≤ f.lo

theorem Fld.mask_bit (g : Fld) (i : Nat) (hi : i < 64) : g.mask.getLsbD i = decide (g.lo ≤ i ∧ i < g.lo + g.w) := by
  simp only [Fld.mask, Word.of, BitVec.getLsbD_ofNat, Nat.testBit_shiftLeft, hi, decide_true, Bool.true_and,
    Nat.testBit_two_pow_sub_one]
  by_cases h1 : g.lo ≤ i
  · by_cases h2 : i - g.lo < g.w
    · simp [h1, h2]; omega
    · simp [h1, h2]; omega
  · simp [h1]

/-- The bits of `v` under the mask of `g`, added to a word, as field `f` reads them. -/
theorem Fld.get_or_mask_ne (f g : Fld) (x v : Word) (h : f.apart g) : f.get (x ||| (v &&& g.mask)) = f.get x := by
  apply Nat.eq_of_testBit_eq
  intro i
  rw [Fld.get_testBit, Fld.get_testBit]
  by_cases hi : i < f.w
  · by_cases h64 : f.lo + i < 64
    · rw [BitVec.getLsbD_or, BitVec.getLsbD_and, Fld.mask_bit _ _ h64]
      have : ¬ (g.lo ≤ f.lo + i ∧ f.lo + i < g.lo + g.w) := by unfold Fld.apart at h; omega
      simp [this]
    · rw [BitVec.getLsbD_of_ge _ _ (by omega), BitVec.getLsbD_of_ge _ _ (by omega)]
  · simp [hi]

theorem Fld.get_or_mask (f : Fld) (x v : Word) (h : f.get x = 0) : f.get (x ||| (v &&& f.mask)) = f.get v := by
  apply Nat.eq_of_testBit_eq
  intro i
  have hx : (decide (i < f.w) && x.getLsbD (f.lo + i)) = false := by rw [← Fld.get_testBit, h]; simp
  rw [Fld.get_testBit, Fld.get_testBit]
  by_cases hi : i < f.w
  · by_cases h64 : f.lo + i < 64
    · rw [BitVec.getLsbD_or, BitVec.getLsbD_and, Fld.mask_bit _ _ h64]
      simp [hi] at hx ⊢
      simp [hx]
    · rw [BitVec.getLsbD_of_ge _ _ (by omega), BitVec.getLsbD_of_ge _ _ (by omega)]
  · simp [hi]

theorem Met.writeFld_ne (p q : Bool) (old v : Word) (x : Met) (f g : Fld) (h : f.apart g) :
    f.get (Met.writeFld p q 0 old v x g).word = f.get x.word ∧ f.get (Met.writeFld p q 0 old v x g).pulse = f.get x.pulse := by
  simp only [Met.writeFld]
  repeat' split
  all_goals first
    | exact ⟨rfl, rfl⟩
    | exact ⟨rfl, Fld.get_or_mask_ne f g _ _ h⟩
    | exact ⟨Fld.get_set_ne f g _ _ h, rfl⟩
    | (simp only [Met.breaks]; split <;> exact ⟨rfl, rfl⟩)

theorem writeFld_fold_ne (p q : Bool) (old v : Word) (f : Fld) (l : List Fld) (x : Met) (h : ∀ g ∈ l, f.apart g) :
    f.get (l.foldl (Met.writeFld p q 0 old v) x).word = f.get x.word
      ∧ f.get (l.foldl (Met.writeFld p q 0 old v) x).pulse = f.get x.pulse := by
  induction l generalizing x with
  | nil => exact ⟨rfl, rfl⟩
  | cons g l ih =>
    have h1 := Met.writeFld_ne p q old v x f g (h g (by simp))
    have h2 := ih (Met.writeFld p q 0 old v x g) (fun k hk => h k (List.mem_cons_of_mem _ hk))
    exact ⟨h2.1.trans h1.1, h2.2.trans h1.2⟩

theorem Fld.get_lt (f : Fld) (x : Word) : f.get x < 2 ^ f.w := Nat.mod_lt _ (Nat.two_pow_pos _)

/-- R12, R13: after a plain write that `f` does not gate, a field that writes set holds the value written, when that is
a legal encoding; a read-only field is as before; a W1P bit is started when it is written as 1. -/
theorem writeWord_get (fs : List Fld) (p q : Bool) (old v : Word) (f : Fld) (l1 l2 : List Fld) (hs : fs = l1 ++ f :: l2)
    (h1 : ∀ g ∈ l1, f.apart g) (h2 : ∀ g ∈ l2, f.apart g) (hw : f.lo + f.w ≤ 64) (hg : f.acc.gated p q = false) :
    f.get (writeWord fs p q 0 old v).word
        = (if f.acc.byWrite && f.legal (f.get v) then f.get v else f.get old)
      ∧ f.get (writeWord fs p q 0 old v).pulse = (if f.acc = .w1p then f.get v else 0) := by
  subst hs
  simp only [writeWord, List.foldl_append, List.foldl_cons]
  obtain ⟨a1, a2⟩ := writeFld_fold_ne p q old v f l1 { word := old } h1
  generalize l1.foldl (Met.writeFld p q 0 old v) { word := old } = x at a1 a2
  obtain ⟨b1, b2⟩ := writeFld_fold_ne p q old v f l2 (Met.writeFld p q 0 old v x f) h2
  rw [b1, b2]
  have z : f.get (0 : Word) = 0 := by simp [Fld.get, bits]
  have a2' : f.get x.pulse = 0 := a2.trans z
  simp only [Met.writeFld, hg, aliasValue]
  by_cases hp : f.acc = .w1p
  · simp only [hp, and_self, if_true, Acc.byWrite]
    exact ⟨by simpa using a1, Fld.get_or_mask f _ _ a2'⟩
  · have hb : (if (0 : Nat) = 0 then f.acc.byWrite else f.acc.byAlias) = f.acc.byWrite := rfl
    simp only [hp, and_false, if_false]
    cases hbw : f.acc.byWrite
    · simp only [Bool.not_false, if_true]
      exact ⟨by simpa using a1, a2'⟩
    · simp only [Bool.not_true, Bool.false_eq_true, if_false, Bool.true_and, if_true]
      refine ⟨?_, a2'⟩
      rw [Fld.get_set _ _ _ hw]
      split
      · exact Nat.mod_eq_of_lt (Fld.get_lt f v)
      · exact Nat.mod_eq_of_lt (Fld.get_lt f old)

end Sys2Proof.Machine
end

