-- ==== Sys2Proof/Laws/Lanes.lean ====
section
/-!
SUPPORT. What the lane registers of a group hold after writes of many lanes, and what issuing an instruction does
beside the instruction's own effect.
-/

namespace Sys2Proof.Machine

/-! ## Lane registers -/

theorem Group.lane_setLane (x : Group) (i r v j q : Nat) :
    (x.setLane i r v).lane j q = if j * 256 + q = i * 256 + r then BitVec.ofNat 32 v else x.lane j q :=
  Sparse.get_set _ _ _ _ _

theorem Group.lane_setLaneVal_other (x : Group) (i r : Nat) (wide : Bool) (v j q : Nat) (hq : q < 256) (hr : r + regSize wide ≤ 256)
    (h : ¬ (j = i ∧ laneHit r wide q)) : (x.setLaneVal i r wide v).lane j q = x.lane j q := by
  cases wide
  · have hr' : r + 1 ≤ 256 := hr
    have e : x.setLaneVal i r false v = x.setLane i r v := rfl
    rw [e, Group.lane_setLane, if_neg]
    intro e; exact h ⟨by omega, Or.inl (by omega)⟩
  · have hr' : r + 2 ≤ 256 := hr
    have e : x.setLaneVal i r true v = (x.setLane i r v).setLane i (r + 1) (v / 2 ^ 32) := rfl
    rw [e, Group.lane_setLane, Group.lane_setLane, if_neg, if_neg]
    · intro e; exact h ⟨by omega, Or.inl (by omega)⟩
    · intro e; exact h ⟨by omega, Or.inr ⟨rfl, by omega⟩⟩

theorem Group.laneVal_setLaneVal (x : Group) (i r : Nat) (wide : Bool) (v : Nat) :
    (x.setLaneVal i r wide v).laneVal i r wide = v % 2 ^ (if wide then 64 else 32) := by
  cases wide
  · simp [Group.setLaneVal, Group.laneVal, Group.lane_setLane]
  · simp [Group.setLaneVal, Group.laneVal, Group.lane_setLane]
    omega

theorem Group.laneVal_setLaneVal_other (x : Group) (i r : Nat) (wide : Bool) (v j q : Nat) (w2 : Bool)
    (hq : q + regSize w2 ≤ 256) (hr : r + regSize wide ≤ 256) (h : j ≠ i) :
    (x.setLaneVal i r wide v).laneVal j q w2 = x.laneVal j q w2 := by
  cases w2
  · have hq' : q + 1 ≤ 256 := hq
    have e : ∀ y : Group, y.laneVal j q false = (y.lane j q).toNat := fun _ => rfl
    rw [e, e, Group.lane_setLaneVal_other _ _ _ _ _ _ _ (by omega) hr (fun e => h e.1)]
  · have hq' : q + 2 ≤ 256 := hq
    have e : ∀ y : Group, y.laneVal j q true = (y.lane j q).toNat + (y.lane j (q + 1)).toNat * 2 ^ 32 := fun _ => rfl
    rw [e, e, Group.lane_setLaneVal_other _ _ _ _ _ _ _ (by omega) hr (fun e => h e.1),
      Group.lane_setLaneVal_other _ _ _ _ _ _ _ (by omega) hr (fun e => h e.1)]

/-- A value written to a register of every lane of a list. -/
def Group.fillLanes (x : Group) (ls : List Nat) (r : Nat) (wide : Bool) (v : Nat → Nat) : Group :=
  ls.foldl (fun (y : Group) l => y.setLaneVal l r wide (v l)) x

theorem Group.fillLanes_eq (x : Group) (ls : List Nat) (r : Nat) (wide : Bool) (v : Nat → Nat) :
    x.fillLanes ls r wide v = { x with lregs := (x.fillLanes ls r wide v).lregs } := by
  induction ls generalizing x with
  | nil => rfl
  | cons l ls ih =>
    have h1 : x.setLaneVal l r wide (v l) = { x with lregs := (x.setLaneVal l r wide (v l)).lregs } := by cases wide <;> rfl
    have h2 : x.fillLanes (l :: ls) r wide v = (x.setLaneVal l r wide (v l)).fillLanes ls r wide v := rfl
    rw [h2, ih, h1]

theorem Group.lane_fillLanes_other (x : Group) (ls : List Nat) (r : Nat) (wide : Bool) (v : Nat → Nat) (j q : Nat)
    (hq : q < 256) (hr : r + regSize wide ≤ 256) (h : ¬ (j ∈ ls ∧ laneHit r wide q)) :
    (x.fillLanes ls r wide v).lane j q = x.lane j q := by
  induction ls generalizing x with
  | nil => rfl
  | cons l ls ih =>
    have h2 : x.fillLanes (l :: ls) r wide v = (x.setLaneVal l r wide (v l)).fillLanes ls r wide v := rfl
    rw [h2, ih _ (fun e => h ⟨List.mem_cons_of_mem _ e.1, e.2⟩)]
    exact Group.lane_setLaneVal_other _ _ _ _ _ _ _ hq hr (fun e => h ⟨by simp [e.1], e.2⟩)

theorem Group.laneVal_fillLanes (x : Group) (ls : List Nat) (r : Nat) (wide : Bool) (v : Nat → Nat) (j : Nat)
    (hr : r + regSize wide ≤ 256) (hj : j ∈ ls) :
    (x.fillLanes ls r wide v).laneVal j r wide = v j % 2 ^ (if wide then 64 else 32) := by
  induction ls generalizing x with
  | nil => cases hj
  | cons l ls ih =>
    have h2 : x.fillLanes (l :: ls) r wide v = (x.setLaneVal l r wide (v l)).fillLanes ls r wide v := rfl
    rw [h2]
    by_cases hm : j ∈ ls
    · exact ih _ hm
    · have hl : j = l := by simpa [hm] using hj
      subst hl
      have : ∀ (y : Group) (w : Nat), w < 256 → (y.fillLanes ls r wide v).lane j w = y.lane j w :=
        fun y w hw => Group.lane_fillLanes_other y ls r wide v j w hw hr (fun e => hm e.1)
      rw [← Group.laneVal_setLaneVal x j r wide (v j)]
      cases wide
      · have hr' : r + 1 ≤ 256 := hr
        have e : ∀ y : Group, y.laneVal j r false = (y.lane j r).toNat := fun _ => rfl
        rw [e, e, this _ _ (by omega)]
      · have hr' : r + 2 ≤ 256 := hr
        have e : ∀ y : Group, y.laneVal j r true = (y.lane j r).toNat + (y.lane j (r + 1)).toNat * 2 ^ 32 := fun _ => rfl
        rw [e, e, this _ _ (by omega), this _ _ (by omega)]

theorem laneList_mem (w : Nat) (m : BitVec 64) (l : Nat) : l ∈ laneList w m ↔ l < w ∧ m.getLsbD l = true := by
  simp [laneList, upTo]

/-! ## Issue -/

theorem State.ready_running (s : State) (g : GroupRef) (h : s.ready g = true) :
    (s.grp g).resident = true ∧ (s.grp g).halt = none ∧ (s.grp g).wait = .none ∧ s.up (coreSite g.core.val) = true := by
  simp only [State.ready, Bool.and_eq_true, decide_eq_true_eq] at h
  exact ⟨h.1.1.1.1.1.1, h.1.1.1.1.1.2, h.1.1.1.1.2, h.1.1.2⟩

@[simp] theorem State.beats_grp (s : State) (c : Nat) (g : GroupRef) : (s.beats c).grp g = s.grp g := rfl

/-- A group that is ready issues an instruction that stores the group and nothing else. -/
theorem State.issue_setGrp (s : State) (g : GroupRef) (body : Group → State → State) (y : Group)
    (hr : s.ready g = true) (hh : s.hold = false)
    (hb : body (s.grp g) (s.beats g.core.val) = (s.beats g.core.val).setGrp g y)
    (h1 : y.halt = none) (h2 : y.wait ≠ .fault) :
    s.issue g body = (((s.beats g.core.val).setGrp g y).answer .ok).count (R.cntIssue g.core.val) F.cntIssue_issued 1 := by
  simp [State.issue, hr, hb, hh, h1, h2]

/-- The registers in which the issue of an instruction is counted stand apart. -/
theorem R.issue_apart (c : Nat) : R.cntIssue c ≠ R.nsBeats c ∧ R.cntIssue c ≠ R.cntStall c ∧ R.nsBeats c ≠ R.cntStall c := by
  simp only [R.cntIssue, R.nsBeats, R.cntStall]; omega

theorem State.grp_congr {s t : State} (h : s.cores = t.cores) (g : GroupRef) : s.grp g = t.grp g := by
  simp only [State.grp, State.core, h]

theorem State.core_congr {s t : State} (h : s.cores = t.cores) (c : Nat) : s.core c = t.core c := by
  simp only [State.core, h]

theorem State.reg_congr {s t : State} (h : s.regs = t.regs) (a : Nat) : s.reg a = t.reg a := by
  simp only [State.reg, h]

theorem State.fld_congr {s t : State} (h : s.regs = t.regs) (a : Nat) (f : Fld) : s.fld a f = t.fld a f := by
  simp only [State.fld, State.reg_congr h]

/-- What is left of a core beside its groups. -/
theorem State.core_setGrp (s : State) (g : GroupRef) (x : Group) (c : Nat) :
    ({ (s.setGrp g x).core c with groups := [] } : CoreSt) = { s.core c with groups := [] } := by
  simp only [State.setGrp, State.core_setCore]
  split
  · rename_i e; rw [e]
  · rfl

/-- What an instruction that stores its group and nothing else changes, as a command. -/
theorem State.run_setGrp (s : State) (g : GroupRef) (body : State → State) (y : Group)
    (hb : body s.fresh = (((s.fresh.beats g.core.val).setGrp g y).answer .ok).count
      (R.cntIssue g.core.val) F.cntIssue_issued 1) :
    ∃ t, s.run body = .next t ∧ t.resp.status = .ok ∧ t.grp g = y ∧ OnlyGroup g s t [] := by
  have hgo : (body s.fresh).hold = false := by rw [hb]; simp
  obtain ⟨hi1, hi2, hi3⟩ := R.issue_apart g.core.val
  refine ⟨_, State.run_of_goes s body hgo, ?_⟩
  generalize ht : ({ body s.fresh with pending := s.pending, hold := false } : State) = t
  let u : State := s.fresh.beats g.core.val
  have hc : t.cores = (u.setGrp g y).cores := by rw [← ht, hb]; simp [u]
  have hg : t.regs = ((u.count (R.cntIssue g.core.val) F.cntIssue_issued 1)).regs := by
    rw [← ht, hb]; rfl
  have hs : t.resp = ⟨.ok, []⟩ := by rw [← ht, hb]; simp [State.answer]
  have hr : ∀ a, u.reg a = if a = R.cntStall g.core.val then u.reg a else if a = R.nsBeats g.core.val then u.reg a else s.reg a := by
    intro a
    split
    · rfl
    · split
      · rfl
      · rename_i a2 a1
        exact (State.reg_count_ne _ _ _ _ _ a2).trans (State.reg_count_ne _ _ _ _ _ a1)
  refine ⟨by rw [hs], ?_, ?_, ?_, ?_, ?_, ?_⟩
  · rw [State.grp_congr hc]; exact State.grp_setGrp _ _ _
  · rw [← ht, hb]; simp
  · intro h hn; rw [State.grp_congr hc, State.grp_setGrp_ne _ _ _ _ hn]; rfl
  · intro c; rw [State.core_congr hc, State.core_setGrp]; rfl
  · intro a ha
    simp only [issueRegs, List.append_nil, List.mem_cons, List.not_mem_nil, or_false, not_or] at ha
    obtain ⟨a1, a2, a3⟩ := ha
    rw [State.reg_congr hg, State.reg_count_ne _ _ _ _ _ a3, hr, if_neg a2, if_neg a1]
  · rw [State.fld_congr hg]
    refine (State.fld_setFld u _ F.cntIssue_issued _ (by decide)).trans ?_
    have e : u.fld (R.cntIssue g.core.val) F.cntIssue_issued = s.fld (R.cntIssue g.core.val) F.cntIssue_issued := by
      simp only [State.fld]
      rw [hr, if_neg hi2, if_neg hi1]
    rw [e]; rfl

end Sys2Proof.Machine
end

