-- ==== Sys2Proof/Laws/Halts.lean ====
section
/-!
SUPPORT. What raising an interrupt source and halting a group can do, and the two ways an instruction that only touches
its own group ends.
-/

namespace Sys2Proof.Machine

/-! ## Interrupt sources -/

/-- R103: a source entry changes its control register and pending identities, and nothing else. -/
theorem State.msiEntry_frame (s : State) (addr ctrl : Nat) (e : Bool) :
    s.msiEntry addr ctrl e = { s with regs := (s.msiEntry addr ctrl e).regs, imsic := (s.msiEntry addr ctrl e).imsic }
      ∧ ∀ a, a ≠ ctrl → (s.msiEntry addr ctrl e).reg a = s.reg a := by
  simp only [State.msiEntry]
  split
  · split
    · refine ⟨?_, fun a ha => ?_⟩
      · simp only [State.setIp, State.setFld, State.setReg]; split <;> rfl
      · rw [State.reg_setFld_ne _ _ _ _ _ ha, State.reg_setFld_ne _ _ _ _ _ ha]
        simp only [State.setIp]; split <;> rfl
    · exact ⟨rfl, fun a ha => by rw [State.reg_setFld_ne _ _ _ _ _ ha, State.reg_setFld_ne _ _ _ _ _ ha]⟩
  · exact ⟨rfl, fun _ _ => rfl⟩

/-- R103: an interrupt source changes its control register and pending identities, and nothing else. -/
theorem State.raise_frame (s : State) (site i : Nat) :
    s.raise site i = { s with regs := (s.raise site i).regs, imsic := (s.raise site i).imsic }
      ∧ ∀ a, a ≠ R.msiCtrl site i → (s.raise site i).reg a = s.reg a := by
  simp only [State.raise]
  split
  · exact State.msiEntry_frame _ _ _ _
  · exact ⟨rfl, fun _ _ => rfl⟩

@[simp] theorem State.raise_cores (s : State) (site i : Nat) : (s.raise site i).cores = s.cores := by
  rw [(s.raise_frame site i).1]
@[simp] theorem State.raise_hold (s : State) (site i : Nat) : (s.raise site i).hold = s.hold := by
  rw [(s.raise_frame site i).1]
@[simp] theorem State.raise_grp (s : State) (site i : Nat) (g : GroupRef) : (s.raise site i).grp g = s.grp g :=
  State.grp_congr (by simp) g

/-- The counting registers of a core stand in its block, its interrupt source does not (R214). -/
theorem R.core_block (c : Nat) : (∀ a ∈ [R.nsBeats c, R.cntStall c, R.cntErr c, R.seqErr c],
    coreBase c ≤ a ∧ a < coreBase c + 0x1_0000) ∧ R.cntErr c ≠ R.nsBeats c ∧ R.cntErr c ≠ R.cntStall c
      ∧ R.seqErr c ≠ R.cntErr c ∧ R.cntErr c ≠ R.msiCtrl (coreSite c) (48 + coreK c) := by
  simp only [R.nsBeats, R.cntStall, R.cntErr, R.seqErr, R.msiCtrl, coreBase, cluBase, cdBase, coreSite, coreK,
    List.mem_cons, List.not_mem_nil, or_false]
  refine ⟨?_, ?_, ?_, ?_, ?_⟩
  · rintro a (h | h | h | h) <;> omega
  all_goals omega

/-! ## Error halts -/

/-- R211: the record of an error stands in SEQ_ERR. -/
theorem State.captureErr_frame (s : State) (g : GroupRef) (pc : BitVec 48) (code : Nat) :
    s.captureErr g pc code = { s with regs := (s.captureErr g pc code).regs }
      ∧ ∀ a, a ≠ R.seqErr g.core.val → (s.captureErr g pc code).reg a = s.reg a := by
  simp only [State.captureErr]
  split
  · exact ⟨rfl, fun a ha => State.reg_setFld_ne _ _ _ _ _ ha⟩
  · exact ⟨rfl, fun a ha => by rw [State.reg_setReg, if_neg ha]⟩

/-- R206: the state that an error halt of a group leaves. -/
theorem State.haltGroup_frame (s : State) (g : GroupRef) (code : HaltCode) :
    s.haltGroup g code = { s with cores := (s.haltGroup g code).cores, regs := (s.haltGroup g code).regs,
                                  imsic := (s.haltGroup g code).imsic }
      ∧ (s.haltGroup g code).cores
          = (s.setGrp g { s.grp g with halt := some (BitVec.ofNat 8 code.num), wait := .none }).cores
      ∧ (∀ a, a ≠ R.seqErr g.core.val → a ≠ R.cntErr g.core.val →
          a ≠ R.msiCtrl (coreSite g.core.val) (48 + coreK g.core.val) → (s.haltGroup g code).reg a = s.reg a)
      ∧ (s.haltGroup g code).fld (R.cntErr g.core.val) F.cntErr_errors
          = Nat.min (s.fld (R.cntErr g.core.val) F.cntErr_errors + 1) (2 ^ 32 - 1) := by
  have e : s.haltGroup g code = (((s.setGrp g { s.grp g with halt := some (BitVec.ofNat 8 code.num), wait := .none }).captureErr
      g (s.grp g).pc code.num).count (R.cntErr g.core.val) F.cntErr_errors 1).raise (coreSite g.core.val) (48 + coreK g.core.val) :=
    rfl
  rw [e]
  generalize hu : s.setGrp g { s.grp g with halt := some (BitVec.ofNat 8 code.num), wait := .none } = u
  obtain ⟨c1, c2⟩ := u.captureErr_frame g (s.grp g).pc code.num
  generalize hv : u.captureErr g (s.grp g).pc code.num = v at c1 c2
  obtain ⟨r1, r2⟩ := (v.count (R.cntErr g.core.val) F.cntErr_errors 1).raise_frame (coreSite g.core.val) (48 + coreK g.core.val)
  obtain ⟨-, -, -, b4, b5⟩ := R.core_block g.core.val
  refine ⟨?_, ?_, ?_, ?_⟩
  · rw [r1]
    have : v.count (R.cntErr g.core.val) F.cntErr_errors 1
        = { v with regs := (v.count (R.cntErr g.core.val) F.cntErr_errors 1).regs } := rfl
    rw [this, c1, ← hu]
    rfl
  · rw [State.raise_cores, State.count_cores, c1]
  · intro a h1 h2 h3
    rw [r2 a h3, State.reg_count_ne _ _ _ _ _ h2, c2 a h1, ← hu]
    rfl
  · have e1 : u.reg (R.cntErr g.core.val) = s.reg (R.cntErr g.core.val) := by rw [← hu]; rfl
    have e2 : v.fld (R.cntErr g.core.val) F.cntErr_errors = s.fld (R.cntErr g.core.val) F.cntErr_errors := by
      simp only [State.fld]; rw [c2 _ (Ne.symm b4), e1]
    have e3 := State.fld_setFld v (R.cntErr g.core.val) F.cntErr_errors
      (min (v.fld (R.cntErr g.core.val) F.cntErr_errors + 1) (2 ^ 32 - 1)) (by decide)
    rw [e2] at e3
    have e4 : (v.count (R.cntErr g.core.val) F.cntErr_errors 1).fld (R.cntErr g.core.val) F.cntErr_errors
        = (v.setFld (R.cntErr g.core.val) F.cntErr_errors (min (s.fld (R.cntErr g.core.val) F.cntErr_errors + 1) (2 ^ 32 - 1))).fld
            (R.cntErr g.core.val) F.cntErr_errors := by
      rw [← e2]; rfl
    have e5 : ∀ w : State, w.fld (R.cntErr g.core.val) F.cntErr_errors = F.cntErr_errors.get (w.reg (R.cntErr g.core.val)) :=
      fun _ => rfl
    rw [e5, r2 _ b5, ← e5, e4, e3]
    exact Nat.mod_eq_of_lt (Nat.lt_of_le_of_lt (Nat.min_le_right _ _) (by decide))

/-! ## Instructions that touch their group alone -/

/-- A group that is ready runs an instruction that stores the group and nothing else. -/
theorem State.run_issue_setGrp (s : State) (g : GroupRef) (body : Group → State → State) (y : Group)
    (hr : s.ready g = true)
    (hb : body (s.grp g) (s.fresh.beats g.core.val) = (s.fresh.beats g.core.val).setGrp g y)
    (h1 : y.halt = none) (h2 : y.wait ≠ .fault) :
    ∃ t, (s.run fun s => s.issue g body) = .next t ∧ t.resp.status = .ok ∧ t.grp g = y ∧ OnlyGroup g s t [] :=
  State.run_setGrp s g _ y (State.issue_setGrp s.fresh g body y hr rfl hb h1 h2)

/-- R213, R309: the beats between two issues change two counts and the free values, and nothing else. -/
theorem State.beats_frame (s : State) (c : Nat) :
    s.beats c = { s with regs := (s.beats c).regs, drawn := (s.beats c).drawn }
      ∧ ∀ a, a ≠ R.nsBeats c → a ≠ R.cntStall c → (s.beats c).reg a = s.reg a :=
  by
  have h : ∀ (u : State) a f n b g m, (u.count a f n).count b g m = { u with regs := ((u.count a f n).count b g m).regs } :=
    fun u a f n b g m => rfl
  have e : s.beats c = (s.draw.draw.count (R.nsBeats c) F.nsBeats_beats s.free).count (R.cntStall c) F.cntStall_stallBeats
      s.draw.free := rfl
  rw [e]
  refine ⟨h _ _ _ _ _ _ _, fun a h1 h2 => ?_⟩
  rw [State.reg_count_ne _ _ _ _ _ h2, State.reg_count_ne _ _ _ _ _ h1]
  rfl

/-- An issue whose instruction halts the group. -/
theorem State.issue_halts (s : State) (g : GroupRef) (body : Group → State → State) (w u : State)
    (hr : s.ready g = true) (hw : s.beats g.core.val = w) (hb : body (w.grp g) w = u)
    (hold : u.hold = false) (hy : (u.grp g).halt ≠ none) : s.issue g body = u.answer .ok := by
  have h1 : s.issue g body = (if u.hold then s.answer .held
      else if decide ((u.grp g).halt ≠ none) || decide ((u.grp g).wait = .fault) then u.answer .ok
      else (u.answer .ok).count (R.cntIssue g.core.val) F.cntIssue_issued 1) := by
    subst hw hb
    simp only [State.issue, hr, if_true]
  rw [h1]
  simp [hold, hy]

/-- What a command that halts a group does, of its halt. -/
theorem State.run_halts (s : State) (g : GroupRef) (body : State → State) (w u : State) (code : HaltCode)
    (hw : w = { s with regs := w.regs, drawn := w.drawn, hold := false })
    (hwr : ∀ a, a ≠ R.nsBeats g.core.val → a ≠ R.cntStall g.core.val → w.reg a = s.reg a)
    (hu : w.haltGroup g code = u) (hb : body s.fresh = u.answer .ok) :
    ∃ t, s.run body = .next t ∧ t.resp.status = .ok ∧ Halts g s t (BitVec.ofNat 8 code.num) := by
  obtain ⟨hb1, hb2, hb3, hb4, hb5⟩ := R.core_block g.core.val
  obtain ⟨f1, f2, f3, f4⟩ := w.haltGroup_frame g code
  rw [hu] at f1 f2 f3 f4
  have hold : u.hold = false := by rw [f1, hw]
  have hgo : (body s.fresh).hold = false := by rw [hb]; simp [hold]
  refine ⟨_, State.run_of_goes s _ hgo, ?_⟩
  generalize ht : ({ body s.fresh with pending := s.pending, hold := false } : State) = t
  have hwc : w.cores = s.cores := by rw [hw]
  have hs : t.resp = ⟨.ok, []⟩ := by rw [← ht, hb]; simp [State.answer]
  have hc : t.cores = u.cores := by rw [← ht, hb]; simp
  have hg : t.regs = u.regs := by rw [← ht, hb]; simp
  have hgrp : w.grp g = s.grp g := State.grp_congr hwc g
  rw [hgrp] at f2
  rw [← hc] at f2
  refine ⟨by rw [hs], ?_, ⟨?_, ?_, ?_, ?_⟩, ?_⟩
  · rw [State.grp_congr f2, State.grp_setGrp]
  · rw [← ht, hb, f1, hw]; simp
  · intro h hn; rw [State.grp_congr f2, State.grp_setGrp_ne _ _ _ _ hn]; exact State.grp_congr hwc h
  · intro c
    have h1 := State.core_setGrp w g { s.grp g with halt := some (BitVec.ofNat 8 code.num), wait := .none } c
    rw [← State.core_congr f2, State.core_congr hwc] at h1
    have h3 : (s.core c).halted = (t.core c).halted := (congrArg CoreSt.halted h1).symm
    rw [h3, h1]
  · intro a h1 h2
    have hin : ∀ b ∈ [R.nsBeats g.core.val, R.cntStall g.core.val, R.cntErr g.core.val, R.seqErr g.core.val], a ≠ b :=
      fun b hb e => h1 (e ▸ hb1 b hb)
    rw [State.reg_congr hg, f3 a (hin _ (by simp)) (hin _ (by simp)) h2]
    exact hwr a (hin _ (by simp)) (hin _ (by simp))
  · rw [State.fld_congr hg, f4]
    simp only [State.fld]
    rw [hwr _ hb2 hb3]

/-- A group that is ready and whose instruction halts it. -/
theorem State.run_issue_halts (s : State) (g : GroupRef) (body : Group → State → State) (code : HaltCode)
    (hr : s.ready g = true)
    (hb : body (s.grp g) (s.fresh.beats g.core.val) = (s.fresh.beats g.core.val).haltGroup g code) :
    ∃ t, (s.run fun s => s.issue g body) = .next t ∧ t.resp.status = .ok ∧ Halts g s t (BitVec.ofNat 8 code.num) := by
  obtain ⟨w1, w2⟩ := s.fresh.beats_frame g.core.val
  generalize hw : s.fresh.beats g.core.val = w at w1 w2 hb
  obtain ⟨f1, f2, f3, f4⟩ := w.haltGroup_frame g code
  refine State.run_halts s g _ w (w.haltGroup g code) code w1 w2 rfl ?_
  refine State.issue_halts s.fresh g body w _ hr hw ?_ ?_ ?_
  · rw [← hb]
    have : w.grp g = s.grp g := State.grp_congr (by rw [w1]; rfl) g
    rw [this]
  · rw [f1, w1]; rfl
  · rw [State.grp_congr f2]; simp

end Sys2Proof.Machine
end

