-- ==== Sys2Proof/Laws/Memory.lean ====
section
/-!
SUPPORT. The laws of the memories: what a read of bytes gives after a write of bytes, and that every operation that writes
or drops bytes keeps the canonical form (`Memory.wf`), which the reset state has.
-/

namespace Sys2Proof.Machine

/-! ## Bytes of a sparse array -/

/-- One byte after a write of `n` bytes at `a`. -/
theorem putLE_get (m : Sparse Byte) (a n v k : Nat) :
    Sparse.get (fun _ => 0) (putLE m a n v) k
      = if a ≤ k ∧ k < a + n then BitVec.ofNat 8 (v / 256 ^ (k - a)) else Sparse.get (fun _ => 0) m k := by
  induction n generalizing m a v with
  | zero =>
    have h : ¬ (a ≤ k ∧ k < a + 0) := by omega
    simp only [putLE, if_neg h]
  | succ n ih =>
    simp only [putLE]
    rw [ih, Sparse.get_set]
    by_cases hk : k = a
    · subst hk
      rw [if_neg (by omega), if_pos rfl, if_pos (by omega)]
      simp
    · by_cases h : a + 1 ≤ k ∧ k < a + 1 + n
      · rw [if_pos h, if_pos (by omega)]
        have e : k - a = (k - (a + 1)) + 1 := by omega
        rw [e, Nat.pow_succ, Nat.div_div_eq_div_mul, Nat.mul_comm 256]
      · rw [if_neg h, if_neg hk, if_neg (by omega)]

/-- A byte outside the written ones reads as before. -/
theorem putLE_get_other (m : Sparse Byte) (a n v k : Nat) (h : k < a ∨ a + n ≤ k) :
    Sparse.get (fun _ => 0) (putLE m a n v) k = Sparse.get (fun _ => 0) m k := by
  rw [putLE_get, if_neg (by omega)]

/-- A write of bytes keeps the canonical form. -/
theorem putLE_wf (m : Sparse Byte) (a n v : Nat) (h : Sparse.wf (fun _ => 0) m = true) :
    Sparse.wf (fun _ => 0) (putLE m a n v) = true := by
  induction n generalizing m a v with
  | zero => exact h
  | succ n ih => exact ih _ _ _ (Sparse.wf_set _ _ _ _ h)

/-- Bytes read back from where they were written. -/
theorem bytesLE_putLE (m : Sparse Byte) (a n v : Nat) : bytesLE (putLE m a n v) a n = v % 256 ^ n := by
  have low : ∀ (n : Nat) (m : Sparse Byte) (a v : Nat),
      (∀ k, a ≤ k → k < a + n → Sparse.get (fun _ => 0) m k = BitVec.ofNat 8 (v / 256 ^ (k - a))) →
      bytesLE m a n = v % 256 ^ n := by
    intro n
    induction n with
    | zero => intro m a v _; simp [bytesLE, Nat.mod_one]
    | succ n ih =>
      intro m a v h
      have h0 := h a (by omega) (by omega)
      simp only [Nat.sub_self, Nat.pow_zero, Nat.div_one] at h0
      have hr := ih m (a + 1) (v / 256) (by
        intro k h1 h2
        rw [h k (by omega) (by omega), Nat.div_div_eq_div_mul]
        have e : k - a = (k - (a + 1)) + 1 := by omega
        rw [e, Nat.pow_succ, Nat.mul_comm 256])
      simp only [bytesLE, h0, hr, BitVec.toNat_ofNat, show (2 : Nat) ^ 8 = 256 from rfl]
      rw [Nat.pow_succ, Nat.mul_comm (256 ^ n) 256, Nat.mod_mul]
  refine low n _ a v (fun k h1 h2 => ?_)
  rw [putLE_get, if_pos ⟨h1, h2⟩]

/-! ## Canonical form of the two memories -/

theorem Memory.wf_iff (s : State) : Memory.wf s = true ↔
    Sparse.wf (fun _ => (0 : Byte)) s.dram = true ∧ Sparse.wf (fun _ => (0 : Byte)) s.tile = true := by
  simp only [Memory.wf, Bool.and_eq_true]

/-- What leaves both memories alone keeps the form. -/
theorem Memory.wf_congr {s t : State} (hd : t.dram = s.dram) (ht : t.tile = s.tile) (h : Memory.wf s = true) :
    Memory.wf t = true := by
  rw [Memory.wf_iff] at h ⊢
  rw [hd, ht]; exact h

/-- The reset state has the form. -/
theorem Memory.wf_reset : Memory.wf State.reset = true := rfl

/-- A write of a codeword keeps the form. -/
theorem State.cwStore_wf (s : State) (pa v : Nat) (h : Memory.wf s = true) : Memory.wf (s.cwStore pa v) = true := by
  rw [Memory.wf_iff] at h ⊢
  exact ⟨putLE_wf _ _ _ _ h.1, h.2⟩

theorem State.mirSend_wf (s : State) (r : TwnRec) (h : Memory.wf s = true) : Memory.wf (s.mirSend r) = true := h

theorem State.mirWord_wf (s : State) (pa v : Nat) (p : Bool) (h : Memory.wf s = true) :
    Memory.wf (s.mirWord pa v p) = true := by
  unfold State.mirWord; split <;> exact h

/-- The journal's records of zeroed regions touch no memory. -/
theorem State.mirZeros_mem (s : State) (lo hi : Nat) :
    (s.mirZeros lo hi).dram = s.dram ∧ (s.mirZeros lo hi).tile = s.tile := by
  unfold State.mirZeros
  generalize upTo 8 = l
  induction l generalizing s with
  | nil => exact ⟨rfl, rfl⟩
  | cons i l ih =>
    simp only [List.foldl_cons]
    split
    · exact ih _
    · exact ih s

/-- The end of a zeroization keeps the form. -/
theorem State.zeroApply_wf (s : State) (z : ZeroRun) (h : Memory.wf s = true) : Memory.wf (s.zeroApply z) = true := by
  unfold State.zeroApply
  refine Memory.wf_congr (State.mirZeros_mem _ z.lo z.hi).1 (State.mirZeros_mem _ z.lo z.hi).2 ?_
  rw [Memory.wf_iff] at h ⊢
  exact ⟨Sparse.wf_filter _ _ _ h.1, h.2⟩

/-- A write to a line of tile memory keeps the form. -/
theorem State.tilePut_wf (s : State) (pa : Nat) (l : Line) (en : Nat) (h : Memory.wf s = true) :
    Memory.wf (s.tilePut pa l en) = true := by
  rw [Memory.wf_iff] at h ⊢
  unfold State.tilePut
  dsimp only
  exact ⟨h.1, putLE_wf _ _ _ _ h.2⟩

/-- Dropping the tile memory of a cluster keeps the form. -/
theorem State.tileClear_wf (s : State) (cl : Nat) (h : Memory.wf s = true) : Memory.wf (s.tileClear cl) = true := by
  rw [Memory.wf_iff] at h ⊢
  unfold State.tileClear
  exact ⟨h.1, Sparse.wf_filter _ _ _ h.2⟩

/-- Dropping every cache and all tile memory keeps the form. -/
theorem State.zeroArrays_wf (s : State) (h : Memory.wf s = true) : Memory.wf s.zeroArrays = true := by
  rw [Memory.wf_iff] at h ⊢
  exact ⟨h.1, rfl⟩

/-! ## Bytes that nothing fixes -/

theorem State.mem_freeBytes (s : State) (base n : Nat) (e : Nat × Byte) (h : e ∈ s.freeBytes base n) :
    base ≤ e.1 ∧ e.1 < base + n := by
  unfold State.freeBytes upTo at h
  obtain ⟨i, hi, he⟩ := List.mem_filterMap.mp h
  have hi := List.mem_range.mp hi
  dsimp only at he
  split at he
  · cases he
  · cases he; constructor <;> dsimp only <;> omega

/-- Two arrays in canonical form, every index of the first below every index of the second, are one in that form. -/
theorem Sparse.wf_append {α : Type} [DecidableEq α] (d : Nat → α) (m n : Sparse α) (hm : Sparse.wf d m = true)
    (hn : Sparse.wf d n = true) (h : ∀ a ∈ m, ∀ b ∈ n, a.1 < b.1) : Sparse.wf d (m ++ n) = true := by
  induction m with
  | nil => exact hn
  | cons e m ih =>
    obtain ⟨i, w⟩ := e
    obtain ⟨hw, ha, hr⟩ := (Sparse.wf_cons d i w m).mp hm
    refine (Sparse.wf_cons d i w (m ++ n)).mpr ⟨hw, ?_, ih hr (fun a ha b hb => h a (List.mem_cons_of_mem _ ha) b hb)⟩
    intro e he
    rcases List.mem_append.mp he with he | he
    · exact ha e he
    · exact h (i, w) (List.mem_cons_self ..) e he

theorem State.freeBytes_wf (s : State) (base n : Nat) : Sparse.wf (fun _ => (0 : Byte)) (s.freeBytes base n) = true := by
  have step : ∀ n, s.freeBytes base (n + 1) = s.freeBytes base n
      ++ (let b : Byte := BitVec.ofNat 8 (Config.free (s.drawn + n)); if b = 0 then [] else [(base + n, b)]) := by
    intro n
    unfold State.freeBytes upTo
    rw [List.range_succ, List.filterMap_append]
    congr 1
    simp only [List.filterMap_cons, List.filterMap_nil]
    split <;> rename_i h
    · split at h
      · rename_i hb; simp [hb]
      · cases h
    · split at h
      · cases h
      · rename_i hb; cases h; exact (if_neg hb).symm
  induction n with
  | zero => rfl
  | succ n ih =>
    rw [step]
    refine Sparse.wf_append _ _ _ ih ?_ ?_
    · dsimp only
      split
      · rfl
      · rename_i hb
        exact (Sparse.wf_cons _ _ _ _).mpr ⟨hb, fun e he => (List.not_mem_nil he).elim, rfl⟩
    · intro a ha b hb
      have h1 := (State.mem_freeBytes s base n a ha).2
      dsimp only at hb
      split at hb
      · cases hb
      · simp only [List.mem_singleton] at hb
        subst hb; exact h1

/-- Free bytes put into a gap of an array keep the form. -/
theorem State.fillGap_wf (s : State) (m : Sparse Byte) (base n size : Nat) (hm : Sparse.wf (fun _ => (0 : Byte)) m = true)
    (hn : n ≤ size) (hout : ∀ e ∈ m, e.1 < base ∨ base + size ≤ e.1) :
    Sparse.wf (fun _ => (0 : Byte)) (m.filter (fun e => decide (e.1 < base)) ++ s.freeBytes base n
      ++ m.filter (fun e => decide (base ≤ e.1))) = true := by
  refine Sparse.wf_append _ _ _ (Sparse.wf_append _ _ _ (Sparse.wf_filter _ _ _ hm) (State.freeBytes_wf _ _ _) ?_)
    (Sparse.wf_filter _ _ _ hm) ?_
  · intro a ha b hb
    have h1 := of_decide_eq_true (List.mem_filter.mp ha).2
    have h2 := (State.mem_freeBytes _ _ _ b hb).1
    omega
  · intro a ha b hb
    have h2 := of_decide_eq_true (List.mem_filter.mp hb).2
    have h3 := hout b (List.mem_filter.mp hb).1
    rcases List.mem_append.mp ha with ha | ha
    · have h1 := of_decide_eq_true (List.mem_filter.mp ha).2
      omega
    · have h1 := (State.mem_freeBytes _ _ _ a ha).2
      omega

/-- The tile memory of a cluster is within its window (R453). -/
theorem State.tileSize_le (s : State) (cl : Nat) : s.tileSize cl ≤ 2 ^ 24 := by
  have hf : s.fld (R.l2Ctrl cl) F.l2Ctrl_tilePairs < 2 ^ F.l2Ctrl_tilePairs.w := Nat.mod_lt _ (Nat.two_pow_pos _)
  have hw : F.l2Ctrl_tilePairs.w = 3 := rfl
  rw [hw] at hf
  unfold State.tileSize
  omega

theorem State.tileClear_out (s : State) (cl : Nat) (e : Nat × Byte) (h : e ∈ (s.tileClear cl).tile) :
    e.1 < (cl / 8 + 1) * 2 ^ 32 + cl % 8 * 2 ^ 24 ∨ (cl / 8 + 1) * 2 ^ 32 + cl % 8 * 2 ^ 24 + 2 ^ 24 ≤ e.1 := by
  unfold State.tileClear at h
  dsimp only at h
  have := (List.mem_filter.mp h).2
  simpa only [Bool.or_eq_true, decide_eq_true_eq] using this

/-- A cluster that loses its tile memory keeps the form. -/
theorem State.clusterLose_wf (s : State) (cl : Nat) (h : Memory.wf s = true) : Memory.wf (s.clusterLose cl) = true := by
  have hc := (Memory.wf_iff _).mp (State.tileClear_wf s cl h)
  have hw := State.fillGap_wf (s.tileClear cl) _ _ _ _ hc.2 (State.tileSize_le s cl) (State.tileClear_out s cl)
  unfold State.clusterLose
  dsimp only [State.drawN, State.clearHolder]
  rw [Memory.wf_iff]
  exact ⟨hc.1, hw⟩

end Sys2Proof.Machine
end

