-- ==== Sys2Proof/Laws/Saves.lean ====
section
/-!
SUPPORT. Shedding load, snapshots, audit entries and saves of state take place at once: none of them makes a command wait.
-/

namespace Sys2Proof.Machine

theorem State.fold_hold {α : Type} {f : State → α → State} (h : ∀ t x, (f t x).hold = t.hold) :
    ∀ (l : List α) (s : State), (l.foldl f s).hold = s.hold
  | [], _ => rfl
  | x :: l, s => by rw [List.foldl_cons, State.fold_hold h l, h]

theorem State.mirZeros_hold (s : State) (lo hi : Nat) : (s.mirZeros lo hi).hold = s.hold := by
  unfold State.mirZeros
  generalize upTo 8 = l
  refine State.fold_hold (fun t i => ?_) l s
  dsimp only
  split
  · rfl
  · rfl

theorem State.zeroApply_hold (s : State) (z : ZeroRun) : (s.zeroApply z).hold = s.hold := by
  unfold State.zeroApply
  exact State.mirZeros_hold _ _ _

theorem State.haltCore_hold (s : State) (c : Nat) (n : BitVec 2) : (s.haltCore c n).hold = s.hold := by
  unfold State.haltCore
  dsimp only
  split
  · rfl
  · rfl

theorem State.haltAll_hold (s : State) : s.haltAll.hold = s.hold := by
  unfold State.haltAll
  generalize upTo 1024 = l
  refine State.fold_hold (fun t c => ?_) l s
  split
  · exact State.haltCore_hold _ _ _
  · rfl

theorem State.sePause_hold (s : State) (e : SeRef) : (s.sePause e).hold = s.hold := by
  simp only [State.sePause, State.putSe, State.seShow, State.setFld_hold]
  rfl

theorem State.pauseEngines_hold (s : State) : s.pauseEngines.hold = s.hold := by
  unfold State.pauseEngines
  generalize upTo 136 = l
  refine State.fold_hold (fun t c => ?_) l s
  split
  · exact State.sePause_hold _ _
  · rfl

theorem State.ringShow_hold (s : State) (r : Nat) : (s.ringShow r).hold = s.hold := by
  simp only [State.ringShow, State.setFld_hold]

theorem State.pauseRings_hold (s : State) : s.pauseRings.hold = s.hold := by
  unfold State.pauseRings
  generalize upTo 64 = l
  exact State.fold_hold (fun t c => by simp only [State.ringShow_hold, State.setFld_hold]) l s

theorem State.zeroStop_hold (s : State) (n : Nat) : (s.zeroStop n).hold = s.hold := by
  unfold State.zeroStop
  split
  · rfl
  · dsimp only
    rw [State.setReg_hold, State.zeroApply_hold]
    exact State.draw_hold s

theorem State.shed_hold (s : State) : s.shed.hold = s.hold := by
  have e : s.shed = (upTo 8).foldl (fun (t : State) n => t.zeroStop n) s.haltAll.pauseEngines.pauseRings := rfl
  rw [e, State.fold_hold State.zeroStop_hold, State.pauseRings_hold, State.pauseEngines_hold, State.haltAll_hold]

theorem State.snapCheck_hold (s : State) : s.snapCheck.hold = s.hold := by
  unfold State.snapCheck
  split
  · rfl
  · dsimp only
    split
    · dsimp only
      rw [State.setFld_hold]
    · rfl

theorem State.snapBegin_hold (s : State) (d t : Nat) (pkg : Bool) : (s.snapBegin d t pkg).hold = s.hold := by
  unfold State.snapBegin
  dsimp only
  rw [State.setFld_hold]

theorem snapArrival_hold (d : Nat) (s : State) : (snapArrival d s).hold = s.hold := by
  unfold snapArrival
  split
  · rfl
  · rename_i p _
    split
    · rfl
    · generalize List.filter (fun x => decide (x ≠ d)) p.coming = l
      dsimp only
      split
      · rw [State.answer_hold]
        dsimp only
        rw [State.snapBegin_hold]
      · rw [State.answer_hold, State.snapCheck_hold]

theorem State.setRegs_hold (l : List (Nat × Word)) (k : Nat) (s : State) :
    (l.foldl (fun (t : State) e => t.setReg (e.1 + k) e.2) s).hold = s.hold := State.fold_hold (fun t e => State.setReg_hold t (e.1 + k) e.2) l s

theorem State.setRes_hold (l m : List Nat) (v s : State) :
    (l.foldl (fun (t : State) cd => m.foldl (fun (t : State) st =>
      t.setReg (R.idleRes cd st + 0x2000) (Word.of (v.residency cd st))) t) s).hold = s.hold :=
  State.fold_hold (fun t cd => State.fold_hold (fun u st => State.setReg_hold u _ (Word.of (v.residency cd st))) m t) l s

theorem State.snapCopy_hold (s : State) (d : Nat) : (s.snapCopy d).hold = s.hold := by
  let s1 : State := { s with regs := s.regs.filter (fun e => !(decide (e.1 / 0x1_0000_0000 = d) && isHold e.1)) }
  let s2 := (s.regs.filter (fun e => decide (e.1 / 0x1_0000_0000 = d) && isCounter e.1)).foldl
    (fun (t : State) e => t.setReg (e.1 + 0x2000) e.2) s1
  let s3 := (upTo 8).foldl (fun (t : State) cd => (upTo 5).foldl (fun (t : State) st =>
      t.setReg (R.idleRes cd st + 0x2000) (Word.of (s.residency cd st))) t) s2
  have e : s.snapCopy d = if d = 0 then (s3.setReg (R.pwrCntEnergy + 0x2000) (Word.of s3.free)).draw else s2 := rfl
  have h2 : s2.hold = s.hold := State.setRegs_hold _ _ _
  have h3 : s3.hold = s2.hold := State.setRes_hold _ _ _ _
  rw [e]
  split
  · rw [State.draw_hold, State.setReg_hold, h3, h2]
  · exact h2

theorem State.snapRun_hold (s : State) (d : Nat) : (s.snapRun d).hold = s.hold := by
  unfold State.snapRun
  dsimp only
  generalize hs : State.raise _ _ _ = u
  have h : u.hold = s.hold := by
    rw [← hs, State.raise_hold]
    dsimp only
    rw [State.setFld_hold, State.setFld_hold, State.setFld_hold, State.snapCopy_hold, State.until_hold]
  split
  · split
    · rw [State.snapCheck_hold]
      exact h
    · exact h
  · exact h

theorem State.takeAll_hold (s : State) : s.takeAll.hold = s.hold := by
  unfold State.takeAll
  dsimp only
  split
  · rfl
  · rw [State.snapBegin_hold]

/-- Every die in service whose snapshot is due carries it through. -/
def State.snapDue (s : State) : State :=
  (upTo 11).foldl (fun (t : State) d => if t.up d ∧ t.flag (R.snapCtrl d) F.snapCtrl_busy then t.snapRun d else t) s

theorem State.snapDue_hold (s : State) : s.snapDue.hold = s.hold := by
  have h : ∀ (t : State) (d : Nat), (if t.up d ∧ t.flag (R.snapCtrl d) F.snapCtrl_busy then t.snapRun d else t).hold = t.hold := by
    intro t d
    split
    · exact State.snapRun_hold t d
    · rfl
  exact State.fold_hold h (upTo 11) s

theorem State.snapAll_hold (s : State) : s.snapAll.hold = s.hold := by
  have e : s.snapAll = ((upTo 11).foldl (fun (t : State) d => if d ≠ 0 then snapArrival d t else t) s.snapDue.takeAll).snapDue := rfl
  have h : ∀ (t : State) (d : Nat), (if d ≠ 0 then snapArrival d t else t).hold = t.hold := by
    intro t d
    split
    · exact snapArrival_hold d t
    · rfl
  rw [e, State.snapDue_hold, State.fold_hold h, State.takeAll_hold, State.snapDue_hold]

theorem State.setMeas_hold (s : State) (m : Nat) (x : List Byte) : (s.setMeas m x).hold = s.hold := by
  unfold State.setMeas
  generalize upTo 6 = l
  exact State.fold_hold (fun t i => State.setReg_hold _ _ _) l s

theorem State.logPut_hold (s : State) (o : LogOpen) : (s.logPut o).hold = s.hold := by
  unfold State.logPut
  dsimp only
  rw [State.setMeas_hold]

theorem State.logStore_hold (s : State) : s.logStore.hold = s.hold := by
  unfold State.logStore
  dsimp only
  split
  · rw [State.fold_hold State.logPut_hold]
  · rfl

theorem State.rasPut_hold (s : State) (d : Detection) (q : Option Nat) : (s.rasPut d q).hold = s.hold := by
  unfold State.rasPut State.rasInterrupt
  dsimp only
  rw [State.raise_hold, State.setFld_hold]

theorem State.rasAdmit_hold (s : State) (d : Detection) (c : Bool) : (s.rasAdmit d c).hold = s.hold := by
  unfold State.rasAdmit
  split
  · exact State.rasPut_hold _ _ _
  · dsimp only
    split
    · exact State.rasPut_hold _ _ _
    · split
      · rfl
      · split
        · exact State.rasPut_hold _ _ _
        · split
          · rw [State.count_hold, State.rasPut_hold]
          · rfl

theorem State.rasWrite_hold (s : State) (d : Detection) : (s.rasWrite d).hold = s.hold := by
  unfold State.rasWrite
  dsimp only
  split
  · split
    · rfl
    · exact State.rasAdmit_hold _ _ _
  · exact State.rasAdmit_hold _ _ _

theorem State.foldFst_hold {α β : Type} {f : State × β → α → State × β} (h : ∀ t x, (f t x).1.hold = t.1.hold) :
    ∀ (l : List α) (s : State × β), (l.foldl f s).1.hold = s.1.hold
  | [], _ => rfl
  | x :: l, s => by rw [List.foldl_cons, State.foldFst_hold h l, h]

theorem State.saveRange_hold (s : State) (pa len : Nat) : (s.saveRange pa len).1.hold = s.hold := by
  unfold State.saveRange
  rw [State.foldFst_hold]
  intro u i
  dsimp only
  split
  · exact State.rasWrite_hold _ _
  · rfl

theorem State.saveItems_hold (s : State) : (s.saveItems).1.hold = s.hold := by
  unfold State.saveItems
  dsimp only
  rw [State.foldFst_hold]
  intro t x
  dsimp only
  exact State.saveRange_hold _ _ _

theorem State.saveBegin_hold (s : State) (cause : Nat) (only : Bool) : (s.saveBegin cause only).hold = s.hold := by
  unfold State.saveBegin
  dsimp only
  rw [State.setFld_hold]
  unfold State.putSlot
  dsimp only
  rw [State.drawN_hold, State.saveItems_hold, State.fold_hold (fun t _ => State.logStore_hold t), State.snapAll_hold]

theorem State.pwrEvent_hold (s : State) (f : Fld) : (s.pwrEvent f).hold = s.hold := by
  unfold State.pwrEvent
  split
  · rfl
  · rw [State.raise_hold, State.setFld_hold]

theorem State.powerDown_hold (s : State) (cause : Nat) : (s.powerDown cause).hold = s.hold := by
  unfold State.powerDown State.pkgReset
  rfl

/-- What a trigger counts, shows and sheds. -/
def State.sagged (s : State) : State := ((s.count R.pwrCnt F.pwrCnt_sags 1).pwrEvent F.pwrEvent_sag).shed

theorem State.sagged_hold (s : State) : s.sagged.hold = s.hold := by
  have e : s.sagged = ((s.count R.pwrCnt F.pwrCnt_sags 1).pwrEvent F.pwrEvent_sag).shed := rfl
  rw [e, State.shed_hold, State.pwrEvent_hold, State.count_hold]

theorem State.putSlot_hold (s : State) (i : Nat) (x : SaveSlot) : (s.putSlot i x).hold = s.hold := by
  unfold State.putSlot
  rfl

theorem State.tell_hold (s : State) (n : Notice) : (s.tell n).hold = s.hold := by
  unfold State.tell
  rfl

theorem State.setPwr_hold (s : State) (p : PwrSt) :
    State.hold { s with pwr :=
      p } = s.hold := rfl

/-- A trigger with its cause takes place at once. -/
theorem State.trigger_hold (s : State) (cause : Nat) : (s.trigger cause).hold = s.hold := by
  cases hs : s.pwr.save with
  | none =>
    have e : s.trigger cause = (if s.fld R.saveStat F.saveStat_state ≠ 0 then s
        else if s.secState = 2 then (s.sagged.tell (.save 2)).powerDown cause else s.sagged.saveBegin cause false) := by
      unfold State.trigger
      rw [hs]
      rfl
    rw [e]
    split
    · rfl
    · split
      · rw [State.powerDown_hold, State.tell_hold, State.sagged_hold]
      · rw [State.saveBegin_hold, State.sagged_hold]
  | some r =>
    unfold State.trigger
    rw [hs]
    dsimp only
    split
    · rw [State.putSlot_hold, State.setPwr_hold]
      exact State.sagged_hold s
    · rw [State.count_hold]

theorem State.saveStops_hold (s : State) (n : Nat) : (s.saveStops n).hold = s.hold := by
  unfold State.saveStops
  split <;> rfl

/-- What a trigger finds running it does at once. -/
theorem State.saveTrigger_hold (s : State) (h : s.hold = false) :
    (saveTrigger s).hold = false ∧ (s.running = true → (saveTrigger s).resp.status = .ok) := by
  have key : (if s.running then (s.trigger s.pwr.open_).answer .ok else s.answer .refused).hold = false := by
    split
    · rw [State.answer_hold, State.trigger_hold, h]
    · rw [State.answer_hold, h]
  have e : saveTrigger s = (if s.running then (s.trigger s.pwr.open_).answer .ok else s.answer .refused) := by
    unfold saveTrigger State.commit
    exact if_neg (by rw [key]; decide)
  rw [e]
  refine ⟨key, fun hr => ?_⟩
  rw [if_pos hr]
  rfl

theorem State.gracefulShutdown_hold (s : State) (h : s.hold = false) :
    (gracefulShutdown s).hold = false ∧ (s.running = true → (gracefulShutdown s).resp.status = .ok) := by
  have key : (if s.running then (s.trigger 5).answer .ok else s.answer .refused).hold = false := by
    split
    · rw [State.answer_hold, State.trigger_hold, h]
    · rw [State.answer_hold, h]
  have e : gracefulShutdown s = (if s.running then (s.trigger 5).answer .ok else s.answer .refused) := by
    unfold gracefulShutdown State.commit
    exact if_neg (by rw [key]; decide)
  rw [e]
  refine ⟨key, fun hr => ?_⟩
  rw [if_pos hr]
  rfl

theorem State.thermalTrip_hold (s : State) (h : s.hold = false) :
    (thermalTrip s).hold = false ∧ (s.running = true → (thermalTrip s).resp.status = .ok) := by
  have key : (if s.running then (s.trigger 3).answer .ok else s.answer .refused).hold = false := by
    split
    · rw [State.answer_hold, State.trigger_hold, h]
    · rw [State.answer_hold, h]
  have e : thermalTrip s = (if s.running then (s.trigger 3).answer .ok else s.answer .refused) := by
    unfold thermalTrip State.commit
    exact if_neg (by rw [key]; decide)
  rw [e]
  refine ⟨key, fun hr => ?_⟩
  rw [if_pos hr]
  rfl

theorem State.powerCycle_hold (s : State) (h : s.hold = false) :
    (powerCycle s).hold = false ∧ (s.running = true → (powerCycle s).resp.status = .ok) := by
  have key : (if s.running then (({ s with pwr := { s.pwr with cycle := true } } : State).trigger 5).answer .ok
      else s.answer .refused).hold = false := by
    split
    · rw [State.answer_hold, State.trigger_hold, State.setPwr_hold, h]
    · rw [State.answer_hold, h]
  have e : powerCycle s = (if s.running then (({ s with pwr := { s.pwr with cycle := true } } : State).trigger 5).answer .ok
      else s.answer .refused) := by
    unfold powerCycle State.commit
    exact if_neg (by rw [key]; decide)
  rw [e]
  refine ⟨key, fun hr => ?_⟩
  rw [if_pos hr]
  rfl

theorem State.forceOff_hold (s : State) (h : s.hold = false) :
    (forceOff s).hold = false ∧ (s.running = true → (forceOff s).resp.status = .ok) := by
  unfold forceOff
  split
  · dsimp only
    refine ⟨?_, fun _ => rfl⟩
    rw [State.answer_hold, State.powerDown_hold, State.setPwr_hold, State.saveStops_hold, State.shed_hold, State.draw_hold, h]
  · rename_i hn
    refine ⟨by rw [State.answer_hold, h], fun hr => absurd (Or.inl hr) hn⟩

end Sys2Proof.Machine
end

