-- ==== Sys2Proof/Tests/Slice0.lean ====
section
/-!
SUPPORT. Tests of this package: the smoke test of `Instr.wf`, small results taken from the spec's tables and worked
examples, and for every statement with hypotheses a concrete state and operands that meet them, clause by clause.
-/

namespace Sys2Proof.Tests

set_option Elab.async false

open Sys2Proof Sys2Proof.Machine

/-! ## Small states -/

/-- A die in service. -/
def upDie : DieSt := { released := true, accepted := true, admitted := true, inService := true }
/-- Reset with every die in service. -/
def s0 : State := { State.reset with dies := (List.range 11).map (fun n => (n, upDie)) }
def g0 : GroupRef := ⟨0, 0⟩
def g1 : GroupRef := ⟨0, 1⟩
/-- A group of four lanes, all active. -/
def x0 : Group :=
  { resident := true, width := 4, regs := 64, unif := 32, pc := 0x1000, active := 0xF, full := 0xF, unit := 1 }
/-- Two groups of one block on core 0. -/
def s1 : State := (s0.setGrp g0 x0).setGrp g1 { x0 with index := 1 }
/-- Instruction fields: destination 4, sources 2 and 3. -/
def fl : Fields := { dst := 4, a := 2, b := 3, c := 0, pred := 0, mod := 0 }
/-- The next state of an outcome. -/
def nx (o : Out) : State := match o with | .next t => t | _ => State.reset


/-! ## Smoke test of well-formedness -/

/-- A digest that is one byte short, and one of 48 bytes. -/
def short47 : List Byte := List.replicate 47 0
def full48 : List Byte := List.replicate 48 0
def fwOk : FwFacts := ⟨full48, full48, 0, full48, full48⟩
def manOk : ManFacts := ⟨[⟨full48, 31, 2 ^ 384 - 1, 0⟩], 0, 0, 0, full48, true⟩
def storeOk : StoreFacts := ⟨manOk, fwOk, fwOk, full48, full48, full48⟩
def dieOk : DieFacts := ⟨true, 0, 2, 4, 0, true, some fwOk⟩
def powOk : PowerFacts := ⟨70, some storeOk, true, false, true, [(10, dieOk)], [(17, ⟨[⟨0, 1, 1⟩], [⟨31, 1, 1⟩]⟩)]⟩
def twice : List UnitFault := [⟨3, 1, 1⟩, ⟨3, 2, 1⟩]
def ctl : CtrlRef := ⟨0, 0⟩

/-- One term for each check, which it breaks alone. -/
theorem test_illFormed_refused : ∀ i ∈ ([
    .dieResetRelease 1 { dieOk with kind := 3 }, .dieResetRelease 1 { dieOk with fw := some { fwOk with digest := short47 } },
    .dieResetRelease 1 { dieOk with fw := some { fwOk with keyId := short47 } },
    .dieResetRelease 1 { dieOk with fw := some { fwOk with sigR := short47 } },
    .dieResetRelease 1 { dieOk with fw := some { fwOk with sigS := short47 } },
    .linkTraining (.edge 0) ⟨twice, []⟩, .olRetrain .onyx 0 ⟨[], twice⟩, .edgeRetrain .onyx 0 0 ⟨twice, []⟩,
    .retrainAll .onyx [(18, ⟨[], []⟩)], .retrainAll .onyx [(17, ⟨twice, []⟩)], .retryWindowClose (.oh 0) .a ⟨[], twice⟩,
    .registerWrite .onyx 0xDFF_FFFF_FFF8 8 .load, .registerWrite .onyx 0xF00_0000_0000 8 .load,
    .registerWrite .onyx 0xE00_0000_0000 3 .load, .aliasWrite .onyx 0xDFF_FFFF_0000 .set 0,
    .aliasWrite .onyx 0xE00_0000_0004 .set 0, .aliasWrite .onyx 0xE00_0000_4000 .set 0, .paceWindow 0 0, .paceWindow 0 256,
    .governorEvaluation ⟨0, 0, List.replicate 10 (0, 0)⟩, .transferGrant 0 [], .transferGrant 0 [⟨1, 0⟩, ⟨1, 3⟩],
    .nanReport 0 ⟨3, false, 0, 0, 0, 0, 0, 0, 0, 0⟩, .nanReport 0 ⟨0, false, 0, 0, 0, 0, 0, 0, 4, 0⟩,
    .controllerRequest ctl ⟨.onyx, 0, some [], .clean⟩, .controllerRequest ctl ⟨.onyx, 63, some [1, 2], .clean⟩,
    .sliverRead ⟨.onyx, 16⟩, .sliverWrite ⟨.onyx, 16⟩ (List.replicate 32 0) 0, .sliverWrite ⟨.onyx, 32⟩ (List.replicate 31 0) 0,
    .reductionOp ⟨.onyx, 1, 0, 1, 0, 0⟩, .reductionOp ⟨.onyx, 0, 0, 0, 0, 0⟩, .reductionOp ⟨.onyx, 0, 0, 4, 0, 0⟩,
    .reductionOp ⟨.onyx, 0, 7, 1, 0, 0⟩, .patrolScrub ctl 32 .clean, .wrf .onyx 0 (List.replicate 127 0),
    .wrp .onyx 0 (List.replicate 127 0) 0, .tileRequest ⟨0, 0, some []⟩, .tileRequest ⟨0, 127, some [1, 2]⟩, .twinCopyExpiry 64,
    .cboClean ⟨0, 0⟩ 32, .cboFlush ⟨0, 0⟩ 32, .cboInval ⟨0, 0⟩ 32, .cboZero ⟨0, 0⟩ 32, .deviceRequest 0 0 ⟨0, 0, none, 0, false⟩,
    .deviceRequest 0 0 ⟨0, 0, none, 4097, false⟩, .deviceRequest 0 0 ⟨0, 0, some [], 4, false⟩,
    .twinAuth ⟨true, [short47], false, 0, true⟩, .modeWrite .onyx 1 ⟨false, 0, false, [0, 0, 0]⟩, .partnerRequest ⟨0, none, 0⟩,
    .partnerRequest ⟨127, none, 2⟩, .mirrorRecord ⟨0, List.replicate 63 0, false⟩, .mirrorRecord ⟨32, List.replicate 64 0, false⟩,
    .vinWarn 10_001, .firmwareUpdate (.beryl short47 true), .firmwareUpdate (.onyxFw { fwOk with digest := short47 }),
    .firmwareUpdate (.bobFw { fwOk with digest := short47 }), .firmwareUpdate (.manifest { manOk with digest := short47 }),
    .firmwareUpdate (.manifest { manOk with entries := [⟨short47, 0, 0, 0⟩] }),
    .firmwareUpdate (.manifest { manOk with entries := [⟨full48, 0, 2 ^ 384, 0⟩] }),
    .firmwareUpdate (.manifest { manOk with entries := [⟨full48, 0, 0, 2 ^ 384⟩] }),
    .packagePowerOn { powOk with made := some { storeOk with manifest := { manOk with digest := short47 } } },
    .packagePowerOn { powOk with made := some { storeOk with onyxFw := { fwOk with digest := short47 } } },
    .packagePowerOn { powOk with made := some { storeOk with bobFw := { fwOk with digest := short47 } } },
    .packagePowerOn { powOk with made := some { storeOk with beryl := short47 } },
    .packagePowerOn { powOk with made := some { storeOk with rom := short47 } },
    .packagePowerOn { powOk with made := some { storeOk with idk := short47 } },
    .packagePowerOn { powOk with dies := [(11, dieOk)] }, .packagePowerOn { powOk with dies := [(1, { dieOk with kind := 3 })] },
    .packagePowerOn { powOk with links := [(18, ⟨[], []⟩)] }, .packagePowerOn { powOk with links := [(1, ⟨twice, []⟩)] },
    .resetCd .onyx 0, .resetCd .onyx 9, .releaseCd .onyx 0, .releaseCd .onyx 9, .twinLaneLoss 17] : List Instr), i.wf = false := by decide +kernel

theorem test_wellFormed_accepted : ∀ i ∈ ([.dieResetRelease 1 dieOk, .retrainAll .onyx [(17, ⟨[⟨3, 1, 1⟩, ⟨4, 1, 1⟩], []⟩)],
    .registerWrite .onyx 0xEFF_FFFF_FFC0 64 .load, .aliasWrite .onyx 0xE00_0001_0008 .set 0, .paceWindow 0 255,
    .governorEvaluation ⟨0, 0, List.replicate 11 (0, 0)⟩, .transferGrant 0 [⟨1, 0⟩, ⟨2, 0⟩], .controllerRequest ctl ⟨.onyx, 63, some [1], .clean⟩,
    .sliverWrite ⟨.onyx, 32⟩ (List.replicate 32 0) 0, .reductionOp ⟨.onyx, 8, 6, 3, 0, 0⟩, .tileRequest ⟨0, 127, some [1]⟩,
    .deviceRequest 0 0 ⟨0, 0, none, 4096, false⟩, .partnerRequest ⟨127, none, 1⟩, .vinWarn 10_000, .packagePowerOn powOk,
    .resetCd .onyx 8, .twinLaneLoss 16] : List Instr), i.wf = true := by decide +kernel
/-! ## Witnesses: the queue and reset -/

theorem test_idleTick_meets : State.reset.pending = [] := rfl

theorem test_queueDrains_meets : ∀ c ∈ ({ s0 with pending := [.referenceLoss, .vinWarn 10_000, .vinWarn 0] } : State).pending,
    c.beyond = false := by decide +kernel

theorem test_stepIsAtomic_meets : s0.settled ∧ step { s0 with pending := [.powerRearm] } = exec .powerRearm s0 :=
  ⟨rfl, rfl⟩

theorem test_beyondMaximum_meets : 10_000 < 10_001 ∧ 10_000 ≤ 10_000 ∧ 0 ≤ 10_000 := by decide

theorem test_memoryCanonical_meets : Memory.wf State.reset = true
    ∧ step State.reset = .next (nx (step State.reset)) := ⟨rfl, rfl⟩

theorem test_resetState_meets : regRow R.rasProd = some ((regRow R.rasProd).get (by decide +kernel)) := by decide +kernel

/-! ## Witnesses: lanes and uniform registers -/

/-- Field MOD: type in bits 5 to 3, low bits 2 to 0. -/
def ft (ty low : Nat) : Fields := { fl with mod := BitVec.ofNat 8 (8 * ty + low) }
/-- With the immediate in place of the last source. -/
def fi (ty low c : Nat) : Fields := { dst := 4, a := 2, b := 0, c := BitVec.ofNat 16 c, pred := 0, mod := BitVec.ofNat 8 (64 + 8 * ty + low) }

theorem test_integerResult_meets : s1.ready g0 = true
    ∧ (∀ n, n < 4 → (Ty.ofCode (ft n 0).typ).isSome = true ∧ ∀ ty, ty ∈ Ty.ofCode (ft n 0).typ →
        ∀ o ∈ [IntOp.mov, .add, .sub, .mul, .mulh, .min, .max, .abs, .and, .or, .xor, .not, .shl, .shr, .sar, .popc],
          o.laneOk (s1.grp g0) (if ty.wide then { ft n 0 with b := 6 } else ft n 0) ty = true
            ∧ o.scalarOk (s1.grp g0) (fi n 0 0xFFFF) ty = true) := by decide +kernel

theorem test_illegalInteger_meets : s1.ready g0 = true ∧ Ty.ofCode (ft 0 1).typ = some .i32
    ∧ IntOp.add.laneOk (s1.grp g0) (ft 0 1) .i32 = false := by decide +kernel

theorem test_collectiveRule_meets :
    let x := { x0 with active := 7 }
    let y := (x0.setLane 0 0 0)
    (s1.setGrp g0 x).ready g0 = true ∧ fl.syncOk = true ∧ fl.imm = false ∧ fl.cOk = true ∧ x.active ≠ x.full
      ∧ y.active = y.full ∧ y.execMask { fl with pred := 1 } = 0 ∧ ({ fl with pred := 1 } : Fields).syncOk = true
      ∧ y.active = y.full ∧ y.execMask fl ≠ 0 := by decide +kernel

/-- Lane 1 to 3 hold 0x20 in the register pair 2, lane 0 the odd address 0x21; the base is uniform register 3. -/
def xOdd : Group :=
  ((((x0.setUni 3 0x10000).setLaneVal 0 2 true 0x21).setLaneVal 1 2 true 0x20).setLaneVal 2 2 true 0x20).setLaneVal 3 2 true 0x20

theorem test_memoryStops_meets : s1.ready g0 = true ∧ x0.memOk (ft 0 7) = false ∧ x0.memOk (ft 0 2) = true
    ∧ (∃ l ∈ xOdd.execLanes (ft 0 2), xOdd.memVa (ft 0 2) l % sizeBytes (ft 0 2).low ≠ 0) ∧ xOdd.memOk (ft 0 2) = true
    ∧ x0.execLanes (ft 0 2) ≠ [] ∧ (∀ l ∈ x0.execLanes (ft 0 2), x0.memVa (ft 0 2) l % sizeBytes (ft 0 2).low = 0)
    ∧ s1.flag R.ctxBase F.ctxBase_enable = false := by decide +kernel

theorem test_floatResult_meets : s1.ready g0 = true ∧ Ty.ofCode (ft 4 0).typ = some .f32 ∧ Ty.ofCode (ft 5 3).typ = some .f64
    ∧ (∀ o ∈ [FpOp.fadd, .fsub, .fmul, .ffma, .fmin, .fmax], o.laneOk (s1.grp g0) { ft 4 0 with c := 5 } .f32 = true
        ∧ o.laneOk (s1.grp g0) { ft 5 3 with b := 6, c := 8 } .f64 = true) := by decide +kernel

/-- A conversion from FP32 to FP16. -/
def fCvt : Fields := { dst := 4, a := 2, b := 0, c := 0x20, pred := 0, mod := 64 }

theorem test_convertResult_meets : ∃ w, CvtWord.of fCvt.c = some w ∧ cvtOk (s1.grp g0) fCvt w = true := by
  exact ⟨(CvtWord.of fCvt.c).get (by decide +kernel), by decide +kernel, by decide +kernel⟩

theorem test_predicateResult_meets : Ty.ofCode (ft 0 6).typ = some .i32 ∧ (ft 0 6).low < 7 ∧ (ft 0 6).dst.toNat < 16
    ∧ (ft 0 6).cOk = true ∧ (ft 0 6).bOk = true ∧ x0.tyOk .i32 2 = true ∧ x0.tyOk .i32 3 = true
    ∧ (ft 5 3).typ < 6 ∧ (ft 5 3).low < 4 ∧ (ft 5 3).imm = false ∧ ({ ft 5 3 with dst := 15, a := 15, b := 15 } : Fields).dst.toNat < 16 := by
  decide +kernel

theorem test_laneMoves_meets : (ft 0 0).low = 0 ∧ x0.tyOk .i32 (ft 0 0).dst.toNat = true ∧ (ft 0 0).imm = false
    ∧ ({ ft 0 0 with c := 15 } : Fields).c.toNat < 16 ∧ x0.tyOk .i32 2 = true ∧ x0.tyOk .i32 3 = true
    ∧ (ft 0 0).cOk = true ∧ (ft 0 0).bOk = true ∧ x0.lOk 3 = true ∧ (fi 0 0 3).cOk = true ∧ (fi 0 0 3).bOk = true
    ∧ x0.uOk (ft 0 0).a.toNat = true := by decide +kernel

theorem test_uniformReads_meets : x0.uOk (ft 0 2).dst.toNat = true ∧ (ft 0 2).typ < 6 ∧ (ft 0 2).low < 3 ∧ (ft 0 2).imm = false
    ∧ (ft 0 2).cOk = true ∧ ({ ft 0 2 with a := 15 } : Fields).a.toNat < 16
    ∧ Ty.ofCode (fi 0 0 3).typ = some .i32 ∧ (fi 0 0 3).low = 0 ∧ (fi 0 0 3).imm = true ∧ (fi 0 0 3).c.toNat < x0.width
    ∧ x0.tyOk .i32 2 = true ∧ (ft 5 0).typ < 6 ∧ (ft 5 0).low = 0 := by decide +kernel

/-! ## Witnesses: control flow, barriers and synchronization -/

theorem test_branchTargets_meets : s1.ready g0 = true ∧ x0.execMask fl = x0.active
    ∧ x0.execMask { fl with pred := 1 } = 0 ∧ x0.active ≠ 0 ∧ x0.uOk fl.a.toNat = true ∧ fl.low = 0 := by decide +kernel

/-- Two of the four lanes take a branch. -/
def xHalf : Group := { x0 with preds := [(1, 3)] }
def fHalf : Fields := { fl with pred := 1, mod := 5, c := 0xFFFF }
def eTop : StackEntry := ⟨5, 0xF, 0xC, 0x2000, none⟩

theorem test_divergenceStack_meets :
    (s1.setGrp g0 xHalf).ready g0 = true ∧ xHalf.execMask fHalf ≠ 0 ∧ xHalf.execMask fHalf ≠ xHalf.active
    ∧ ({ xHalf with stack := List.replicate 31 eTop } : Group).stack.length < 32
    ∧ 32 ≤ ({ xHalf with stack := List.replicate 32 eTop } : Group).stack.length
    ∧ ({ xHalf with stack := [eTop] } : Group).stack = eTop :: [] ∧ eTop.tag = fHalf.mod.setWidth 4 ∧ eTop.notTaken ≠ 0
    ∧ ({ eTop with notTaken := 0 } : StackEntry).active &&& xHalf.full ≠ 0 := by decide +kernel

theorem test_otherTag_meets : ∀ e rest, ({ xHalf with stack := [eTop] } : Group).stack = e :: rest →
    e.tag ≠ ({ fHalf with mod := 4 } : Fields).mod.setWidth 4 := by
  intro e rest h
  cases h
  decide +kernel

theorem test_exitAndHalt_meets : x0.full &&& ~~~ x0.execMask fl = 0 ∧ xHalf.full &&& ~~~ xHalf.execMask { fl with pred := 1 } ≠ 0
    ∧ xHalf.active &&& ~~~ xHalf.execMask { fl with pred := 1 } ≠ 0 ∧ fl.low = 0 ∧ (ft 0 1).low ≠ 0 := by decide +kernel

/-- Both groups belong to barrier unit 1. -/
def sBar (arrived : List Nat) : State := s1.setBlock 0 1 { used := true, members := [0, 1], arrived := arrived }

theorem test_blockBarrier_meets : (sBar []).ready g0 = true ∧ (x0.active = x0.full ∧ x0.execMask fl = x0.active ∧ x0.active ≠ 0)
    ∧ ((sBar []).block 0 1).waiting = [] ∧ fl.syncOk = true ∧ fl.imm = false ∧ fl.cOk = true
    ∧ phaseDone ((sBar []).block 0 1) 0 = false ∧ phaseDone ((sBar [1]).block 0 1) 0 = true
    ∧ x0.uOk fl.dst.toNat = true ∧ x0.uOk fl.c.toNat = true ∧ x0.uniOrImm fl 0 % 2 ^ 32 = 0
    ∧ x0.uniOrImm (fi 0 0 5) 5 % 2 ^ 32 ≠ 0 ∧ (fi 0 0 5).syncOk = true ∧ (fi 0 0 5).cOk = true := by decide +kernel

theorem test_barrierTimeout_meets :
    let s := (s1.setGrp g0 { x0 with wait := .barrier (some 4) }).setBlock 0 1
      { used := true, members := [0, 1], arrived := [0], waiting := [⟨0, some 4, some 5⟩] }
    (s.grp g0).resident = true
      ∧ (s.block 0 (s.grp g0).unit).waiting.find? (fun w => decide (w.slot = 0)) = some ⟨0, some 4, some 5⟩ := by decide +kernel

/-- Object 7 is a counter of value 3 or a lock; uniform register 2 names it, register 3 holds 5. -/
def xSync : Group := (x0.setUni 2 7).setUni 3 5
def sOn : State := s1.setReg (R.syncCtrl 0) (F.syncCtrl_enable.set 1 0)
def sCtr (v : BitVec 32) : State := (sOn.setGrp g0 xSync).setObj 7 { typ := .counter, value := v }

theorem test_counterInstructions_meets :
    (sCtr 3).ready g0 = true ∧ fl.syncOk = true ∧ fl.cOk = true ∧ xSync.uOk fl.dst.toNat = true ∧ xSync.uOk fl.a.toNat = true
    ∧ xSync.acts fl = true ∧ ((sCtr 3).core 0).mbuf = [] ∧ (xSync.uni 2).toNat = 7
    ∧ groupObj (sCtr 3) g0 7 .counter = true ∧ groupObj (sCtr 5) g0 7 .counter = true ∧ fl.bOk = true
    ∧ xSync.uOk fl.b.toNat = true ∧ (xSync.uni 3).toNat = 5 ∧ 5 ≤ ((sCtr 5).obj 7).value.toNat
    ∧ ((sCtr 4).obj 7).value.toNat < 5 ∧ xSync.uniOrImm (fi 0 0 9) 9 % 2 ^ 32 ≠ 0 ∧ (fi 0 0 9).syncOk = true
    ∧ xSync.uniOrImm fl 0 % 2 ^ 32 = 0 ∧ (sCtr 4).waitersOf 0 < 4096 := by decide +kernel

/-- A group waits for 5 at a counter of value 3. -/
def wCtr : Waiter := ⟨.group g0, 5, some 9⟩
def sCtrW : State := (sOn.setGrp g0 { xSync with wait := .counter 7 4 }).setObj 7 { typ := .counter, value := 3, queue := [wCtr] }

theorem test_counterServes_meets : (sCtrW.obj 7).typ = .counter ∧ (sCtrW.obj 7).queue = [wCtr] ∧ wCtr.who = .group g0
    ∧ (sCtrW.grp g0).wait = .counter 7 4 ∧ sCtrW.cdUp 0 = true ∧ passes sCtrW .beryl (R.syncCmd 0) = true
    ∧ sCtrW.flag (R.syncCtrl 0) F.syncCtrl_enable = true ∧ wCtr.deadline = some 9 ∧ sCtrW.tick ≤ 9
    ∧ (sCtrW.obj 7).value.toNat + 0xFFFF_FFFC ≤ 0xFFFF_FFFF ∧ wCtr.amount ≤ (sCtrW.obj 7).value.toNat + 2 := by decide +kernel

/-- Lanes 1 and 2 name lock 7. -/
def xLock (lanes : BitVec 64) : Group := { ((x0.setLane 1 2 7).setLane 2 2 7) with active := lanes, full := lanes }
def sLock (lanes : BitVec 64) (o : Option Owner) : State := (sOn.setGrp g0 (xLock lanes)).setObj 7 { typ := .lock, owner := o }
def fAcq : Fields := { fl with mod := 64, b := 0, c := 3 }
def own1 : Owner := ownerOf (.lane g0 1)

theorem test_lockInstructions_meets :
    (sLock 2 none).ready g0 = true ∧ (xLock 2).acqOk fAcq = true ∧ ((sLock 2 none).core 0).mbuf = []
    ∧ groupObj (sLock 2 none) g0 7 .lock = true ∧ ((xLock 2).lane 1 2).toNat = 7 ∧ (xLock 2).execLanes fAcq = [1]
    ∧ (xLock 6).execLanes fAcq = [1, 2] ∧ ((xLock 6).lane 2 2).toNat = 7 ∧ (xLock 6).acqOk fAcq = true
    ∧ ({ ownerOf (.lane g1 1) with lane := own1.lane } : Owner) ≠ own1 ∧ (xLock 2).uniOrImm fAcq 3 % 2 ^ 32 ≠ 0
    ∧ (sLock 2 (some (ownerOf (.lane g1 1)))).waitersOf 0 < 4096
    ∧ fl.imm = false ∧ (xLock 2).execLanes fl = [1] ∧ ((sLock 2 (some own1)).obj 7).owner = some own1
    ∧ (xLock 2).acqOk fl = true := by decide +kernel

/-- A kernel whose second instruction is RELG. -/
def kern : Kernel := ⟨0, 4, 64, 32, 4, 0, false, 0x1000, 0x1000, 0, List.replicate 8 0 ++ (toBytes 8 (5 * 2 ^ 60 + 0x0B * 2 ^ 52))⟩
def sReg (lanes : BitVec 64) : State := { sLock lanes none with clConf := [(0, { kernels := [kern] })] }
/-- The state inside the region of lane 1. -/
def rIn (rest : BitVec 64) : Region := ⟨0x1000, 0x1008, 2 ||| rest, rest, 0, [(1, 7)]⟩
def sIn (rest : BitVec 64) : State :=
  (sOn.setGrp g0 { xLock (2 ||| rest) with active := 2, pc := 0x1008, region := some (rIn rest) }).setObj 7
    { typ := .lock, owner := some own1 }
def fRelg : Fields := { fl with a := 0, b := 0 }

theorem test_regionOpens_meets : (sReg 2).ready g0 = true ∧ (xLock 2).acqOk fAcq = true ∧ (xLock 2).region = none
    ∧ (sReg 2).kernelOf 0 ((sReg 2).grp g0) = some kern ∧ (kern.closeAfter 0x1000).isSome = true
    ∧ (xLock 2).execLanes fAcq = [1] ∧ groupObj (sReg 2) g0 7 .lock = true ∧ ((sReg 2).obj 7).owner = none := by decide +kernel

theorem test_regionCloses_meets : fRelg.syncOk = true ∧ fRelg.imm = false ∧ fRelg.c = 0 ∧ ((sIn 0).core 0).mbuf = []
    ∧ (sIn 0).ready g0 = true ∧ ((sIn 0).grp g0).region = some (rIn 0) ∧ ((sIn 0).grp g0).full.getLsbD 1 = true
    ∧ groupObj (sIn 0) g0 7 .lock = true ∧ ((sIn 0).obj 7).owner = some own1 ∧ (rIn 0).entry &&& ((sIn 0).grp g0).full ≠ 0
    ∧ (rIn 0).remaining &&& ((sIn 0).grp g0).full = 0 := by decide +kernel

theorem test_regionGoesOn_meets : ((sIn 4).core 0).mbuf = [] ∧ (sIn 4).ready g0 = true
    ∧ ((sIn 4).grp g0).region = some (rIn 4) ∧ ((sIn 4).grp g0).full.getLsbD 1 = true
    ∧ groupObj (sIn 4) g0 7 .lock = true ∧ ((sIn 4).obj 7).owner = some own1 ∧ (rIn 4).entry &&& ((sIn 4).grp g0).full ≠ 0
    ∧ (rIn 4).remaining &&& ((sIn 4).grp g0).full ≠ 0 := by decide +kernel

def ownM : Owner := Master.beryl.owner

theorem test_syncCommands_meets : passes sOn .beryl (R.syncCmd 0) = true ∧ sOn.flag (R.syncCtrl 0) F.syncCtrl_enable = true
    ∧ ((sCtr 3).obj 7).queue = [] ∧ ((sCtr 3).obj 7).typ = .counter ∧ ((sCtr 3).obj 7).typ ≠ .unused
    ∧ (sOn.obj 7).typ = .unused ∧ (sOn.obj 7).queue = [] ∧ ((sLock 2 none).obj 7).typ = .lock
    ∧ ((sLock 2 none).obj 7).owner = none ∧ ((sLock 2 (some own1)).obj 7).owner ≠ some ownM
    ∧ ((sLock 2 (some ownM)).obj 7).owner = some ownM ∧ ((sLock 2 (some own1)).obj 7).owner.isSome = true
    ∧ passes (sLock 2 none) .beryl (R.syncCmd 0) = true := by decide +kernel

theorem test_coreCommands_meets : passes s1 .beryl (R.seqCmd 0) = true ∧ passes s1 .beryl (R.seqCmd 1023) = true
    ∧ (s1.grp g0).resident = true ∧ ((s1.setGrp g0 { x0 with halt := some 1 }).grp g0).halt ≠ none := by decide +kernel

/-! ## Witnesses: memory instructions of the cores -/

theorem maps_of {s : State} {g : GroupRef} {t : TlbEnt} {acc : XAcc} {va : Nat} (e : CtxEnt)
    (h : s.flag R.ctxBase F.ctxBase_enable = true
      ∧ (s.walker (coreCl g.core.val)).ctxs.find? (fun e => decide (e.ctx = (s.grp g).ctx.toNat)) = some e
      ∧ e.part = s.corePart g.core.val
      ∧ (s.core g.core.val).tlb.find? (fun t => t.covers (s.grp g).ctx.toNat (va % 2 ^ 48)) = some t
      ∧ t.denies acc false = none ∧ t.pa % 2 ^ 16 = 0) : coreMaps s g t acc va :=
  ⟨h.1, ⟨e, h.2.1, h.2.2.1⟩, h.2.2.2⟩

theorem serves_of {s : State} {c pa : Nat} (cl o : Nat) (h : regionOf pa = .tile ∧ tileOwner pa = some (cl, o)
      ∧ s.cdUp (cl / 8) = true ∧ s.inI4 (cl / 8) = false
      ∧ s.inI3 cl = false ∧ s.flag (R.l2Stat cl) F.l2Stat_tileChanging = false ∧ o < s.tileSize cl
      ∧ s.fld (R.l2Stat cl) F.l2Stat_part = s.corePart c
      ∧ s.fld (R.wvClEpoch cl) F.wvClEpoch_epoch = s.fld (R.wvClEpoch (coreCl c)) F.wvClEpoch_epoch) : tileServes s c pa :=
  ⟨h.1, cl, o, h.2⟩

/-- One lane reads or writes a word at offset 0x20 of the tile memory of cluster 0, which page 1 maps. -/
def te : TlbEnt :=
  { ctx := 0, page := 1, pages := 1, pa := tileBase + 2 ^ 32, r := true, w := true, a := true, owner := 1, hint := 0, level := 3 }
def ce : CtxEnt := ⟨0, 0, false, 0, 0⟩
def xMem : Group := { ((x0.setUni 3 0x10000).setLaneVal 0 2 true 0x20) with active := 1, full := 1 }
def ctxOn : State := s1.setReg R.ctxBase (F.ctxBase_enable.set 1 0)
def sMem0 (x : Group) (pa : Nat) : State :=
  let a := (ctxOn.setReg (R.l2Ctrl 0) (F.l2Ctrl_tilePairs.set 1 0)).setWalker 0 { ctxs := [ce] }
  (a.setCore 0 { a.core 0 with tlb := [{ te with pa := pa }], opc := [(0, 1), (5, 7), (20, 9)] }).setGrp g0 x
def sMem : State := sMem0 xMem (tileBase + 2 ^ 32)
def fMem : Fields := ft 0 2

theorem test_loadsReadTile_meets (acc : XAcc) (h : acc = .read ∨ acc = .write) :
    sMem.ready g0 = true ∧ (sMem.grp g0).memOk fMem = true ∧ (sMem.core 0).mbuf = [] ∧ sMem.l1On 0 = false
      ∧ ∀ l ∈ (sMem.grp g0).execLanes fMem, (sMem.grp g0).memVa fMem l / 128 = 0x10020 / 128
        ∧ (sMem.grp g0).memVa fMem l / 32 = 0x10020 / 32
        ∧ (sMem.grp g0).memVa fMem l % sizeBytes fMem.low = 0 ∧ coreMaps sMem g0 te acc ((sMem.grp g0).memVa fMem l)
        ∧ tileServes sMem 0 (lanePa (sMem.grp g0) fMem te l) ∧ tileSound sMem (lanePa (sMem.grp g0) fMem te l) := by
  refine ⟨by decide +kernel, by decide +kernel, by decide +kernel, by decide +kernel, fun l hl => ?_⟩
  rw [show (sMem.grp g0).execLanes fMem = [0] from by decide +kernel, List.mem_singleton] at hl
  subst hl
  refine ⟨by decide +kernel, by decide +kernel, by decide +kernel, ?_, serves_of 0 0x20 (by decide +kernel), ?_⟩
  · rcases h with rfl | rfl <;> exact maps_of ce (by decide +kernel)
  · unfold tileSound; decide +kernel

theorem test_storesEnterBuffer_meets : (sMem.grp g0).execLanes fMem ≠ [] ∧ lanePa (sMem.grp g0) fMem te 0 / 128 = (tileBase + 2 ^ 32) / 128
    ∧ regionOf (lanePa (sMem.grp g0) fMem te 0) ≠ .reg := by decide +kernel

/-- Line 0x10000 of DRAM is in the reduction buffer; the range and its keys are there. -/
def redLn : Line := ⟨BitVec.ofNat 1024 (5 * 2 ^ 256), 0⟩
def sRed : State :=
  let s := sMem0 xMem 0x10000
  let s := ((s.setPk (R.rangeBase 0 0) (F.rangeBase_valid.set 1 0)).setPk (R.rangeLimit 0 0) (F.rangeLimit_limit.set 4 0)).setPk
    (R.mcPart 0 0) (F.mcPart_enable.set 1 0)
  { (s.setReg (R.mcPart 0 0) (F.mcPart_keyLoaded.set 1 (F.mcPart_enable.set 1 0))) with red := [⟨0x10000 / 128, redLn⟩] }

theorem red_of {s : State} {tag : ReqTag} {pa : Nat} {l : Line} (h : regionOf pa = .dram ∧ s.miss = [] ∧ s.cdUp (s.place pa).cd = true
    ∧ s.inI4 (s.place pa).cd = false ∧ s.refusesWrite tag pa = none ∧ s.dirEnt (pa / 128) = {} ∧ s.redLine (pa / 128) = some l
    ∧ l.poison = 0) : redReady s tag pa l := h

theorem test_reductionOp_meets : redKind 0 2 = some (4, none) ∧ redKind 0 3 = some (8, none) ∧ redReady sRed (.part 0) 0x10020 redLn :=
  ⟨by decide +kernel, by decide +kernel, red_of (by decide +kernel)⟩

theorem test_atom_meets : sRed.ready g0 = true ∧ sRed.atomOk g0 (sRed.grp g0) fMem = true
    ∧ sRed.atomOk g0 (sRed.grp g0) { fMem with mod := 0x42 } = true ∧ (sRed.core 0).mbuf = []
    ∧ (sRed.grp g0).execLanes fMem = [0] ∧ redKind fMem.typ fMem.low = some (4, none) ∧ fMem.typ ≤ 2
    ∧ (sRed.grp g0).memVa fMem 0 % 4 = 0 ∧ coreMaps sRed g0 { te with pa := 0x10000 } .atomic ((sRed.grp g0).memVa fMem 0)
    ∧ redReady sRed (sRed.coreTag 0) (lanePa (sRed.grp g0) fMem { te with pa := 0x10000 } 0) redLn
    ∧ fMem.fetch = false ∧ ({ fMem with mod := 0x42 } : Fields).fetch = true := by
  refine ⟨by decide +kernel, by decide +kernel, by decide +kernel, by decide +kernel, by decide +kernel, by decide +kernel, by decide +kernel, by decide +kernel,
    maps_of ce (by decide +kernel), red_of (by decide +kernel), by decide +kernel, by decide +kernel⟩

/-- FILL and DRAIN of one row of 32 bytes at the same address. -/
def xArea : Group := ((x0.setUni 4 0).setUni 2 0x10020).setUni 3 32
def sArea : State := sMem0 xArea (tileBase + 2 ^ 32)

theorem test_fillAndDrain_meets (acc : XAcc) (h : acc = .read ∨ acc = .write) :
    sArea.ready g0 = true ∧ (sArea.core 0).mbuf = [] ∧ (sArea.core 0).opcBad = [] ∧ (sArea.core 0).wrote = []
    ∧ (∀ j, j < 128 → F.route_valid.get (sArea.reg (R.route (coreCl 0) j)) = 0)
    ∧ areaOk (sArea.grp g0) fl ((sArea.grp g0).area fl) = true ∧ ((sArea.grp g0).area fl).rows = 1
    ∧ ((sArea.grp g0).area fl).rowBytes = 32 ∧ ((sArea.grp g0).area fl).va + 32 ≤ 2 ^ 48
    ∧ (∀ b, b < 32 → tileServes sArea 0 (te.addr (((sArea.grp g0).area fl).va % 2 ^ 48) + b)
        ∧ tileSound sArea (te.addr (((sArea.grp g0).area fl).va % 2 ^ 48) + b))
    ∧ ∀ b, b < 32 → coreMaps sArea g0 te acc (((sArea.grp g0).area fl).va + b) := by
  refine ⟨by decide +kernel, by decide +kernel, by decide +kernel, by decide +kernel, by decide +kernel, by decide +kernel, by decide +kernel,
    by decide +kernel, by decide +kernel, fun b hb => ⟨serves_of 0 (0x20 + b) ?_, ?_⟩, ?_⟩
  · revert b; decide +kernel
  · revert b; unfold tileSound; decide +kernel
  · intro b hb
    rcases h with rfl | rfl
    · refine maps_of ce ?_
      revert b; decide +kernel
    · refine maps_of ce ?_
      revert b; decide +kernel

theorem test_fences_meets : sMem.ready g0 = true ∧ (sMem.core 0).mbuf = [] ∧ (ft 0 4).low ≤ 4 ∧ (ft 2 4).mod.toNat / 8 % 4 ≤ 2
    ∧ (ft 2 4).mod.toNat / 32 % 4 = 0 ∧ fl.pred = 0 ∧ fl.mod = 0 ∧ (s1.grp g0).uOk fl.a.toNat = true
    ∧ (s1.grp g0).uOk fl.b.toNat = true ∧ (((s1.grp g0).uni 2).toNat % 128 = 0) ∧ (s1.grp g0).uni 3 = 0
    ∧ ({ fl with a := 0, b := 0 } : Fields).a = 0 := by decide +kernel

/-- One entry of the merging buffer, for the line of tile memory at offset 0. -/
def mEnt : MergeEnt := { line := (tileBase + 2 ^ 32) / 128, en := 0xF, val := ⟨0xDDCCBBAA, 0⟩, slots := [0], since := 0 }
def sBuf : State := sMem.setCore 0 { sMem.core 0 with mbuf := [mEnt] }

theorem test_bufferDrains_meets : sBuf.up (coreSite 0) = true ∧ (sBuf.core 0).mbuf = [mEnt] ∧ tileServes sBuf 0 (mEnt.line * 128) :=
  ⟨by decide +kernel, by decide +kernel, serves_of 0 0 (by decide +kernel)⟩

/-! ## Witnesses: the matrix engine -/

theorem engine_of {s : State} {g : GroupRef} {f : Fields} (h : s.ready g = true
      ∧ ((s.grp g).active = (s.grp g).full ∧ (s.grp g).execMask f = (s.grp g).active ∧ (s.grp g).active ≠ 0)
      ∧ (s.core g.core.val).opcBad = [] ∧ (s.core g.core.val).accBad = [] ∧ (s.core g.core.val).wrote = []
      ∧ ∀ j, j < 128 → F.route_valid.get (s.reg (R.route (coreCl g.core.val) j)) = 0) : engineReady s g f := h

/-- Tiles: the accumulator at 0, A at 0, B at 0x8000. -/
def xMx : Group := ((x0.setUni 4 0).setUni 2 0).setUni 3 0x8000
def sMx : State := s1.setGrp g0 xMx
/-- A format word in the immediate: formats, accumulator code, rounding. -/
def fMx (fa fb ty low : Nat) : Fields :=
  { dst := 4, a := 2, b := 3, c := BitVec.ofNat 16 (fa + 16 * fb), pred := 0, mod := BitVec.ofNat 8 (64 + 8 * ty + low) }

theorem test_matrixProducts_meets :
    engineReady sMx g0 (fMx 1 1 5 3) ∧ mmaOk xMx (fMx 1 1 5 3) = true ∧ (mmaOps xMx (fMx 1 1 5 3) false).isSome = true
    ∧ (mmaOps xMx (fMx 2 3 4 4) true).isSome = true ∧ mmaOk xMx (fMx 2 3 4 4) = true
    ∧ (mmaOps xMx (fMx 6 8 4 0) true).isSome = true :=
  ⟨engine_of (by decide +kernel), by decide +kernel, by decide +kernel, by decide +kernel, by decide +kernel, by decide +kernel⟩

theorem test_certifiedProduct_meets : (mmaOps xMx { fMx 1 0 0 0 with c := 0x101 } false).map MmaOps.ty = some .long := by decide +kernel

theorem test_integerProducts_meets : engineReady sMx g0 (fMx 9 9 0 0) ∧ mmaOk xMx (fMx 9 9 0 0) = true
    ∧ (mmaOps xMx (fMx 9 9 0 0) false).map (fun o => (o.fa, o.fb)) = some (⟨.i8, false⟩, ⟨.i8, false⟩) ∧ 63 < 64 :=
  ⟨engine_of (by decide +kernel), by decide +kernel, by decide +kernel, by decide⟩

theorem test_accumulatorTiles_meets : AccTy.ofCode (ft 4 0).typ = some .f32 ∧ engineReady sMx g0 (ft 4 0)
    ∧ noFmtWord { ft 4 0 with a := 0, b := 0 } = true ∧ xMx.uOk 4 = true ∧ AccTy.f32.placed (xMx.off 4) = true
    ∧ (fMx 1 0 4 0).low = 0 ∧ accOk xMx (fMx 1 0 4 0) = true
    ∧ MxFmt.ofCode (bits (fmtWord xMx (fMx 1 0 4 0)) 0 4) = some ⟨.f32, false⟩ ∧ bits (fmtWord xMx (fMx 1 0 4 0)) 11 5 = 0
    ∧ accldOk .f32 ⟨.f32, false⟩ = true ∧ tilePlaced (xMx.off 2) (MxFmt.tileBytes ⟨.f32, false⟩ 64 64) = true
    ∧ AccTy.f32.placed (xMx.off 2) = true := by
  refine ⟨by decide +kernel, engine_of (by decide +kernel), by decide +kernel⟩

theorem test_accumulatorStore_meets : (fMx 2 0 4 4).low ≤ 4 ∧ accOk xMx (fMx 2 0 4 4) = true
    ∧ MxFmt.ofCode (bits (fmtWord xMx (fMx 2 0 4 4)) 0 4) = some ⟨.f16, false⟩ ∧ bits (fmtWord xMx (fMx 2 0 4 4)) 11 5 = 0
    ∧ accstOk .f32 ⟨.f16, false⟩ = true ∧ accstOk .f32 ⟨.e4m3, true⟩ = true ∧ bits (fmtWord xMx (fMx 6 0 4 0)) 16 8 = 127
    ∧ AccTy.f32.placed (xMx.off 2) = true ∧ tilePlaced (xMx.off 3) (MxFmt.tileBytes ⟨.f16, false⟩ 64 64) = true
    ∧ tilePlaced (xMx.off 3) (MxFmt.tileBytes ⟨.e4m3, true⟩ 64 64) = true := by decide +kernel

def fLs : Fields := { fl with b := 0 }

theorem test_longTiles_meets : engineReady sMx g0 fLs ∧ fLs.typ = 0 ∧ xMx.uOk 4 = true ∧ AccTy.long.placed (xMx.off 4) = true
    ∧ noFmtWord { fLs with a := 0 } = true ∧ noFmtWord fLs = true ∧ xMx.uOk fLs.a.toNat = true
    ∧ tilePlaced (xMx.off fLs.a) longBytes = true ∧ xMx.off fLs.a + longBytes ≤ opcSize
    ∧ ({ fMx 1 0 0 3 with b := 0 } : Fields).low < 4 ∧ fmtWordOk xMx { fMx 1 0 0 3 with b := 0 } = true
    ∧ MxFmt.ofCode (bits (fmtWord xMx { fMx 1 0 0 3 with b := 0 }) 0 4) = some ⟨.f32, false⟩
    ∧ tilePlaced (xMx.off fLs.a) (MxFmt.tileBytes ⟨.f64, false⟩ 16 16) = true :=
  ⟨engine_of (by decide +kernel), by decide +kernel⟩

/-! ## Witnesses: the vector engine -/

theorem v_of {s : State} {g : GroupRef} {f : Fields} {u : VUse} (h : engineReady s g f) (hu : vFieldsOk (s.grp g) f u = true) :
    vReady s g f u := ⟨h, hu⟩

/-- A descriptor word (R314). -/
def dw (off fmt len rows pitch : Nat) : Word :=
  Word.of (off + fmt * 2 ^ 20 + (len - 1) * 2 ^ 24 + (rows - 1) * 2 ^ 40 + pitch / 64 * 2 ^ 48)
def dOf (w : Word) : VDesc := (VDesc.of w).getD ⟨0, 0, .mask, 0, 0, 0⟩
/-- A destination, two sources and a mask, of 3 rows of 9 elements. -/
def dD (fmt : Nat) : Word := dw 2048 fmt 9 3 0
def dA (fmt : Nat) : Word := dw 0 fmt 9 3 0
def dB (fmt : Nat) : Word := dw 1024 fmt 9 3 0
def dQ : Word := dw 3072 15 9 3 0
def xV (d a b : Word) : Group := (((x0.setUni 4 d).setUni 2 a).setUni 3 b).setUni 5 dQ
def sV (d a b : Word) : State := s1.setGrp g0 (xV d a b)
/-- MODE bits and the mask or selector register. -/
def fV (mod c : Nat) : Fields := { fl with mod := BitVec.ofNat 8 mod, c := BitVec.ofNat 16 c }

theorem s1_noRoutes : ∀ j, j < 128 → F.route_valid.get (s1.reg (R.route 0 j)) = 0 := by decide +kernel

theorem engine_v (d a b : Word) (f : Fields) (h : (sV d a b).ready g0 = true
      ∧ (((sV d a b).grp g0).active = ((sV d a b).grp g0).full ∧ ((sV d a b).grp g0).execMask f = ((sV d a b).grp g0).active
        ∧ ((sV d a b).grp g0).active ≠ 0)) : engineReady (sV d a b) g0 f :=
  engine_of ⟨h.1, h.2, rfl, rfl, rfl, s1_noRoutes⟩

theorem test_vectorArithmetic_meets :
    let x := xV (dD 2) (dA 0) (dB 4)
    let f := fV 0x21 5
    vReady (sV (dD 2) (dA 0) (dB 4)) g0 f { b := true, mask := true, m3 := true }
    ∧ x.desc 4 = some (dOf (dD 2)) ∧ x.desc 2 = some (dOf (dA 0)) ∧ secondDesc x f (dOf (dA 0)) = some (dOf (dB 4))
    ∧ vMask x f (dOf (dA 0)) = some (some (dOf dQ)) ∧ (dOf (dD 2)).n = 27 ∧ (dOf (dA 0)).n = 27 ∧ (dOf (dB 4)).n = 27
    ∧ (dOf (dD 2)).apart [dOf (dA 0), dOf (dB 4), dOf dQ] = true
    ∧ computeType [(dOf (dD 2)).fmt, (dOf (dA 0)).fmt, (dOf (dB 4)).fmt] = some .f64
    ∧ computeType [(dOf (dD 9)).fmt, (dOf (dA 10)).fmt, (dOf (dB 9)).fmt] = some .i32
    ∧ (dOf (dD 2)).fmt = .num .f16 ∧ (dOf (dD 15)).fmt = .mask := by
  refine ⟨v_of (engine_v _ _ _ _ (by decide +kernel)) (by decide +kernel), by decide +kernel⟩

theorem test_vcmp_meets :
    let x := xV (dD 15) (dA 1) (dB 1)
    let f := fV 0x26 5
    vReady (sV (dD 15) (dA 1) (dB 1)) g0 f { b := true, mask := true, m3 := true, low := 6 }
    ∧ x.desc 4 = some (dOf (dD 15)) ∧ vMask x f (dOf (dA 1)) = some (some (dOf dQ))
    ∧ computeType [(dOf (dA 1)).fmt, (dOf (dB 1)).fmt] = some .f32 ∧ (dOf (dD 15)).fmt = .mask
    ∧ (dOf (dD 15)).apart [dOf (dA 1), dOf (dB 1), dOf dQ] = true := by
  refine ⟨v_of (engine_v _ _ _ _ (by decide +kernel)) (by decide +kernel), by decide +kernel⟩

theorem test_vsel_meets :
    let x := xV (dD 1) (dA 2) (dB 1)
    let f := fV 3 5
    vReady (sV (dD 1) (dA 2) (dB 1)) g0 f { b := true, c := true }
    ∧ x.desc 3 = some (dOf (dB 1)) ∧ x.desc 5 = some (dOf dQ) ∧ (dOf dQ).fmt = .mask ∧ (dOf dQ).n = 27
    ∧ (dOf (dD 1)).apart [dOf (dA 2), dOf (dB 1), dOf dQ] = true ∧ vMask x f (dOf (dA 2)) = some none
    ∧ computeType [(dOf (dD 1)).fmt, (dOf (dA 2)).fmt, (dOf (dB 1)).fmt] = some .f32 ∧ (dOf (dD 1)).fmt = .num .f32 := by
  refine ⟨v_of (engine_v _ _ _ _ (by decide +kernel)) (by decide +kernel), by decide +kernel⟩

theorem test_vcvt_meets :
    let x := xV (dD 3) (dA 9) (dB 1)
    let f := { fV 0x24 5 with b := 3 }
    vReady (sV (dD 3) (dA 9) (dB 1)) g0 f { b := decide (f.low = 4), mask := true, low := 4 }
    ∧ (dOf (dA 9)).fmt ≠ .mask ∧ vMask x f (dOf (dA 9)) = some (some (dOf dQ))
    ∧ (dOf (dD 3)).apart [dOf (dA 9), dOf dQ] = true ∧ (dOf (dD 3)).fmt = .num .bf16
    ∧ (dOf (dw 2048 8 64 2 0)).fmt.isMx = true ∧ (dOf (dw 2048 8 64 2 0)).n = 128
    ∧ ((dOf (dw 2048 8 64 2 0)).apart [dOf (dw 0 1 64 2 0)] = true) := by
  refine ⟨v_of (engine_v _ _ _ _ (by decide +kernel)) (by decide +kernel), by decide +kernel⟩

theorem test_vectorReductions_meets :
    let x := xV (dD 1) (dA 1) (dB 1)
    let f := fV 0x21 5
    vReady (sV (dD 1) (dA 1) (dB 1)) g0 f { b := true, mask := true }
    ∧ vReady (sV (dD 1) (dA 1) (dB 1)) g0 { f with b := 0 } { mask := true }
    ∧ vReady (sV (dD 1) (dA 15) (dB 1)) g0 { fV 0 0 with b := 0 } {}
    ∧ x.desc 2 = some (dOf (dA 1)) ∧ vMask x f (dOf (dA 1)) = some (some (dOf dQ)) ∧ x.desc 3 = some (dOf (dB 1))
    ∧ (dOf (dB 1)).n = (dOf (dA 1)).n ∧ computeType [(dOf (dA 1)).fmt, (dOf (dB 1)).fmt] = some .f32
    ∧ computeType [(dOf (dA 1)).fmt] = some .f32 ∧ (dOf (dA 15)).fmt = .mask ∧ (dOf (dA 9)).fmt.isInt = true := by
  refine ⟨v_of (engine_v _ _ _ _ (by decide +kernel)) (by decide +kernel), v_of (engine_v _ _ _ _ (by decide +kernel)) (by decide +kernel),
    v_of (engine_v _ _ _ _ (by decide +kernel)) (by decide +kernel), by decide +kernel⟩

theorem test_vectorScans_meets :
    let x := xV (dD 10) (dA 9) 5
    let f := fV 8 5
    vReady (sV (dD 10) (dA 9) 5) g0 f { b := true, c := true, m3 := true }
    ∧ vReady (sV (dD 10) (dA 9) 5) g0 (fV 3 0) { b := true, c := false, m3 := true }
    ∧ x.desc 4 = some (dOf (dD 10)) ∧ x.desc 5 = some (dOf dQ) ∧ computeType [(dOf (dD 10)).fmt, (dOf (dA 9)).fmt] = some .i32
    ∧ computeType [(dOf (dD 1)).fmt, (dOf (dA 2)).fmt] = some .f32
    ∧ (dOf (dD 10)).fmt = .num .i32 ∧ (dOf dQ).fmt = .mask ∧ (dOf (dD 10)).apart [dOf (dA 9), dOf dQ] = true := by
  refine ⟨v_of (engine_v _ _ _ _ (by decide +kernel)) (by decide +kernel), v_of (engine_v _ _ _ _ (by decide +kernel)) (by decide +kernel),
    by decide +kernel⟩

theorem test_vsf_meets :
    let x := xV (dD 1) (dA 2) 3
    let f := fV 0x24 5
    vReady (sV (dD 1) (dA 2) 3) g0 f { b := true, mask := true, low := 4 } ∧ ((sV (dD 1) (dA 2) 3).core 0).tblLoad = none
    ∧ vMask x f (dOf (dA 2)) = some (some (dOf dQ)) ∧ (dOf (dD 1)).fmt = .num .f32 ∧ (dOf (dD 1)).apart [dOf (dA 2), dOf dQ] = true
    ∧ (dOf (dA 2)).fmt.isFloat = true ∧ (dOf (dA 2)).fmt ≠ .num .f64 := by
  refine ⟨v_of (engine_v _ _ _ _ (by decide +kernel)) (by decide +kernel), by decide +kernel⟩

theorem test_tableBanks_meets :
    vReady (sV 0 0 0x8001) g0 { fV 0 0 with dst := 0 } { d := false, b := true } ∧ (xV 0 0 0x8001).off 2 % 64 = 0
    ∧ (∀ i, i < 16 → ((xV 0 0 0x8001).uni 3).getLsbD i = true → (xV 0 0 0x8001).off 2 + (i + 1) * 4160 ≤ opcSize)
    ∧ passes s0 .beryl (R.tblData 0) = true ∧ passes s0 .beryl (R.tblCtrl 1023) = true ∧ (s0.core 0).tblLoad = none
    ∧ s0.fld (R.tblAddr 0) F.tblAddr_slot < 16 ∧ s0.fld (R.tblAddr 0) F.tblAddr_word < slotWords := by
  refine ⟨v_of (engine_v _ _ _ _ (by decide +kernel)) (by decide +kernel), by decide +kernel⟩

theorem test_normalization_meets :
    vReady (sV (dw 2048 1 2 3 0) (dA 2) 0) g0 { fV 0 0 with b := 0 } {} ∧ vReady (sV (dD 1) (dA 2) 0x3F000000) g0 (fV 0 0) { b := true }
    ∧ (dOf (dw 2048 1 2 3 0)).fmt = .num .f32 ∧ (dOf (dA 2)).fmt = .num .f16 ∧ (dOf (dw 2048 1 2 3 0)).len = 2
    ∧ (dOf (dw 2048 1 2 3 0)).rows = (dOf (dA 2)).rows ∧ (dOf (dw 2048 1 2 3 0)).apart [dOf (dA 2)] = true
    ∧ (dOf (dD 1)).len = (dOf (dA 2)).len ∧ (dOf (dD 1)).rows = (dOf (dA 2)).rows ∧ (dOf (dD 1)).apart [dOf (dA 2)] = true := by
  refine ⟨v_of (engine_v _ _ _ _ (by decide +kernel)) (by decide +kernel), v_of (engine_v _ _ _ _ (by decide +kernel)) (by decide +kernel),
    by decide +kernel⟩

theorem test_softmax_meets :
    vReady (sV (dD 5) (dA 2) 0x3F000000) g0 (fV 0x20 5) { b := true, mask := true } ∧ smaxFmt (dOf (dD 5)).fmt = some .e5m2
    ∧ smaxFmt (dOf (dA 2)).fmt = some .f16 ∧ vMask (xV (dD 5) (dA 2) 0x3F000000) (fV 0x20 5) (dOf (dA 2)) = some (some (dOf dQ))
    ∧ (dOf (dD 5)).len = (dOf (dA 2)).len ∧ (dOf (dD 5)).apart [dOf (dA 2), dOf dQ] = true := by
  refine ⟨v_of (engine_v _ _ _ _ (by decide +kernel)) (by decide +kernel), by decide +kernel⟩

theorem test_vectorLongSums_meets :
    vReady (sV 2048 (dA 1) (dB 0)) g0 { fV 0 0 with a := 0, b := 0 } { a := false } ∧ recordOk ((xV 2048 (dA 1) (dB 0)).off 4) = true
    ∧ vReady (sV 2048 (dA 1) (dB 0)) g0 (fV 0x20 5) { b := true, mask := true }
    ∧ vReady (sV 2048 (dA 1) (dB 0)) g0 { fV 0x20 5 with b := 0 } { b := false, mask := true }
    ∧ vMask (xV 2048 (dA 1) (dB 0)) (fV 0x20 5) (dOf (dA 1)) = some (some (dOf dQ))
    ∧ (dOf (dA 1)).fmt = .num .f32 ∧ (dOf (dB 0)).fmt = .num .f64
    ∧ [dOf (dA 1), dOf (dB 0), dOf dQ].all (fun q => !Rng.meets (2048, recSize) q.span) = true
    ∧ vReady (sV 2048 3648 0) g0 { fV 0 0 with b := 0 } {} ∧ recordOk ((xV 2048 3648 0).off 2) = true
    ∧ Rng.meets (2048, recSize) (3648, recSize) = false ∧ vReady (sV 2048 3648 0) g0 { fV 0xB 0 with b := 0 } { m3 := true } := by
  refine ⟨v_of (engine_v _ _ _ _ (by decide +kernel)) (by decide +kernel), by decide +kernel,
    v_of (engine_v _ _ _ _ (by decide +kernel)) (by decide +kernel), v_of (engine_v _ _ _ _ (by decide +kernel)) (by decide +kernel),
    by decide +kernel, by decide +kernel, by decide +kernel, by decide +kernel,
    v_of (engine_v _ _ _ _ (by decide +kernel)) (by decide +kernel), by decide +kernel, by decide +kernel,
    v_of (engine_v _ _ _ _ (by decide +kernel)) (by decide +kernel)⟩

/-- A ledger parameter word: format 2, window 3. -/
def parLg : Word := Word.of (5 + 2 * 2 ^ 32 + 3 * 2 ^ 36)

theorem test_ledger_meets :
    vReady (sV 0 128 parLg) g0 (fV 8 5) { b := true, c := true, m3 := true, low := 0 } ∧ (fV 8 5).ieee = false
    ∧ (xV 0 128 parLg).off 2 % 128 = 0 ∧ (xV 0 128 parLg).off 2 + entryBytes ≤ opcSize ∧ (LgPar.of parLg).isSome = true
    ∧ vReady (sV 0 128 parLg) g0 (fV 0 0) { b := true, low := 0 } ∧ (fV 0 0).ieee = false := by
  refine ⟨v_of (engine_v _ _ _ _ (by decide +kernel)) (by decide +kernel), by decide +kernel, by decide +kernel, by decide +kernel,
    by decide +kernel, v_of (engine_v _ _ _ _ (by decide +kernel)) (by decide +kernel), by decide +kernel⟩

theorem test_masterUpdate_meets :
    vReady (sV (dD 1) (dA 3) 0x1000) g0 (fV 0x24 5) { b := true, mask := true, low := 4 } ∧ (dOf (dD 1)).fmt = .num .f32
    ∧ (dOf (dA 3)).fmt = .num .bf16 ∧ (dOf (dD 1)).apart [dOf (dA 3), dOf dQ] = true ∧ 0x1000 % 2 ^ 20 % 64 = 0
    ∧ 0x1000 + (dOf (dD 1)).rows * 64 ≤ opcSize
    ∧ (dOf (dD 1) :: dOf (dA 3) :: [dOf dQ]).all (fun z => !Rng.meets (0x1000, (dOf (dD 1)).rows * 64) z.span) = true := by
  refine ⟨v_of (engine_v _ _ _ _ (by decide +kernel)) (by decide +kernel), by decide +kernel⟩

theorem test_touchstone_meets :
    vReady (sV 0 (dA 2) (dB 1)) g0 (fV 0 5) { b := true, c := true, low := 0 } ∧ touchFmt (dOf (dA 2)).fmt = true
    ∧ (dOf (dB 1)).fmt = .num .f32 ∧ (dOf (dB 1)).n = (dOf (dA 2)).n ∧ passes s0 .beryl (R.tsCtrl 0) = true
    ∧ passes s0 .beryl (R.nsCtrl 0) = true ∧ passes s0 .beryl (SrReg.k1.reg 0) = true ∧ passes s0 .beryl (SrReg.k2.reg 0) = true
    ∧ s0.up (coreSite 0) = true ∧ s0.up (coreSite 1023) = true ∧ (s0.reg (R.nsRec 0 0)).getLsbD 0 = false
    ∧ ((s0.setReg (R.nsRec 0 0) 1).reg (R.nsRec 0 0)).getLsbD 0 = true := by
  refine ⟨v_of (engine_v _ _ _ _ (by decide +kernel)) (by decide +kernel), by decide +kernel⟩

/-! ## Witnesses: dies and links -/

/-- What a die with good straps (R16) reports. -/
def facts (straps : BitVec 7) (kind : BitVec 4) : DieFacts :=
  { answers := true, straps := straps, kind := kind, stepping := 4, caps := 0, selfTest := true, fw := none }
/-- Onyx and the spindle run, the other dies are held in reset. -/
def sCold : State :=
  let s := { State.reset with dies := [(0, upDie)], pwr := { State.reset.pwr with phase := .on } }
  s.setReg R.secStat (F.secStat_state.set 1 0)

theorem test_resetRelease_meets : sCold.mayRelease 1 = true ∧ (facts 81 1).strapFault = 0 ∧ (facts 81 1).selfTest = true
    ∧ (facts 81 1).answers = true ∧ ({ sCold with dies := [] } : State).mayRelease 0 = true ∧ (facts 64 0).strapFault = 0
    ∧ (facts 64 0).siteId = 0 ∧ (facts 64 0).stepping = 4 := by decide +kernel

theorem test_enumeration_meets :
    let d : DieSt := { facts := facts 81 1, released := true, accepted := true }
    let s := sCold.setDie 1 d
    s.up 0 = true ∧ (s.die 1).released = true ∧ (s.die 1).admitted = false
      ∧ ((s.die 1).accepted = true ∧ (s.die 1).facts.siteId = 0 + 1 ∧ steppingOk (siteKind (0 + 1)) (s.die 1).facts.stepping = true
        ∧ s.fld R.capsPkg F.capsPkg_caps &&& (s.die 1).facts.caps.toNat = s.fld R.capsPkg F.capsPkg_caps)
      ∧ ((sCold.setDie 1 { d with facts := facts 82 1 }).die 1).facts.siteId ≠ 0 + 1
      ∧ (sCold.die 1).released = false ∧ (sCold.die 1).held = false ∧ (sCold.die 1).out = false := by decide +kernel

def sLnk (k : LinkSt) : State := s0.setLnk 0 k

theorem test_linkTraining_meets : (LinkId.edge 0).ix = 0 ∧ ((sLnk {}).lnk 0).phase = .down ∧ ((sLnk {}).lnk 0).kick = false
    ∧ (sLnk {}).mayTrain 0 = true ∧ ((sLnk { phase := .hello }).lnk 0).phase = .hello
    ∧ (((sLnk { phase := .hello }).lnk 0).atEnd false).helloOk = false ∧ (2 : BitVec 4).toNat = linkSite 0 true
    ∧ (3 : BitVec 4).toNat ≠ linkSite 0 true ∧ ((sLnk { phase := .agree, fails := 1 }).lnk 0).fails < 2
    ∧ 2 ≤ ((sLnk { phase := .agree, fails := 2 }).lnk 0).fails := by decide +kernel

theorem test_linkFree_meets : linkFree (sLnk {}) 0 := fun h => absurd h (by decide)

theorem test_widthCommit_meets :
    let e : EndSt := { helloOk := true, good := 0xF, commitOk := true }
    let s := sLnk { phase := .agree, endA := { e with commitOk := false }, endB := e }
    (s.lnk 0).phase = .agree ∧ ((s.lnk 0).atEnd false).commitOk = false ∧ ((s.lnk 0).atEnd true).commitOk = true
      ∧ (0xF : BitVec 32).toNat = s.activeAt 0 false ∧ s.activeOk 0 (s.activeAt 0 false) = true
      ∧ (0x7 : BitVec 32).toNat ≠ s.activeAt 0 false := by decide +kernel

theorem test_linkUpkeep_meets : passes s0 .beryl (R.olCtrl 0) = true ∧ passes s0 .beryl (R.olCtrl 9) = true
    ∧ passes s0 .beryl (R.edgeCtrl 7 1) = true ∧ passes s0 .beryl R.linkCtrl = true
    ∧ ((sLnk { phase := .service }).lnk 0).phase = .service
    ∧ (((sLnk { phase := .service, endA := { resends := 2 ^ 16 } }).lnk 0).atEnd false).resends ≤ 2 ^ 16
    ∧ 2 ^ 16 < (((sLnk { phase := .service, endA := { resends := 2 ^ 16 + 1 } }).lnk 0).atEnd false).resends := by decide +kernel

theorem test_farDown_meets : linkFree { s0 with dies := [(0, upDie)] } 8 := fun _ => by decide +kernel

/-- Source 0 in use, source 1 standing by (R32). -/
def sLas : State := (s0.setReg (R.laser 0) (F.laser_role.set 1 0)).setReg (R.laser 1) (F.laser_role.set 0 0)

theorem test_laserSources_meets : sLas.laserRole 0 = 1 ∧ sLas.laserRole 0 ≠ 2 ∧ (∃ j, j < 4 ∧ j ≠ 0 ∧ sLas.laserRole j ≠ 2)
    ∧ (∃ j, j < 4 ∧ sLas.laserRole j = 0) ∧ sLas.flag R.laserThr F.laserThr_autoSwap = true
    ∧ sLas.fld R.laserThr F.laserThr_swapPct ≤ (255 : BitVec 8).toNat := by decide +kernel

/-! ## Witnesses: registers, interrupts, time and idle states -/

/-- A register of core 0 with one field, for privileged writers (R209): its stall limit. -/
def regOne : Nat := coreBase 0 + 0x18
def rowOne : RegRow := ((regRow regOne).map (·.1)).getD ⟨.core, 0, 1, 8, 1, 8, false, []⟩

theorem regOne_holds : holdsWrites regOne := by
  intro s m w
  rfl

theorem reaches_of {s : State} {m : Master} {a : Nat} {row : RegRow} (h : regCopy a = 0 ∧ a % 8 = 0 ∧ regRow a = some (row, false)
      ∧ filePage (a - a % 0x1000) = none ∧ s.canIssue m = true ∧ s.up (a / 0x1_0000_0000) = true
      ∧ ∀ cd, cd < 8 → a / 0x1_0000_0000 = cd + 1 → s.inI4 cd = false) : reaches s m a row := h

theorem test_registerAccess_meets : reaches s0 .beryl regOne rowOne ∧ reaches s0 (.accel 0) regOne rowOne
    ∧ rowOne.fields.all (fun f => !f.acc.gated (s0.isPriv .beryl) (s0.isSecure .beryl)) = true
    ∧ plainWritable rowOne.fields = true ∧ aliasWritable rowOne.fields = true ∧ (∀ f ∈ rowOne.fields, f.acc ≠ .w1p)
    ∧ s0.regOld regOne = s0.reg regOne
    ∧ (rowOne.fields.map (fun f => (f.acc, f.get 0xFF != f.get (s0.regOld regOne), f.legal (f.get 0xFF))) = [(.rwp, true, true)])
    ∧ s0.isPriv (.accel 0) = false := by
  refine ⟨reaches_of (by decide +kernel), reaches_of (by decide +kernel), by decide +kernel⟩

theorem test_badAccesses_meets : 0x500 < 0x100_0000_0000 ∧ filePage (0x500 - 0x500 % 0x1000) = none ∧ s0.canIssue .beryl = true
    ∧ s0.up 0 = true ∧ State.reset.up 0 = false ∧ (4 ≠ 8 ∨ 0x500 % 8 ≠ 0) ∧ 0x500 % 8 = 0 ∧ regRow (regPlain 0x500) = none
    ∧ passes s0 .beryl (R.violFirst 0) = true ∧ passes s0 .beryl (R.violFirst 10) = true := by decide +kernel

theorem test_interruptEntries_meets :
    let s := (s0.setReg (R.msiAddr 0 5) 0xE0910000000).setReg (R.msiCtrl 0 5) (F.msiCtrl_pend.set 1 0)
    passes s0 .beryl (MsiHalf.addr.reg 0 5) = true ∧ passes s0 .beryl (MsiHalf.ctrl.reg 10 255) = true
      ∧ s0.flag (R.msiCtrl 0 5) F.msiCtrl_pend = false ∧ s.flag (R.msiCtrl 0 5) F.msiCtrl_pend = true
      ∧ F.msiCtrl_mask.get 7 = 0 ∧ F.msiCtrl_ident.get 7 ≠ 0 ∧ passes s .beryl (MsiHalf.ctrl.reg 0 5) = true
      ∧ s.fileValid (s.fld (R.msiAddr 0 5) F.msiAddr_file) = true := by decide +kernel

theorem test_snapshots_meets : passes s0 .beryl (R.snapCtrl 10) = true ∧ passes s0 .beryl (R.snapCtrl 0) = true
    ∧ s0.flag (R.snapCtrl 0) F.snapCtrl_busy = false
    ∧ (let s := s0.setReg (R.snapCtrl 1) (F.snapCtrl_busy.set 1 0)
       s.flag (R.snapCtrl 1) F.snapCtrl_busy = true ∧ s.up 1 = true ∧ s.pkgSnap = none ∧ Sparse.wf regReset s.regs = true
         ∧ isCounter (R.veCntInstr 5) = true ∧ isHold (R.veCntInstr 5 + 0x2000) = true)
    ∧ 3 ∈ ({ tick := 2000, coming := [3], part := [0], done := [] } : PkgSnap).coming := by decide +kernel

theorem test_timebase_meets : s0.up 10 = true ∧ s0.flag R.tbCtrl F.tbCtrl_holdover = false
    ∧ (s0.setReg R.tbCtrl (F.tbCtrl_holdover.set 1 0)).flag R.tbCtrl F.tbCtrl_holdover = true
    ∧ [(60, 200)][0]? = some (60, 200) ∧ 620 ≤ (s0.setReg (R.paceStat 0) (F.paceStat_vcore.set 900 0)).fld (R.paceStat 0) F.paceStat_vcore
    ∧ (s0.setReg (R.paceStat 0) (F.paceStat_vcore.set 900 0)).fld (R.paceStat 0) F.paceStat_vcore ≤ 900
    ∧ s0.fld R.paceCap F.paceCap_tjMax ≤ 255 := by decide +kernel

theorem test_arbitration_meets : ([⟨1, 3⟩, ⟨2, 1⟩] : List HopRequest) ≠ [] := by decide

/-- Idle states are enabled to their deepest (R150, R151). -/
def sIdle : State :=
  (s0.setReg R.idleCtrl (F.idleCtrl_enable.set 1 (F.idleCtrl_unknownMax.set 4 0))).setReg (R.idleDie 0) (F.idleDie_maxState.set 4 0)

theorem test_idleEntry_meets : sIdle.cdUp (coreCd 3) = true ∧ sIdle.flag R.idleCtrl F.idleCtrl_enable = true ∧ sIdle.coreIdle 3 = 0
    ∧ 3 ∉ sIdle.waking ∧ sIdle.coreQuiet 3 = true ∧ (sIdle.core 3).mbuf = [] ∧ sIdle.inI4 0 = false ∧ sIdle.inI3 0 = false
    ∧ (∀ e ∈ sIdle.heldBy 0, e.2.st.dirty = false) ∧ (s0.setReg R.idleCtrl 0).flag R.idleCtrl F.idleCtrl_enable = false := by decide +kernel

def sAsleep : State := { sIdle with sleep := [(3, 2)] }
def sWaking : State := { sIdle with sleep := [(3, 2)], waking := [3] }
/-- Die 0 is in I4 and is waking. -/
def sDeep : State := { sIdle with waking := [dieUnit 0] }.setReg (R.idleDie 0) (F.idleDie_dieState.set 4 0)

theorem test_idleWakes_meets : sAsleep.slept 3 ≠ 0 ∧ sAsleep.coreIdle 3 = sAsleep.slept 3 ∧ 3 ∉ sAsleep.waking
    ∧ (({ sIdle with waking := [] } : State).setReg (R.idleDie 0) (F.idleDie_clI3.set 1 0)).inI3 0 = true
    ∧ sDeep.inI4 0 = true ∧ dieUnit 0 ∈ sDeep.waking ∧ sDeep.cdUp 0 = true ∧ 3 ∈ sWaking.waking := by decide +kernel

theorem test_wakeCompletes_meets : clear sWaking (Machine.idleWakeComplete (.core 3)) := ⟨by decide +kernel, by decide +kernel⟩

theorem test_wakeTimeout_meets : clear sDeep (Machine.i4WakeTimeout 0) := ⟨by decide +kernel, by decide +kernel⟩

/-! ## Witnesses: memory controllers -/

/-- The key of partition 0 is loaded on every die, and its range holds the first 8 MiB (R403 to R408). -/
def sm : State :=
  let v := F.mcPart_keyLoaded.set 1 (F.mcPart_enable.set 1 0)
  let s : State := { s0 with regs := (List.range 8).map (fun n => (R.mcPart n 0, v)), keys := [(0, 1), (8, 9)] }
  ((s.setPk (R.mcPart 0 0) (F.mcPart_enable.set 1 0)).setPk (R.rangeBase 0 0) (F.rangeBase_valid.set 1 0)).setPk
    (R.rangeLimit 0 0) (F.rangeLimit_limit.set 7 0)

theorem open_of {s : State} {tag : ReqTag} {pa cost : Nat} {write : Bool} (h : s.cdUp (s.place pa).cd = true
      ∧ s.inI4 (s.place pa).cd = false ∧ (if write then s.refusesWrite tag pa else s.refuses tag pa) = none
      ∧ (match s.payer tag pa with
          | some q => !s.flag (R.mcReg (s.place pa).cd (s.place pa).ctrl q) F.mcReg_enable
              || decide (cost ≤ s.fld (R.mcRegStat (s.place pa).cd (s.place pa).ctrl q) F.mcRegStat_tokens)
          | none => true) = true
      ∧ s.miss = [] ∧ s.redLine (pa / 128) = none ∧ (!write || !s.mirroring false) = true) : memOpen s tag pa cost write := by
  obtain ⟨h1, h2, h3, h4, h5, h6, h7⟩ := h
  refine ⟨h1, h2, h3, ?_, h5, h6, ?_⟩
  · intro q hq he
    rw [hq] at h4
    simpa [he] using h4
  · intro hw
    simpa [hw] using h7

def req (w : Option (List Byte)) : MemRequest := ⟨.part 0, 0x1008, w, .clean⟩

theorem test_controllerRequests_meets : (sm.place 0x1008).cd = 0 ∧ (sm.place 0x1008).ctrl = 0
    ∧ memOpen sm (.part 0) 0x1008 1 false ∧ memOpen sm (.part 0) 0x1008 (req (some [1, 2, 3, 4])).cost true
    ∧ sm.cwBad 0x1008 = false ∧ (sm.setBad 0x1008 true).cwBad 0x1008 = true ∧ memOpen (sm.setBad 0x1008 true) (.part 0) 0x1008 1 false
    ∧ 0x1008 % 64 + 56 ≤ 64 ∧ 0x1000 % 64 + 64 ≤ 64 ∧ sm.key (keyIndex sm.ranges 0x1008) ≠ 0
    ∧ (sm.refuses (.part 1) 0x1008).isSome = true ∧ (sm.refusesWrite (.part 1) 0x1008).isSome = true := by
  refine ⟨by decide +kernel, by decide +kernel, open_of (by decide +kernel), open_of (by decide +kernel), by decide +kernel, by decide +kernel,
    open_of (by decide +kernel), by decide +kernel⟩

/-- A regulator that is on and empty. -/
def smReg : State := sm.setReg (R.mcReg 0 0 0) (F.mcReg_enable.set 1 0)

theorem test_regulatorHolds_meets : smReg.cdUp 0 = true ∧ smReg.inI4 0 = false ∧ smReg.refuses (.part 0) 0x1008 = none
    ∧ smReg.refusesWrite (.part 0) 0x1008 = none ∧ smReg.flag (R.mcReg 0 0 0) F.mcReg_enable = true
    ∧ smReg.flag (R.mcReg 0 0 0) F.mcReg_wc = false ∧ smReg.fld (R.mcRegStat 0 0 0) F.mcRegStat_tokens < (req none).cost
    ∧ ({ sm with dies := [(0, upDie)] } : State).cdUp (({ sm with dies := [(0, upDie)] } : State).place 0x1008).cd = false := by
  decide +kernel

theorem test_sliverAccesses_meets : memOpen sm (.part 0) 0x1008 2 true ∧ sm.dirEnt (0x1008 / 128) = {} ∧ sm.cwBad 0x1008 = false :=
  ⟨open_of (by decide +kernel), by decide +kernel, by decide +kernel⟩

def sLocked : State := s0.setPk (R.mcCtrl 0) (F.mcCtrl_mapLock.set 1 0)

theorem test_controllerUpkeep_meets : passes s0 .onyx (R.mcMap 0 7) = true ∧ passes s0 .onyx (R.mcCtrl 7) = true
    ∧ F.mcCtrl_mapLock.get (s0.pk (R.mcCtrl 0)) = 0 ∧ F.mcCtrl_mapLock.get (sLocked.pk (R.mcCtrl 0)) = 1
    ∧ passes sLocked .onyx (R.mcMap 0 7) = true ∧ passes sLocked .onyx (R.mcCtrl 0) = true ∧ s0.cdUp 7 = true := by decide +kernel

theorem test_patrolScrub_meets :
    let s := sm.setReg (R.eccCtrl 0) (F.eccCtrl_scrubEn.set 1 0)
    (s.place 0x1008).cd = 0 ∧ (s.place 0x1008).ctrl = 0 ∧ s.cdUp 0 = true ∧ s.inI4 0 = false
      ∧ s.flag (R.eccCtrl (s.place 0x1008).cd) F.eccCtrl_scrubEn = true ∧ s.cwBad 0x1008 = false ∧ s.mirroring true = false
      ∧ s.mirroring false = false := by decide +kernel

/-- A run over the first 8 MiB of die 1. -/
def zRun : ZeroRun := { cd := 1, lo := 0, hi := 2 ^ 23, ranges := [], keys := [], named := none }

theorem test_zeroization_meets : passes sm .onyx (R.zeroCtrl 1) = true ∧ sm.flag (R.zeroCtrl 1) F.zeroCtrl_go = false
    ∧ ({ sm with zero := [zRun] } : State).zero.find? (fun z => decide (z.cd = 1)) = some zRun ∧ sm.wv.freed = []
    ∧ sm.mirroring false = false ∧ sm.ranges.filter (fun r => decide (r.lo < 2 ^ 21) && decide (0 < r.hi)) ≠ [] := by decide +kernel

/-! ## Witnesses: caches and coherence -/

/-- The L2 of cluster 8, on the die that line 32 has its home on, is enabled. -/
def sCoh : State := ((sm.setReg (R.l2Stat 0) (F.l2Stat_enabled.set 1 0))).setReg R.capsPkg 1
def lnC : Nat := 32
def agC : Nat := agentAt sCoh 0 lnC

theorem coh_of {s : State} {h line : Nat} (h1 : s.up (holderSite h) = true ∧ s.cacheOn h = true)
    (h2 : h = xlIx ∨ s.path (holderSite h) (s.home line) = .direct ∧ (agentOf (s.home line) h).isSome = true)
    (h3 : memOpen s (s.holderTag h) (linePa line) 2 false)
    (h4 : (s.dir.filter (fun e => decide (e.1 % dirSets = line % dirSets) && decide (s.home e.1 = s.home line))).length < 16) :
    cohReady s h line := ⟨h1.1, h1.2, h2, h3, h4⟩

theorem test_coherentReads_meets : cohReady sCoh 0 lnC ∧ (sCoh.cline 0 lnC).st = .i ∧ sCoh.dirEnt lnC = {}
    ∧ (sCoh.cwBad (linePa lnC) = false ∧ sCoh.cwBad (linePa lnC + 64) = false) :=
  ⟨coh_of (by decide +kernel) (by decide +kernel) (open_of (by decide +kernel)) (by decide +kernel), by decide +kernel⟩

/-- A clean copy of which the cache is the only sharer, and a dirty one of which it is the owner. -/
def sShared : State := (sCoh.setCline 0 lnC { st := .s, val := ⟨7, 0⟩ }).setDir lnC .s 0 (agentBit agC)
def sOwned : State := (sCoh.setCline 0 lnC { st := .m, val := ⟨7, 0⟩ }).setDir lnC .m agC 0

theorem test_hits_meets : sShared.up (holderSite 0) = true ∧ sShared.cacheOn 0 = true ∧ sShared.miss = []
    ∧ (sShared.cline 0 lnC).val.poison = 0 ∧ (sShared.cline 0 lnC).st ≠ .i ∧ (sOwned.cline 0 lnC).st = .m := by decide +kernel

theorem test_upgrade_meets : cohReady sShared 0 lnC ∧ (sShared.cline 0 lnC).st = .s ∧ (sShared.dirEnt lnC).st = .s
    ∧ (sShared.dirEnt lnC).sharers = agentBit (agentAt sShared 0 lnC) :=
  ⟨coh_of (by decide +kernel) (by decide +kernel) (open_of (by decide +kernel)) (by decide +kernel), by decide +kernel⟩

def missC : Miss := ⟨0, lnC, .m, ⟨7, 0⟩, 7⟩
def sMiss : State := { sCoh with miss := [missC] }

theorem test_missFill_meets : sMiss.miss = [missC] ∧ missC.secs < 8 ∧ missC.val.poison = 0 ∧ missC.st ≠ .i ∧ sMiss.cacheOn 0 = true
    ∧ (∃ w ∈ sMiss.waysOf 0 .host, ∀ e ∈ sMiss.inSet 0 lnC, e.2.way ≠ w) ∧ sMiss.up (holderSite 0) = true := by decide +kernel

theorem wb_of {s : State} {line : Nat} (h : s.cdUp (s.place (linePa line)).cd = true ∧ s.inI4 (s.place (linePa line)).cd = false
      ∧ s.redLine line = none ∧ s.miss = []) (hr : (match rangeAt s.ranges (linePa line) with
        | some r => !s.flag (R.mcReg (s.place (linePa line)).cd (s.place (linePa line)).ctrl (r.owner % 8)) F.mcReg_enable
        | none => true) = true)
    (hm : s.mirroring true = false ∧ s.mirroring false = false ∧ s.key (keyIndex s.ranges (linePa line)) ≠ 0) : wbOpen s line := by
  refine ⟨h.1, h.2.1, h.2.2.1, h.2.2.2, ?_, hm⟩
  intro r hq he
  rw [hq] at hr
  simp [he] at hr

theorem test_writebacks_meets : cohReady sOwned 0 lnC ∧ wbOpen sOwned lnC ∧ (sOwned.cacheLive 0 = true ∧ (sOwned.sub lnC).mask = 0
    ∧ (sOwned.sub lnC).owner = none ∧ (sOwned.cline 0 lnC).st = .m ∧ (sOwned.cline 0 lnC).val.poison = 0
    ∧ (sOwned.dirEnt lnC).st = .m ∧ (sOwned.dirEnt lnC).owner = agentAt sOwned 0 lnC ∧ (sOwned.dirEnt lnC).sharers = 0
    ∧ sOwned.mosi = true ∧ 0 ≠ xlIx ∧ sShared.cacheLive 0 = true ∧ SnoopKind.inval ≠ .share) :=
  ⟨coh_of (by decide +kernel) (by decide +kernel) (open_of (by decide +kernel)) (by decide +kernel),
    wb_of (by decide +kernel) (by decide +kernel) (by decide +kernel), by decide +kernel⟩

/-- Host masters may reach the range; the far cache is off. -/
def sHost : State :=
  (sm.setPk (R.rangeBase 0 0) (F.rangeBase_host.set 1 (F.rangeBase_valid.set 1 0))).setReg R.ctxBase (F.ctxBase_enable.set 1 0)

theorem unc_of {s : State} {r : Requester} {line cost : Nat} {write : Bool} (h : s.up r.site = true)
    (ho : memOpen s (s.requesterTag r line) (linePa line) cost write)
    (hp : s.path r.site (s.home line) = .direct
        ∨ (s.path r.site (s.home line) = .far ∧ (s.sub line).owner = none ∧ s.cacheOn xlIx = false))
    (hd : (s.dirEnt line).sharers = 0 ∧ ((s.dirEnt line).st = .u ∨ (s.dirEnt line).st = .s)) : uncReady s r line cost write :=
  ⟨h, ho, hp, hd.1, hd.2⟩

theorem test_uncachedRequests_meets : uncReady sHost (.host ⟨0, 0⟩) lnC 2 false ∧ uncReady sHost .onyx lnC 2 true
    ∧ uncReady sHost (.host ⟨1, 47⟩) lnC (wrCost 5) true ∧ sHost.key (keyIndex sHost.ranges (linePa lnC)) ≠ 0
    ∧ sHost.cwBad (linePa lnC) = false ∧ sHost.cwBad (linePa lnC + 64) = false :=
  ⟨unc_of (by decide +kernel) (open_of (by decide +kernel)) (by decide +kernel) (by decide +kernel),
    unc_of (by decide +kernel) (open_of (by decide +kernel)) (by decide +kernel) (by decide +kernel),
    unc_of (by decide +kernel) (open_of (by decide +kernel)) (by decide +kernel) (by decide +kernel), by decide +kernel⟩

/-- Host die 0 owns the line. -/
def sCbo : State :=
  ((sHost.setCline 72 lnC { st := .m, val := ⟨5, 0⟩ }).setSub lnC ⟨.m, some 72, subBit 72⟩).setDir lnC .m 27 0

theorem test_cacheBlocks_meets : sCbo.up (9 + 0) = true ∧ sCbo.miss = [] ∧ (sHost.cline 72 lnC).st.dirty = false
    ∧ (sCbo.cline 72 lnC).st.dirty = true ∧ (sCbo.cline 72 lnC).val.poison = 0 ∧ sCbo.path 9 (sCbo.home lnC) = .far
    ∧ sCbo.cacheOn xlIx = false ∧ (sCbo.sub lnC).owner = some 72 ∧ (sCbo.dirEnt lnC).st = .m ∧ (sCbo.dirEnt lnC).owner = 27
    ∧ (sCbo.dirEnt lnC).sharers = 0
    ∧ (sCbo.dir.filter (fun e => decide (e.1 % dirSets = lnC % dirSets) && decide (sCbo.home e.1 = sCbo.home lnC))).length < 16
    ∧ (sCbo.cline 72 lnC).st = .m ∧ 0x1000 / 128 = lnC := by decide +kernel

theorem test_hostOwned_meets : wbOpen sCbo lnC := wb_of (by decide +kernel) (by decide +kernel) (by decide +kernel)

theorem test_cacheCommands_meets : passes s0 .onyx (R.l1Ctrl 0 3) = true ∧ passes s0 .onyx (R.l2Cmd 63) = true
    ∧ passes s0 .onyx (R.l2Ctrl 63) = true ∧ passes s0 .onyx R.xlCmd = true ∧ passes s0 .onyx R.xlCtrl = true
    ∧ (s0.core 3).mbuf = [] ∧ s0.flag (R.l1Ctrl 0 3) F.l1Ctrl_invDone = false ∧ s0.flag (R.l1Ctrl 0 3) F.l1Ctrl_enable = false
    ∧ (s0.setReg (R.l1Ctrl 0 3) (F.l1Ctrl_invDone.set 1 0)).flag (R.l1Ctrl 0 3) F.l1Ctrl_invDone = true
    ∧ s0.flag (R.l2Ctrl 0) F.l2Ctrl_enable = false ∧ s0.flag (R.l2Stat 0) F.l2Stat_disabling = false
    ∧ s0.flag (R.l2Cmd 0) F.l2Cmd_busy = false ∧ s0.flag (R.l2Cmd 0) F.l2Cmd_invDone = false
    ∧ (s0.setReg (R.l2Cmd 0) (F.l2Cmd_busy.set 1 0)).flag (R.l2Cmd 0) F.l2Cmd_busy = true
    ∧ (s0.setReg (R.l2Cmd 0) (F.l2Cmd_invDone.set 1 0)).flag (R.l2Cmd 0) F.l2Cmd_invDone = true
    ∧ (s0.setReg (R.l2Stat 0) (F.l2Stat_disabling.set 1 0)).flag (R.l2Stat 0) F.l2Stat_disabling = true
    ∧ sOwned.cacheLive 0 = true ∧ sOwned.dirtyOf 0 = [(lnC, sOwned.cline 0 lnC)] ∧ s0.dirtyOf 0 = [] ∧ s0.dirtyOf xlIx = [] := by
  decide +kernel

theorem test_cleanReady_meets : cleanReady sOwned 0 :=
  Or.inr ⟨lnC, by decide +kernel, test_writebacks_meets.2.1, by decide +kernel, by decide +kernel, by decide +kernel, by decide +kernel,
    by decide +kernel, by decide +kernel⟩

theorem test_tileMemory_meets :
    let s := (s0.setCline 0 5 { st := .s, way := 13 }).setCline 0 6 { st := .s, way := 3 }
    passes s .onyx (R.l2Ctrl 0) = true ∧ s.flag (R.l2Stat 0) F.l2Stat_enabled = false ∧ F.l2Ctrl_tilePairs.legal 6 = true
      ∧ 6 ≠ s.fld (R.l2Ctrl 0) F.l2Ctrl_tilePairs ∧ Sparse.wf (fun _ => ({} : CacheLine)) s.lines = true
      ∧ (∀ e ∈ s.heldBy 0, 16 - 2 * 6 ≤ e.2.way → e.2.st.dirty = false)
      ∧ (s0.setReg (R.l2Stat 0) (F.l2Stat_tileChanging.set 1 0)).flag (R.l2Stat 0) F.l2Stat_tileChanging = true ∧ s0.tileWait = []
      ∧ sMem.up (coreSite 0) = true ∧ (tileBase + 2 ^ 32 + 125) % 128 + 3 ≤ 128 ∧ s0.tileSize 0 ≤ 0 := by decide +kernel

theorem test_tileServed_meets : tileServes sMem 0 (tileBase + 2 ^ 32 + 125) := serves_of 0 125 (by decide +kernel)

theorem test_twinCopyExpiry_meets : ((s0.setCline xlIx (twinLine 0x1000) { st := .s, fill := 50 }).cline xlIx (twinLine 0x1000)).st ≠ .i := by
  decide +kernel

/-! ## Witnesses: translation and faults -/

/-- Memory with a doubleword put in place. -/
def putD (s : State) (pa w : Nat) : State :=
  s.cwStore (pa / 64 * 64) (mergeBytes 64 (s.cwData (pa / 64 * 64)) (w * 2 ^ (8 * (pa % 64))) (255 * 2 ^ (pa % 64)))

theorem lineReads_of {s : State} {site line : Nat} {tag : ReqTag} (ho : memOpen s tag (linePa line) 2 false)
    (hp : s.path site (s.home line) = .direct
      ∨ (s.path site (s.home line) = .far ∧ (s.sub line).owner = none ∧ s.cacheOn xlIx = false))
    (hd : ((s.dirEnt line).st = .u ∨ (s.dirEnt line).st = .s) ∧ s.cwBad (linePa line) = false ∧ s.cwBad (linePa line + 64) = false) :
    lineReads s site tag line := ⟨ho, hp, hd.1, hd.2⟩

theorem offReg_of {s : State} {line : Nat} (h : (match s.payer .host (linePa line) with
      | some q => !s.flag (R.mcReg (s.place (linePa line)).cd (s.place (linePa line)).ctrl q) F.mcReg_enable
      | none => true) = true) :
    ∀ q, s.payer .host (linePa line) = some q →
      s.flag (R.mcReg (s.place (linePa line)).cd (s.place (linePa line)).ctrl q) F.mcReg_enable = false := by
  intro q hq
  rw [hq] at h
  simpa using h

theorem table_of {s : State} {site pa : Nat} {x : Word} (h : pa < 2 ^ 40 ∧ pa % 8 = 0) (hr : lineReads s site .host (pa / 128))
    (hq : (match s.payer .host (linePa (pa / 128)) with
      | some q => !s.flag (R.mcReg (s.place (linePa (pa / 128))).cd (s.place (linePa (pa / 128))).ctrl q) F.mcReg_enable
      | none => true) = true)
    (hx : x = Word.of (bits (s.memLine (pa / 128)).data.toNat (8 * (pa % 128)) 64)) : tableHolds s site pa x :=
  ⟨h.1, h.2, hr.1, offReg_of hq, hr.2.1, hr.2.2.1, hr.2.2.2, hx⟩

/-- A translation of context 7 by tables at 0x4000, 0x8000 and 0xC000. -/
def vaT : Nat := 0x10ABC
def sTab : State :=
  let s := putD (putD (putD sHost 0x4000 (0x8000 + 3)) 0x8000 (0xC000 + 3)) 0xC008 (0x1230000 + 1 + 4 + 0x20)
  s.setWalker 3 { ctxs := [⟨7, 0, false, 0x4000, 5⟩] }
def rqT (write : Bool) : WalkRequest := ⟨7, BitVec.ofNat 48 vaT, write, false⟩

theorem lineReads_tab (line : Nat) (h : line = 0x4000 / 128 ∨ line = 0x8000 / 128 ∨ line = 0xC008 / 128) :
    lineReads sTab (walkerSite 3) .host line := by
  rcases h with rfl | rfl | rfl <;>
    exact lineReads_of (open_of (by decide +kernel)) (by decide +kernel) (by decide +kernel)

theorem test_tableWalks_meets : sTab.up (walkerSite 3) = true ∧ sTab.flag R.ctxBase F.ctxBase_enable = true
    ∧ (sTab.walker 3).ctxs.find? (fun e => decide (e.ctx = 7)) = some ⟨7, 0, false, 0x4000, 5⟩
    ∧ sTab.fld (R.l2Stat 3) F.l2Stat_part = 0 ∧ (sTab.walker 3).tlb = [] ∧ (sTab.walker 3).ptrs = [] ∧ sTab.shoot = none
    ∧ (sTab.walker 3).tlb.length < tlbCap 3
    ∧ (leafEnt 7 vaT (0x1230000 + 1 + 4 + 0x20) 3).denies .read false = none
    ∧ ((leafEnt 7 vaT (0x1230000 + 1 + 4 + 0x20) 3).denies .write false).isSome = true
    ∧ (leafEnt 7 vaT (0x1230000 + 1 + 4 + 0x20) 3).covers 7 vaT = true := by decide +kernel

theorem test_walksTo_meets : walksTo sTab (walkerSite 3) vaT 3 1 0x4000 (0x1230000 + 1 + 4 + 0x20) 3 := by
  refine ⟨Word.of (0x8000 + 3), table_of (by decide) (lineReads_tab _ (by decide)) (by decide +kernel) (by decide +kernel), by decide +kernel, Or.inl ⟨by decide +kernel, by decide +kernel, ?_⟩⟩
  refine ⟨Word.of (0xC000 + 3), table_of (by decide) (lineReads_tab _ (by decide)) (by decide +kernel) (by decide +kernel), by decide +kernel, Or.inl ⟨by decide +kernel, by decide +kernel, ?_⟩⟩
  exact ⟨Word.of (0x1230000 + 1 + 4 + 0x20), table_of (by decide) (lineReads_tab _ (by decide)) (by decide +kernel) (by decide +kernel), by decide +kernel, Or.inr ⟨by decide +kernel, by decide +kernel, by decide +kernel, rfl⟩⟩

/-- A shootdown in progress; the entry of its context is in memory. -/
def sShoot : State :=
  { putD (putD (putD sHost 224 1) 232 0x4000) 240 9 with
      dies := [(0, upDie), (1, upDie)], shoot := some ⟨7, 0, 2 ^ 32, 0⟩ }

theorem test_shootdown_meets : passes s0 .onyx R.shootCtrl = true ∧ s0.flag R.shootStat F.shootStat_busy = false
    ∧ (s0.setReg R.shootStat (F.shootStat_busy.set 1 0)).flag R.shootStat F.shootStat_busy = true
    ∧ passes (s0.setReg R.shootStat (F.shootStat_busy.set 1 0)) .onyx R.shootCtrl = true
    ∧ Sparse.wf (fun _ => ({} : WalkerSt)) s0.walk = true ∧ sShoot.shoot = some ⟨7, 0, 2 ^ 32, 0⟩
    ∧ ({ s0 with shoot := some ⟨7, 0, 1, 0⟩ } : State).flag R.ctxBase F.ctxBase_enable = false
    ∧ sShoot.flag R.ctxBase F.ctxBase_enable = true ∧ (ctxOf 7 (Word.of 1) (Word.of 0x4000) (Word.of 9) 0).isSome = true
    ∧ sShoot.fld R.ctxBase F.ctxBase_base * 2 ^ 13 + 32 * 7 = 224 := by decide +kernel

theorem test_shootdownTables_meets (w : Nat) (hw : w < 73) (hu : sShoot.up (walkerSite w) = true) :
    tableHolds sShoot (walkerSite w) 224 (Word.of 1) ∧ tableHolds sShoot (walkerSite w) 232 (Word.of 0x4000)
      ∧ tableHolds sShoot (walkerSite w) 240 (Word.of 9) ∧ tableHolds sShoot (walkerSite w) 248 0 := by
  have hp : ∀ w : Fin 73, sShoot.up (walkerSite w) = true → sShoot.path (walkerSite w) (sShoot.home 1) = .direct
      ∨ (sShoot.path (walkerSite w) (sShoot.home 1) = .far ∧ (sShoot.sub 1).owner = none ∧ sShoot.cacheOn xlIx = false) := by
    decide +kernel
  have hl : lineReads sShoot (walkerSite w) .host 1 :=
    lineReads_of (open_of (by decide +kernel)) (hp ⟨w, hw⟩ hu) (by decide +kernel)
  exact ⟨table_of (by decide) hl (by decide +kernel) (by decide +kernel), table_of (by decide) hl (by decide +kernel) (by decide +kernel),
    table_of (by decide) hl (by decide +kernel) (by decide +kernel), table_of (by decide) hl (by decide +kernel) (by decide +kernel)⟩

theorem test_shootdownWalker_meets : sShoot.up (walkerSite 0) = true := by decide +kernel

/-! Fault queues. -/

def fltA : XlFault := ⟨⟨0, 7, 1, 0⟩, 0x10ABC, 1, 3, 0, 5, 77, 3, .arising⟩
/-- A fault of core 5 arises; the queue of partition 0 is open. -/
def sArr : State :=
  (sHost.setUnitFault 5 (some fltA)).setReg (R.fqBase 0) (F.fqBase_enable.set 1 (F.fqBase_sizeLog2.set 12 (F.fqBase_base.set 2 0)))
/-- The queue already holds an entry of the fault's key, beyond what it has room for. -/
def qPend : FqSt := { pend := [⟨0, fltA.key, 1⟩] }
def sMerge : State := sHost.setUnitFault 5 (some fltA) |>.setReg (R.fqCons 0) 1
def sMerge' : State := { sMerge with fq := [(0, qPend)] }

theorem hubOpen_of {s : State} {pa n : Nat} (h : regionOf pa = .dram ∧ pa % 128 + n ≤ 128 ∧ s.refuses .host pa = none)
    (hu : uncReady s .onyx (pa / 128) (wrCost (spanOf pa n)) true)
    (hl : s.cwBad (linePa (pa / 128)) = false ∧ s.cwBad (linePa (pa / 128) + 64) = false)
    (hk : s.key (keyIndex s.ranges (linePa (pa / 128))) ≠ 0) : hubOpen s pa n := ⟨h.1, h.2.1, h.2.2, hu, hl, hk⟩

theorem test_faultArrivals_meets : sArr.unitFault (FaultUnit.core 5).ix = some fltA ∧ fltA.stand = .arising ∧ fltA.key.part < 8
    ∧ (sArr.fqueue 0).find fltA.key = none ∧ sArr.fqOpen 0 = true ∧ sMerge.unitFault 5 = some fltA
    ∧ sMerge.fqOpen 0 = false ∧ (sMerge.fqueue 0).find fltA.key = none
    ∧ sMerge'.unitFault 5 = some fltA ∧ (sMerge'.fqueue 0).find fltA.key = some ⟨0, fltA.key, 1⟩
    ∧ 2 ^ sMerge'.fld (R.fqBase 0) F.fqBase_sizeLog2 ≤ (0 + 2 ^ 32 - sMerge'.fld (R.fqCons 0) F.fqCons_cons) % 2 ^ 32 := by decide +kernel

theorem test_faultEntry_meets : hubOpen sArr (sArr.fqAddr 0 (sArr.fld (R.fqProd 0) F.fqProd_prod)) 32 :=
  hubOpen_of (by decide +kernel)
    (unc_of (by decide +kernel) (open_of (by decide +kernel)) (by decide +kernel) (by decide +kernel))
    (by decide +kernel) (by decide +kernel)

/-- Entry 0 of the queue is pending: core 5's group 3 waits on it, or a shuttle engine does. -/
def fltP : XlFault := { fltA with stand := .pending 0 }
def sRes : State :=
  let a : State := { s0 with fq := [(0, { pend := [⟨0, fltA.key, 1⟩] })], ufault := [(5, some fltP)] }
  (a.setReg (R.fqProd 0) 1).setGrp ⟨5, 3⟩ { x0 with wait := .fault }
def eT : SeRef := .cd 0 2
def dT : SeDesc := { idx := 4, words := [], fetched := 0, start := some 3 }
def sResSe : State := { sRes with ufault := [(seUnit eT.ix, some fltP)] }.setSeSt eT.ix { queue := [dT] }

theorem test_resolves_meets : (sRes.fqueue 0).held = [] ∧ passes sRes .onyx R.fqResolve = true
    ∧ (sRes.fqueue 0).pend.find? (fun x => decide (x.idx = 4)) = none
    ∧ (sRes.fqueue 0).pend.find? (fun x => decide (x.idx = 0)) = some ⟨0, fltA.key, 1⟩
    ∧ sRes.ufault = [((5 : CoreIx).val, some fltP)] ∧ fltP.key.part = 0 ∧ fltP.stand = .pending 0 ∧ fltP.slot < 256
    ∧ (sRes.grp ⟨5, Fin.ofNat 256 fltP.slot⟩).wait = .fault ∧ passes sRes .onyx (R.fqCons 0) = true
    ∧ passes sRes .onyx (R.fqBase 0) = true ∧ sRes.flag (R.fqBase 0) F.fqBase_enable = false
    ∧ (s0.setReg (R.fqBase 0) (F.fqBase_enable.set 1 0)).flag (R.fqBase 0) F.fqBase_enable = true
    ∧ sResSe.ufault = [(seUnit eT.ix, some fltP)] ∧ (sResSe.seSt eT.ix).fetching = none ∧ (sResSe.seSt eT.ix).front = some dT
    ∧ dT.start.isSome = true ∧ (sResSe.fqueue 0).pend = [⟨0, fltA.key, 1⟩] := by decide +kernel

/-! ## Witnesses: shuttle engines -/

/-- Engine 2 of die 0 runs a ring of 16 descriptors at 0x10000, with FETCH 2 and PROD 5. -/
def pgT (page pa : Nat) : TlbEnt := ⟨7, page, 1, pa, true, true, true, 1, 0, 3⟩
def sEng : State :=
  ((((sHost.setReg eT.ctrl (F.seCtrl_enable.set 1 (F.seCtrl_ctx.set 7 (F.seCtrl_ringLog2.set 4 0)))).setReg eT.ring
    (F.seRing_ring.set (0x10000 / 64) 0)).setReg eT.db (F.seDb_prod.set 5 (F.seDb_fetch.set 2 0)))).setWalker eT.walker
      { ctxs := [⟨7, 0, false, 0x4000, 5⟩], tlb := [pgT 1 0x10000, pgT 2 0x20000] }

theorem test_engineCommands_meets : passes sEng .onyx eT.db = true ∧ passes sEng .onyx eT.cmd = true ∧ passes sEng .onyx eT.ctrl = true
    ∧ (9 + 2 ^ 32 - sEng.fld eT.db F.seDb_fetch) % 2 ^ 32 ≤ 2 ^ sEng.fld eT.ctrl F.seCtrl_ringLog2
    ∧ 2 ^ sEng.fld eT.ctrl F.seCtrl_ringLog2 < (90 + 2 ^ 32 - sEng.fld eT.db F.seDb_fetch) % 2 ^ 32
    ∧ sEng.unitFault (seUnit eT.ix) = none ∧ sResSe.unitFault (seUnit eT.ix) = some fltP ∧ fltP.stand ≠ .held
    ∧ passes sResSe .onyx eT.cmd = true := by decide +kernel

/-- A good COPY descriptor (8 bytes within the page at 0x20000) at entry 2, and a bad one with a reserved bit. -/
def sGood : State := putD (putD (putD sEng 0x10088 0x20000) 0x10090 0x20100) 0x10098 7
def sBadD : State := putD sEng 0x10080 0x10000
def descAt (s : State) : SeDesc :=
  { idx := 2, fetched := s.tick, words := wordsOf 8 (bits (s.memLine (0x10080 / 128)).data.toNat (8 * (0x10080 % 128)) 512) }

theorem seMaps_of {s : State} {e : SeRef} {t : TlbEnt} {acc : XAcc} {va : Nat} (c : CtxEnt)
    (h : s.flag R.ctxBase F.ctxBase_enable = true
      ∧ (s.walker e.walker).ctxs.find? (fun c => decide (c.ctx = s.fld e.ctrl F.seCtrl_ctx)) = some c ∧ c.part = s.sePart e
      ∧ (s.walker e.walker).tlb.find? (fun t => t.covers (s.fld e.ctrl F.seCtrl_ctx) va) = some t
      ∧ t.denies acc (s.flag e.ctrl F.seCtrl_hostAccess) = none ∧ regionOf (t.addr va) = .dram) : seMaps s e t acc va :=
  ⟨h.1, ⟨c, h.2.1, h.2.2.1⟩, h.2.2.2⟩

theorem test_descriptorFetch_meets (s : State) (hs : s = sGood ∨ s = sBadD) :
    s.seFetches eT = true ∧ (s.seSt eT.ix).fetching = none ∧ s.fld eT.db F.seDb_fetch ≠ s.fld eT.db F.seDb_prod
    ∧ (s.seSt eT.ix).queue.length < 256 ∧ (pgT 1 0x10000).addr 0x10080 % 64 = 0 ∧ (pgT 1 0x10000).addr 0x10080 = 0x10080
    ∧ s.fld eT.ring F.seRing_ring * 64 + 64 * (s.fld eT.db F.seDb_fetch % 2 ^ s.fld eT.ctrl F.seCtrl_ringLog2) = 0x10080
    ∧ s.unitFault (seUnit eT.ix) = none ∧ seMaps s eT (pgT 1 0x10000) .read 0x10080
    ∧ lineReads s eT.site (s.seTag eT) (0x10080 / 128) := by
  rcases hs with rfl | rfl
  · exact ⟨by decide +kernel, by decide +kernel, by decide +kernel, by decide +kernel, by decide +kernel, by decide +kernel, by decide +kernel, by decide +kernel,
      seMaps_of ⟨7, 0, false, 0x4000, 5⟩ (by decide +kernel), lineReads_of (open_of (by decide +kernel)) (by decide +kernel) (by decide +kernel)⟩
  · exact ⟨by decide +kernel, by decide +kernel, by decide +kernel, by decide +kernel, by decide +kernel, by decide +kernel, by decide +kernel, by decide +kernel,
      seMaps_of ⟨7, 0, false, 0x4000, 5⟩ (by decide +kernel), lineReads_of (open_of (by decide +kernel)) (by decide +kernel) (by decide +kernel)⟩

theorem test_descriptorsReadOut_meets : (descAt sBadD).bad = true ∧ (descAt sGood).bad = false
    ∧ (sGood.seSt eT.ix).used + (descAt sGood).pages.length ≤ 16384 ∧ (descAt sGood).pages = [(2, .read), (2, .write)] := by decide +kernel

theorem covers_page (o : Nat) (h : o < 2 ^ 16) : (pgT 2 0x20000).covers 7 (2 * 2 ^ 16 + o) = true
    ∧ (pgT 1 0x10000).covers 7 (2 * 2 ^ 16 + o) = false ∧ regionOf ((pgT 2 0x20000).addr (2 * 2 ^ 16 + o)) = .dram := by
  have h1 : (2 * 2 ^ 16 + o) / 2 ^ 16 = 2 := by omega
  refine ⟨by unfold TlbEnt.covers; rw [h1]; rfl, by unfold TlbEnt.covers; rw [h1]; rfl, ?_⟩
  exact if_pos (show 0x20000 + (2 * 2 ^ 16 + o - 2 * 2 ^ 16) < 2 ^ 40 by omega)

theorem test_descriptorPages_meets : ∀ q ∈ (descAt sGood).pages,
    q.1 < 2 ^ 32 ∧ ∃ y, ∀ o, o < 2 ^ 16 → seMaps sGood eT y q.2 (q.1 * 2 ^ 16 + o) := by
  intro q hq
  rw [show (descAt sGood).pages = [(2, .read), (2, .write)] from by decide +kernel] at hq
  have hc : sGood.fld eT.ctrl F.seCtrl_ctx = 7 := by decide +kernel
  have ht : (sGood.walker eT.walker).tlb = [pgT 1 0x10000, pgT 2 0x20000] := by decide +kernel
  have hw : sGood.flag R.ctxBase F.ctxBase_enable = true ∧ (sGood.walker eT.walker).ctxs.find? (fun c => decide (c.ctx = 7))
      = some ⟨7, 0, false, 0x4000, 5⟩ ∧ 0 = sGood.sePart eT ∧ (∀ acc, (pgT 2 0x20000).denies acc false = none)
      ∧ sGood.flag eT.ctrl F.seCtrl_hostAccess = false := by
    refine ⟨by decide +kernel, by decide +kernel, by decide +kernel, fun acc => by cases acc <;> decide, by decide +kernel⟩
  have key : ∀ acc o, o < 2 ^ 16 → seMaps sGood eT (pgT 2 0x20000) acc (2 * 2 ^ 16 + o) := by
    intro acc o ho
    obtain ⟨c1, c2, c3⟩ := covers_page o ho
    refine seMaps_of ⟨7, 0, false, 0x4000, 5⟩ ⟨hw.1, ?_, hw.2.2.1, ?_, ?_, c3⟩
    · rw [hc]; exact hw.2.1
    · rw [hc, ht]; generalize 2 * 2 ^ 16 + o = x at c1 c2; simp [c1, c2]
    · rw [hw.2.2.2.2]; exact hw.2.2.2.1 acc
  have hp : q = (2, .read) ∨ q = (2, .write) := by simpa using hq
  rcases hp with rfl | rfl <;> exact ⟨by decide, _, fun o ho => key _ o ho⟩

/-- A descriptor of one row of `n` bytes from page 2 to page 3 of tile memory, at offset 3, in an engine that is ready. -/
def tbT : Nat := tileBase + 2 ^ 32
def descT (op w1 n : Nat) : SeDesc :=
  { idx := 4, fetched := 0, words := [Word.of op, Word.of w1, Word.of 0x30003, Word.of (n - 1)],
    runs := [⟨2, tbT, 0, false⟩, ⟨3, tbT + 0x10000, 1, false⟩] }
def sOp (d : SeDesc) : State :=
  (((s0.setReg eT.ctrl (F.seCtrl_enable.set 1 0)).setReg (R.l2Ctrl 0) (F.l2Ctrl_tilePairs.set 1 0))).setSeSt eT.ix { queue := [d] }

theorem seReady_of {s : State} {e : SeRef} {d : SeDesc} (h : s.up e.site = true ∧ s.flag e.ctrl F.seCtrl_enable = true
    ∧ (s.seSt e.ix).paused = false ∧ (s.seSt e.ix).error = false
    ∧ s.unitFault (seUnit e.ix) = none ∧ (s.seSt e.ix).front = some d ∧ d.status = none ∧ d.start = none ∧ d.bytes = 0
    ∧ d.marked = false ∧ d.rows = 1 ∧ (∀ p ∈ d.runs, p.pa % 2 ^ 16 = 0)
    ∧ (d.deadline = 0 ∨ d.late = true ∨ s.tick ≤ d.fetched + d.deadline)) : seReady s e d := h

theorem tileOpen_of {s : State} {tag : ReqTag} {pa : Nat} (cl o : Nat) (h : regionOf pa = .tile ∧ tileOwner pa = some (cl, o)
    ∧ s.cdUp (cl / 8) = true ∧ s.inI4 (cl / 8) = false ∧ s.inI3 cl = false
    ∧ s.flag (R.l2Stat cl) F.l2Stat_tileChanging = false ∧ o < s.tileSize cl
    ∧ tag = .part (BitVec.ofNat 3 (s.fld (R.l2Stat cl) F.l2Stat_part))) : tileOpen s tag pa :=
  ⟨h.1, cl, o, h.2⟩

theorem test_engineMoves_meets (b : Nat) (hb : b < 4) :
    srcInTile (sOp (descT 0 0x20000 4)) eT (descT 0 0x20000 4) b ∧ dstInTile (sOp (descT 0 0x20000 4)) eT (descT 0 0x20000 4) b
      ∧ dstInTile (sOp (descT 1 5 4)) eT (descT 1 5 4) b := by
  have h : b = 0 ∨ b = 1 ∨ b = 2 ∨ b = 3 := by omega
  rcases h with rfl | rfl | rfl | rfl
  · exact ⟨⟨by decide +kernel, tileOpen_of 0 0 (by decide +kernel), by unfold tileSound; decide +kernel⟩,
      ⟨by decide +kernel, tileOpen_of 0 0x10003 (by decide +kernel)⟩, ⟨by decide +kernel, tileOpen_of 0 0x10003 (by decide +kernel)⟩⟩
  · exact ⟨⟨by decide +kernel, tileOpen_of 0 1 (by decide +kernel), by unfold tileSound; decide +kernel⟩,
      ⟨by decide +kernel, tileOpen_of 0 0x10004 (by decide +kernel)⟩, ⟨by decide +kernel, tileOpen_of 0 0x10004 (by decide +kernel)⟩⟩
  · exact ⟨⟨by decide +kernel, tileOpen_of 0 2 (by decide +kernel), by unfold tileSound; decide +kernel⟩,
      ⟨by decide +kernel, tileOpen_of 0 0x10005 (by decide +kernel)⟩, ⟨by decide +kernel, tileOpen_of 0 0x10005 (by decide +kernel)⟩⟩
  · exact ⟨⟨by decide +kernel, tileOpen_of 0 3 (by decide +kernel), by unfold tileSound; decide +kernel⟩,
      ⟨by decide +kernel, tileOpen_of 0 0x10006 (by decide +kernel)⟩, ⟨by decide +kernel, tileOpen_of 0 0x10006 (by decide +kernel)⟩⟩

def noteT : SeDesc := { idx := 4, fetched := 0, words := [3] }

theorem test_engineOps_meets : seReady (sOp (descT 0 0x20000 4)) eT (descT 0 0x20000 4) ∧ (descT 0 0x20000 4).op = some .copy
    ∧ (descT 0 0x20000 4).rowBytes = 4 ∧ (descT 1 5 4).op = some .pattern ∧ seReady (sOp (descT 1 5 4)) eT (descT 1 5 4)
    ∧ seReady (sOp noteT) eT noteT ∧ noteT.op = some .note ∧ noteT.rowBytes = 1
    ∧ (∀ b ∈ List.range 4, ∀ c ∈ List.range 4, (descT 0 0x20000 4).at_ .read ((descT 0 0x20000 4).src 0 + b)
        ≠ (descT 0 0x20000 4).at_ .write ((descT 0 0x20000 4).dst 0 + c)) :=
  ⟨seReady_of (by decide +kernel), by decide +kernel, by decide +kernel, by decide +kernel, seReady_of (by decide +kernel),
    seReady_of (by decide +kernel), by decide +kernel, by decide +kernel, by decide +kernel⟩

theorem test_pageAddresses_meets (b c : Nat) (hb : b < 4) (hc : c < 4)
    (h : (descT 0 0x20000 4).at_ .write (0x30003 + b) = (descT 0 0x20000 4).at_ .write (0x30003 + c)) : b = c := by
  have : ∀ b : Fin 4, (descT 0 0x20000 4).at_ .write (0x30003 + b) = tbT + 0x10003 + b := by decide +kernel
  have h1 := this ⟨b, hb⟩
  have h2 := this ⟨c, hc⟩
  simp only at h1 h2
  omega

/-- A REDUCE of one word of tile memory into the reduction buffer of line 0x20000. -/
def descR : SeDesc :=
  { idx := 4, fetched := 0, words := [Word.of (2 + 0xA * 2 ^ 12), Word.of 0x20004, Word.of 0x30008, Word.of 3],
    runs := [⟨2, tbT, 0, false⟩, ⟨3, 0x20000, 2, false⟩] }
def lnR : Line := ⟨BitVec.ofNat 1024 (0x11 * 2 ^ 64), 0⟩
def sRd : State :=
  { ((sm.setReg eT.ctrl (F.seCtrl_enable.set 1 0)).setReg (R.l2Ctrl 0) (F.l2Ctrl_tilePairs.set 1 0)) with red := [⟨0x20000 / 128, lnR⟩] }.setSeSt
    eT.ix { queue := [descR] }

theorem test_engineReduce_meets : seReady sRd eT descR ∧ descR.op = some .reduce ∧ (∃ z, descR.red = some (0, z, 4)) ∧ descR.rowBytes = 4
    ∧ descR.src 0 % 4 = 0 ∧ descR.dst 0 % 4 = 0 ∧ (findRun descR.runs (descR.dst 0 / 2 ^ 16) .atomic).isSome = true
    ∧ descR.at_ .atomic (descR.dst 0) % 4 = 0 ∧ redReady sRd (sRd.seTag eT) (descR.at_ .atomic (descR.dst 0)) lnR
    ∧ srcInTile sRd eT descR 3 :=
  ⟨seReady_of (by decide +kernel), by decide +kernel, ⟨_, rfl⟩, by decide +kernel, by decide +kernel, by decide +kernel, by decide +kernel, by decide +kernel,
    red_of (by decide +kernel), by decide +kernel, tileOpen_of 0 7 (by decide +kernel), by unfold tileSound; decide +kernel⟩

/-! Completion. -/

def dDone (w0 : Nat) (st : Nat) : SeDesc :=
  { idx := 4, fetched := 0, words := [Word.of w0, 0, 0, 0, 0, Word.of 0x20020, Word.of (3 + 5 * 2 ^ 32)], start := some 1, ended := some 2, status := some st,
    runs := [⟨2, 0x20000, 1, false⟩] }
def sDone (d : SeDesc) : State :=
  ({ sEng with sync := [(3, { typ := .counter })] }.setReg (R.syncCtrl 0) (F.syncCtrl_enable.set 1 0)).setSeSt eT.ix { queue := [d] }
def dLate : SeDesc := { idx := 4, fetched := 0, words := [0, 0, 0, 0, 0, 0, 0, Word.of 100] }

theorem test_completions_meets : ((sDone (dDone 0x40 5)).seSt eT.ix).queue = [dDone 0x40 5] ∧ (sDone (dDone 0x40 5)).up eT.site = true
    ∧ (dDone 0x40 5).deadline = 0 ∧ (dDone 0x40 5).irq = true ∧ (dDone 0x40 5).comp = false ∧ (dDone 0x40 5).sig = false
    ∧ ((sDone (dDone 0x40 5)).reg eT.event).toNat % 16 = 0
    ∧ (dDone 0x20 0).sig = true ∧ (dDone 0x20 0).comp = false ∧ objReady (sDone (dDone 0x20 0)) 3 .counter = true
    ∧ (sDone (dDone 0x20 0)).sePart eT = ((sDone (dDone 0x20 0)).obj 3).part.toNat
    ∧ (dDone 0x10 0).comp = true ∧ (dDone 0x10 0).sig = false ∧ (dDone 0x10 0).compVa % 32 = 0
    ∧ findRun (dDone 0x10 0).runs ((dDone 0x10 0).compVa / 2 ^ 16) .write = some ⟨2, 0x20000, 1, false⟩
    ∧ dLate.deadline ≠ 0 ∧ dLate.late = false ∧ dLate.ended = none ∧ dLate.idx < 2 ^ 32
    ∧ (((sDone dLate).seSt eT.ix).queue ++ ((sDone dLate).seSt eT.ix).fetching.toList).find? (fun d => decide (d.idx = 4)) = some dLate := by
  decide +kernel

theorem test_completionRecord_meets : uncReady (sDone (dDone 0x10 0)) (.se eT) (0x20020 / 128) (wrCost (spanOf 0x20020 32)) true
    ∧ regionOf 0x20020 = .dram ∧ (sDone (dDone 0x10 0)).cwBad (linePa (0x20020 / 128)) = false
    ∧ (sDone (dDone 0x10 0)).cwBad (linePa (0x20020 / 128) + 64) = false
    ∧ (sDone (dDone 0x10 0)).key (keyIndex (sDone (dDone 0x10 0)).ranges (linePa (0x20020 / 128))) ≠ 0 :=
  ⟨unc_of (by decide +kernel) (open_of (by decide +kernel)) (by decide +kernel) (by decide +kernel), by decide +kernel⟩

/-! ## Witnesses: the weave loader -/

theorem groupsWf_of {s : State} (h : s.cores = []) : groupsWf s := by
  intro c _
  have : s.core c = {} := by simp [State.core, h, Sparse.get]
  rw [this]
  exact ⟨rfl, fun e he => nomatch he⟩

def imgNat : Nat :=
  0x20d0a87b6323444a977ff2a0e5f4b094d44f3367c8f8dc50726aca1542f2c64587a77dc9ae7ac9132ad47d720f54e85db70a7672385e543a6c2955bf5df20255382a5482e041f759989ba78b623b1d6e74ad20f31ec7b18e37058bbe22ca87aa000000000000000000000000000000000000000000000000000000000000000000000000000000000000000000000001000000000000000100000000000000000000000000000000000000000000000000000000000000000000000000000000000000000000000000000000000000000000000000000000000000a0000000e0000000000000000f00000010000000c000000000000000070000000000000000000000000000000000000000000000000000000000000000000000000000000000000000000000000000000000000000000000000000000000000000000000000000000000000000000000000000000000000000000000070000000000000000000000000000000000000002000001800001000156575848
def manE : ManEntry := ⟨1 :: List.replicate 47 0, 8, 0xe86b995e350e4d312a95a6b7d5d8cdcdb4682f588800a1cd6c972e1dcb2a5ac38d90046951b03ccb3b179a89fda88b1b, 0x485b9f2c1f44b0dd41ce6e3c3a690bbfaabec1e1ff4aefb2461fdda6629becbd43cf74c13d8c1a1625612243f0046148⟩
/-- An image of one section, signed, at 0x40000, with a LOAD in progress. -/
def sImg : State :=
  let s := { sHost with dram := putLE [] 0x40000 384 imgNat }
  let s := ((s.setReg R.wvImgAddr (F.wvImgAddr_addr.set (0x40000 / 64) 0)).setReg R.wvImgLen (Word.of 384)).setReg R.wvEpoch (Word.of 3)
  let s := (s.setReg (R.wvDigest 0) 7).setWvState 1
  { s with onyx := { s.onyx with manifest := [manE] } }

theorem test_imageReads_meets : imageReads sImg := by
  refine ⟨by decide +kernel, by decide +kernel, by decide +kernel, by decide +kernel, ?_⟩
  rw [show sImg.fld R.wvImgAddr F.wvImgAddr_addr * 64 = 0x40000 from by decide +kernel,
    show sImg.fld R.wvImgLen F.wvImgLen_len = 384 from by decide +kernel]
  intro line h1 h2
  have h : line = 0x800 ∨ line = 0x801 ∨ line = 0x802 := by omega
  rcases h with rfl | rfl | rfl
  all_goals exact ⟨lineReads_of (open_of (by decide +kernel)) (by decide +kernel) (by decide +kernel), offReg_of (by decide +kernel)⟩

theorem imgLines : ∀ k : Fin 3, (sImg.memLine (0x800 + k)).data.toNat = imgNat / 2 ^ (1024 * k.val) % 2 ^ 1024 := by decide +kernel
theorem imgNumbers : ∀ k : Fin 3, ∀ j : Fin 128,
    byteNo (imgNat / 2 ^ (1024 * k.val) % 2 ^ 1024) j = byteNo imgNat (128 * k + j) := by decide +kernel
def imgList : List Byte := (List.range 384).map (byteNo imgNat)

theorem imgBytes : sImg.imageBytes = imgList := by
  unfold State.imageBytes imgList
  rw [show sImg.fld R.wvImgAddr F.wvImgAddr_addr * 64 = 0x40000 from by decide +kernel,
    show sImg.fld R.wvImgLen F.wvImgLen_len = 384 from by decide +kernel]
  refine List.map_congr_left fun i hi => ?_
  have hi := List.mem_range.mp hi
  have h := imgLines ⟨i / 128, by omega⟩
  have h2 := imgNumbers ⟨i / 128, by omega⟩ ⟨i % 128, by omega⟩
  simp only at h h2
  unfold State.memByte
  rw [show (0x40000 + i) / 128 = 0x800 + i / 128 from by omega, show (0x40000 + i) % 128 = i % 128 from by omega, h, h2,
    show 128 * (i / 128) + i % 128 = i from by omega]

/-- The signature section of the image, and what it and the digest say as numbers. -/
def imgSign : List Byte := (((sectionsOf imgList).find? (fun q => decide (q.typ = 0xF))).map (fun q => q.body imgList)).getD []
def imgE : Nat :=
  36904393624932834425453307381301780942339805589892244919432994536707360463926997036240331402497793874997317345586113
def imgR : Nat :=
  26247035095799689268623156744566981891852923491109213387815615900925518854738050089022388053975719786650872476732087
def imgS : Nat :=
  14453692123899813795497535479613302890904543025298120307862271804366723897675751280604179488285191008355672578904096

theorem imgNumbersSigned : ofBytesBE (imageDigest imgList) = imgE ∧ ofBytesBE ((imgSign.drop 56).take 48) = imgR
    ∧ ofBytesBE ((imgSign.drop 104).take 48) = imgS ∧ sImg.trusted ((imgSign.drop 8).take 48) .weave = some manE := by decide +kernel

theorem test_p384_verifies : ecdsaVerify manE.x manE.y imgE imgR imgS = true := by decide +kernel

theorem imgSigned : sImg.signed ((imgSign.drop 8).take 48) .weave (imageDigest imgList) ((imgSign.drop 56).take 48)
    ((imgSign.drop 104).take 48) = true := by
  obtain ⟨h1, h2, h3, h4⟩ := imgNumbersSigned
  unfold State.signed
  rw [h4]
  simp only [h1, h2, h3]
  exact test_p384_verifies

theorem test_imageChecks_meets : ∃ im, sImg.checkImage sImg.imageBytes sImg.imageBytes.length = .ok im ∧ ∀ e ∈ im.conf, e.2.kernels = [] := by
  rw [imgBytes, show imgList.length = 384 from by decide +kernel]
  have hs := imgSigned
  unfold imgSign at hs
  unfold State.checkImage
  rw [if_neg (by decide +kernel), if_neg (by decide +kernel)]
  dsimp only
  rw [if_neg (by decide +kernel), if_neg (by decide +kernel), if_neg (by decide +kernel)]
  split
  · rename_i r h
    rw [show (sectionsOf imgList).find? (fun q => decide (q.typ = 3)) = none from by decide +kernel] at h
    exact nomatch h
  · rw [if_neg (by rw [hs]; decide +kernel)]
    exact ⟨_, rfl, by decide +kernel⟩

/-- Clusters 0 and 2 are the image's clusters; it is staged, voted on, applied. -/
def im0 : Image := ⟨false, 5, [1, 2, 3, 4, 5, 6, 7, 8, 9], [(0, {}), (2, {})], none, none⟩
def sStaged : State := { s0.setWvState 2 with wv := { cand := some im0 } }
def sVote : State := { (s0.setWvState 3).setReg R.wvScope 5 with wv := { cand := some im0, deadline := 100 } }
def sApply : State := { (s0.setWvState 4).setNext 9 with wv := { cand := some im0 } }
def sGoing (im : Image) (l : List Nat) : State := { s0.setWvState 5 with wv := { cand := some im, coming := l } }

theorem test_weaveCommands_meets : passes s0 .onyx R.wvCmd = true ∧ s0.wvState = 0 ∧ sVote.wvState ≠ 0 ∧ passes sVote .onyx R.wvCmd = true
    ∧ sStaged.wvState = 2 ∧ sStaged.wv.cand = some im0 ∧ passes sStaged .onyx R.wvCmd = true
    ∧ sVote.wvState = 3 ∧ sApply.wvState = 4 ∧ passes sApply .onyx R.wvCmd = true ∧ sImg.wvState = 1
    ∧ (s0.setWvState 1).wvState = 1
    ∧ imageMax < ((s0.setWvState 1).setReg R.wvImgLen 0xFFFFFFC0).fld R.wvImgLen F.wvImgLen_len := by decide +kernel

theorem test_weaveGroups_meets : groupsWf s0 ∧ groupsWf sStaged ∧ groupsWf sVote ∧ groupsWf sApply ∧ groupsWf sImg :=
  ⟨groupsWf_of rfl, groupsWf_of rfl, groupsWf_of rfl, groupsWf_of rfl, groupsWf_of (by decide +kernel)⟩

theorem test_votes_meets : sVote.wvState = 3 ∧ sVote.wv.cand = some im0 ∧ sVote.inVote (.cluster 2) = true ∧ sVote.hasVoted (.cluster 2) = false
    ∧ sVote.voterReady im0 (.cluster 2) = true ∧ sVote.tick ≤ sVote.wv.deadline ∧ sVote.heldBy 2 = []
    ∧ Sparse.wf (fun _ => ({} : CacheLine)) sVote.lines = true ∧ sVote.wv.deadline < ({ sVote with tick := 101 } : State).tick
    ∧ ({ sVote with tick := 101 } : State).voterReady im0 (.cluster 2) = true := by decide +kernel

theorem test_epochs_meets : sApply.wv.cand = some im0 ∧ sApply.wvState = 4 ∧ im0.part = none
    ∧ (sGoing im0 [1, 2]).wvState = 5 ∧ 1 ∈ (sGoing im0 [1, 2]).wv.coming ∧ (sGoing im0 [1, 2]).tileWait = []
    ∧ im0.conf.find? (fun e => decide (e.1 = 1)) = none ∧ (∃ x ∈ (sGoing im0 [1, 2]).wv.coming, x ≠ 1)
    ∧ (sGoing { im0 with conf := [] } [2]).wv.coming = [2] ∧ (sGoing { im0 with conf := [] } [2]).wv.freed = []
    ∧ (sGoing { im0 with conf := [] } [2]).wv.disabled = []
    ∧ im0.conf.find? (fun e => decide (e.1 = 2)) = some (2, {}) ∧ (∃ x ∈ (sGoing im0 [1, 2]).wv.coming, x ≠ 2)
    ∧ ({} : ClConf).part = (sGoing im0 [1, 2]).fld (R.l2Stat 2) F.l2Stat_part ∧ (sGoing im0 [1, 2]).groupsOf 2 = []
    ∧ (sGoing im0 [1, 2]).heldBy 2 = []
    ∧ bits ({} : ClConf).engine.toNat 44 3 = (sGoing im0 [1, 2]).fld (R.l2Ctrl 2) F.l2Ctrl_tilePairs := by decide +kernel

/-! ## Witnesses: command rings -/

/-- Ring 5 has 16 commands at 0x10000, FETCH 2 and PROD 5; counter 2055 holds 10; the command at FETCH is `l`. -/
def sRing : State :=
  let s := ((sHost.setReg (R.ringCtrl 5) (F.ringCtrl_enable.set 1 (F.ringCtrl_fetch.set 2 (F.ringCtrl_ctx.set 7 (F.ringCtrl_sizeLog2.set 4 0))))).setReg
    (R.ringBase 5) (F.ringBase_ring.set (0x10000 / 64) 0)).setReg (R.hostDb 5) (F.hostDb_prod.set 5 0)
  ((s.setWalker 72 { ctxs := [⟨7, 0, false, 0x4000, 5⟩], tlb := [pgT 1 0x10000, pgT 2 0x20000] }).setReg (R.syncCtrl 1)
    (F.syncCtrl_enable.set 1 0)).setObj 2055 { typ := .counter, value := 10 }
def sCmd (l : List Nat) : State := l.zipIdx.foldl (fun (s : State) e => if e.1 = 0 then s else putD s (0x10080 + 8 * e.2) e.1) sRing
def cmdOf (s : State) : RingCmd :=
  { idx := 2, words := wordsOf 8 (bits (s.memLine (0x10080 / 128)).data.toNat (8 * (0x10080 % 128)) 512) }
def kn : Kernel :=
  { id := 3, width := 64, regs := 20, unif := 8, block := 2, prio := 1, cert := false, entry := 0x8000, loadVa := 0x8000, ctx := 7, code := [] }
/-- The commands: a bad one, NOP, SIGNAL, WAIT of what is there and of more, LAUNCH. -/
def sBadC : State := sCmd [7]
def sNop : State := sCmd [9 * 2 ^ 32]
def sSig : State := sCmd [2, 0, 0, 0, 2055 + 5 * 2 ^ 32]
def sWaitC : State := sCmd [3, 0, 0, 0, 2055 + 5 * 2 ^ 32]
def sQueue : State := sCmd [3, 0, 0, 0, 2055 + 11 * 2 ^ 32, 0, 77]
def sGone : State := sCmd [1 + 3 * 2 ^ 16, 2 ^ 9, 2 + 7 * 2 ^ 32, 0xAB]
def sLaunch : State := sGone.setConf 9 { engine := 0xFFFF * 2 ^ 48, kernels := [kn] }

theorem next_of {s : State} (h : s.ringRuns 5 = true ∧ (s.ring 5).aborted = false ∧ s.fld (R.ringCtrl 5) F.ringCtrl_fetch = 2
      ∧ s.fld (R.ringBase 5) F.ringBase_ring * 64 + 64 * (2 % 2 ^ s.fld (R.ringCtrl 5) F.ringCtrl_sizeLog2) = 0x10080)
    (hm : s.flag R.ctxBase F.ctxBase_enable = true
      ∧ (s.walker 72).ctxs.find? (fun c => decide (c.ctx = s.fld (R.ringCtrl 5) F.ringCtrl_ctx)) = some ⟨7, 0, false, 0x4000, 5⟩
      ∧ 0 = s.ringPart 5
      ∧ (s.walker 72).tlb.find? (fun t => t.covers (s.fld (R.ringCtrl 5) F.ringCtrl_ctx) 0x10080) = some (pgT 1 0x10000))
    (hl : lineReads s 0 (.part (BitVec.ofNat 3 (s.ringPart 5))) (0x10080 / 128)) : ringNext s 5 (cmdOf s) := by
  unfold ringNext cmdOf
  rw [h.2.2.1]
  dsimp only
  rw [h.2.2.2]
  exact ⟨h.1, h.2.1, pgT 1 0x10000, ⟨by decide, hm.1, ⟨_, hm.2.1, hm.2.2.1⟩, hm.2.2.2, rfl, by decide⟩, hl, rfl⟩

theorem test_ringNext_meets : ringNext sBadC 5 (cmdOf sBadC) ∧ ringNext sNop 5 (cmdOf sNop) ∧ ringNext sSig 5 (cmdOf sSig)
    ∧ ringNext sWaitC 5 (cmdOf sWaitC) ∧ ringNext sQueue 5 (cmdOf sQueue) ∧ ringNext sGone 5 (cmdOf sGone)
    ∧ ringNext sLaunch 5 (cmdOf sLaunch) := by
  refine ⟨?_, ?_, ?_, ?_, ?_, ?_, ?_⟩
  all_goals
    exact next_of (by decide +kernel) (by decide +kernel)
      (lineReads_of (open_of (by decide +kernel)) (by decide +kernel) (by decide +kernel))

theorem test_ringCommands_meets : (cmdOf sBadC).bad = true ∧ (cmdOf sNop).bad = false ∧ (cmdOf sNop).barrier = false ∧ (cmdOf sNop).op = 0
    ∧ ((cmdOf sSig).bad = false ∧ (cmdOf sSig).op = 2 ∧ (cmdOf sSig).obj = 2055 ∧ objReady sSig 2055 .counter = true)
    ∧ sSig.ringPart 5 = (sSig.obj 2055).part.toNat
    ∧ ((cmdOf sWaitC).bad = false ∧ (cmdOf sWaitC).op = 3 ∧ (cmdOf sWaitC).amount ≤ (sWaitC.obj 2055).value.toNat
      ∧ (cmdOf sWaitC).obj = 2055 ∧ objReady sWaitC 2055 .counter = true)
    ∧ ((cmdOf sQueue).bad = false ∧ (sQueue.obj 2055).value.toNat < (cmdOf sQueue).amount ∧ (cmdOf sQueue).op = 3
      ∧ sQueue.waitersOf (2055 / 2048) < 4096 ∧ 0 < bits ((cmdOf sQueue).w 6) 0 32) := by decide +kernel

theorem test_launches_meets : (cmdOf sLaunch).bad = false ∧ (cmdOf sLaunch).op = 1 ∧ bits ((cmdOf sLaunch).w 2) 32 8 = 7
    ∧ bits ((cmdOf sLaunch).w 0) 16 16 = 3 ∧ targetsOf (Word.of ((cmdOf sLaunch).w 1)) = [9] ∧ (sLaunch.kernelAt 9 3).isSome = true
    ∧ sLaunch.fld (R.l2Stat 9) F.l2Stat_part = sLaunch.ringPart 5 ∧ (cmdOf sGone).bad = false ∧ (cmdOf sGone).op = 1
    ∧ targetsOf (Word.of ((cmdOf sGone).w 1)) = [9] ∧ (sGone.kernelAt 9 3).isSome = false
    ∧ (sLaunch.walker 72).ctxs.find? (fun e => decide (e.ctx = 7)) = some ⟨7, 0, false, 0x4000, 5⟩ := by decide +kernel

theorem test_ringDoorbell_meets : passes sRing .onyx (R.hostDb 5) = true
    ∧ (9 + 2 ^ 32 - sRing.fld (R.ringCtrl 5) F.ringCtrl_fetch) % 2 ^ 32 ≤ 2 ^ sRing.fld (R.ringCtrl 5) F.ringCtrl_sizeLog2
    ∧ 2 ^ sRing.fld (R.ringCtrl 5) F.ringCtrl_sizeLog2 < (90 + 2 ^ 32 - sRing.fld (R.ringCtrl 5) F.ringCtrl_fetch) % 2 ^ 32 := by decide +kernel

/-- A launch of which core 144 is offered a block. -/
def lch : Launch := ⟨5, 2, 3, 7, 0xAB, 2 ^ 9, 2, 0, none, false, 0⟩
def sOffer : State := { sRing.setConf 9 { engine := 0xFFFF * 2 ^ 48, kernels := [kn] } with launches := [lch] }

theorem place_one {gs : List Group} {k : Kernel} {n d : Nat} (h : fitSlices gs k = [0]) :
    placeGroups k (n + 1) d gs
      = (placeGroups k n (d + 1) (({ width := k.width, regs := k.regs, slice := 0 } : Group) :: gs)).map (fun l => 0 :: l) := by
  have hz : ∀ i : Nat, ([0] : List Nat).getD i 0 = 0 := fun i => by cases i <;> rfl
  rw [placeGroups]
  simp only [h, hz]

theorem admitsOffer : sOffer.admits lch 144 = some (kn, [0, 0]) := by
  unfold State.admits
  rw [show sOffer.kernelAt (coreCl 144) lch.kernel = some kn from by decide +kernel]
  dsimp only
  rw [if_pos (by decide +kernel), show kn.block = 2 from rfl, place_one (by decide +kernel), place_one (by decide +kernel)]
  rfl

theorem test_blockAdmit_meets : sOffer.offered 144 = some lch ∧ sOffer.taker lch = some 144 ∧ sOffer.up (coreSite 144) = true
    ∧ sOffer.admits lch 144 = some (kn, [0, 0]) ∧ (∀ u, (sOffer.block 144 u).used = false)
    ∧ Sparse.wf (fun _ => ({} : Group)) (sOffer.core 144).groups = true := by
  refine ⟨by decide +kernel, ?_, by decide +kernel, admitsOffer, fun u => rfl, by decide +kernel⟩
  unfold State.taker
  rw [show rotateAfter lch.last (sOffer.coresFor lch) = 144 :: (upTo 15).map (fun m => 145 + m) from by decide +kernel]
  simp [admitsOffer]

/-- A completed command at the front of the ring: a bare one, a launch that has ended, one that signals, one that records. -/
def cEnd (w0 op : Nat) (st : Option Nat) : RingCmd :=
  { idx := 2, words := [Word.of (op + w0), 0, 0, 0, Word.of (2055 + 5 * 2 ^ 32), 0x20040], status := st }
def sEnd (c : RingCmd) : State := sRing.setRing 5 { queue := [c] }
def lEnd : Launch := { lch with next := 2 }

theorem test_commandCompletes_meets : ((sEnd (cEnd 0x80 1 (some 5))).ring 5).queue = [cEnd 0x80 1 (some 5)]
    ∧ (sEnd (cEnd 0x80 1 (some 5))).ringFaulted 5 false = false ∧ (cEnd 0x80 1 (some 5)).waits = false
    ∧ (cEnd 0x80 1 (some 5)).comp = false ∧ (cEnd 0x80 1 (some 5)).sig = false ∧ (cEnd 0x80 1 (some 5)).irq = true
    ∧ (cEnd 0 1 none).op = 1 ∧ (cEnd 0 1 none).dcheck = false
    ∧ ({ sEnd (cEnd 0 1 none) with launches := [lEnd] } : State).launchOf 5 2 = some lEnd ∧ lEnd.blocks ≤ lEnd.next
    ∧ ({ sEnd (cEnd 0 1 none) with launches := [lEnd] } : State).hasGroup lEnd = false
    ∧ ((5, lEnd.idx) : BitVec 6 × BitVec 32) ∉ (sEnd (cEnd 0 1 none)).killed
    ∧ (cEnd 0x40 1 (some 5)).comp = false ∧ (cEnd 0x40 1 (some 5)).sig = true ∧ (cEnd 0x40 1 (some 5)).op < 2
    ∧ objReady (sEnd (cEnd 0x40 1 (some 5))) (cEnd 0x40 1 (some 5)).obj .counter = true
    ∧ (cEnd 0x20 1 (some 5)).comp = true ∧ (cEnd 0x20 1 (some 5)).sig = false ∧ (cEnd 0x20 1 (some 5)).compVa = 0x20040 := by decide +kernel

theorem test_completionWrite_meets : ringMaps (sEnd (cEnd 0x20 1 (some 5))) 5 (pgT 2 0x20000) .write 0x20040
    ∧ memOpen (sEnd (cEnd 0x20 1 (some 5))) (.part (BitVec.ofNat 3 ((sEnd (cEnd 0x20 1 (some 5))).ringPart 5))) (linePa (0x20040 / 128))
        (wrCost (spanOf 0x20040 16)) true
    ∧ (sEnd (cEnd 0x20 1 (some 5))).path 0 ((sEnd (cEnd 0x20 1 (some 5))).home (0x20040 / 128)) = .far
    ∧ (sEnd (cEnd 0x20 1 (some 5))).cacheOn xlIx = false
    ∧ ((sEnd (cEnd 0x20 1 (some 5))).dirEnt (0x20040 / 128)).st = .u
    ∧ (sEnd (cEnd 0x20 1 (some 5))).key (keyIndex (sEnd (cEnd 0x20 1 (some 5))).ranges (linePa (0x20040 / 128))) ≠ 0 :=
  ⟨⟨by decide, by decide +kernel, ⟨⟨7, 0, false, 0x4000, 5⟩, by decide +kernel⟩, by decide +kernel, by decide +kernel, by decide +kernel⟩,
    open_of (by decide +kernel), by decide +kernel, by decide +kernel, by decide +kernel, by decide +kernel⟩

/-! ## Witnesses: host dies, ports and the twin link -/

theorem test_hostReset_meets : resetsHost s0 0 (.resetHd0 .onyx) ∧ resetsHost s0 1 (.resetHd1 .onyx) ∧ resetsHost s0 1 (.hostSelfReset 1)
    ∧ s0.dirtyOf 72 = [] ∧ s0.dirtyOf 73 = [] ∧ s0.flag (R.hostRj 0) F.hostRj_enable = false ∧ s0.flag (R.hostRj 1) F.hostRj_enable = false
    ∧ s0.sync = [] ∧ s0.ras.length < rasSlots :=
  ⟨⟨rfl, by decide +kernel⟩, ⟨rfl, by decide +kernel⟩, ⟨rfl, by decide +kernel⟩, by decide +kernel⟩
theorem test_hostEngines_meets (j : Nat) : s0.seHostRun j = false := by
  have : s0.seSt j = {} := by rfl
  simp [State.seHostRun, this]
/-- The link of host die 0 is in training. -/
def sMoving : State := s0.setLnk 16 { phase := .hello }
theorem test_hostLinkTimeout_meets : resetsHost sMoving 0 (.hostLinkTimeout 0) := ⟨rfl, by decide +kernel, by decide +kernel⟩

/-- Both host dies are gone, and absence lasts. -/
def sAbsent (fb : Word) : State :=
  { (s0.setReg R.hostFb fb) with host := { s0.host with since := some 5 } }
def fbSet : Word := F.hostFb_fbTimeoutMs.set 10 (F.hostFb_hbPeriodMs.set 3 0)
def noFb (s : State) : State := (List.range 8).foldl (fun (s : State) n => s.setReg (R.bobCtrl n 0) 0) s
def fbAt (s : State) (n : Nat) : State := s.setReg (R.bobCtrl n 0) (F.bobCtrl_fbEligible.set 1 0)

theorem test_absence_meets : passes s0 .onyx R.hostHb = true
    ∧ 0 < (sAbsent fbSet).fld R.hostFb F.hostFb_hbPeriodMs ∧ (sAbsent fbSet).host.lapsed = false
    ∧ (sAbsent fbSet).host.since = some 5 ∧ 0 < (sAbsent fbSet).fld R.hostFb F.hostFb_fbTimeoutMs
    ∧ (sAbsent fbSet).flag R.hostFb F.hostFb_fbActive = false ∧ (sAbsent fbSet).flag R.hostFb F.hostFb_fbNone = false
    ∧ (sAbsent fbSet).onyx.fbOff = false
    ∧ (∀ n ∈ List.range 8, (noFb (sAbsent fbSet)).flag (R.bobCtrl n 0) F.bobCtrl_fbEligible = false)
    ∧ (noFb (sAbsent fbSet)).host.since = some 5 ∧ (noFb (sAbsent fbSet)).flag R.hostFb F.hostFb_fbActive = false
    ∧ (fbAt (noFb (sAbsent fbSet)) 2).flag (R.bobCtrl 2 0) F.bobCtrl_fbEligible = true ∧ (fbAt (noFb (sAbsent fbSet)) 2).cdUp 2 = true
    ∧ (∀ n ∈ List.range 2, (fbAt (noFb (sAbsent fbSet)) 2).flag (R.bobCtrl n 0) F.bobCtrl_fbEligible = false)
    ∧ passes s0 .onyx R.hostCtrl = true ∧ s0.flag R.hostFb F.hostFb_fbActive = false
    ∧ (s0.setReg R.hostFb (F.hostFb_fbActive.set 1 0)).flag R.hostFb F.hostFb_fbActive = true := by decide +kernel

/-- Port 1 of host die 0 is up with one window over the first 8 MiB. -/
def sPort0 : State := sHost.setReg (R.pcieStat 0 1) 0x24
def sPort : State :=
  (sPort0.setReg (R.dmaWinBase 0 1 2) (F.dmaWinBase_valid.set 1 (F.dmaWinBase_r.set 1 (F.dmaWinBase_w.set 1 0)))).setReg
    (R.dmaWinLimit 0 1 2) (F.dmaWinLimit_limit.set 7 0)

theorem unc0_of {s : State} {site : Nat} {tag : ReqTag} {line cost : Nat} {write : Bool}
    (ho : memOpen s tag (linePa line) cost write)
    (hp : s.path site (s.home line) = .direct
        ∨ (s.path site (s.home line) = .far ∧ (s.sub line).owner = none ∧ s.cacheOn xlIx = false))
    (hd : (s.dirEnt line).sharers = 0 ∧ ((s.dirEnt line).st = .u ∨ (s.dirEnt line).st = .s)) : uncOpen s site tag line cost write :=
  ⟨ho, hp, hd.1, hd.2⟩

theorem test_ports_meets : sPort0.up 9 = true ∧ sPort0.fld (R.pcieStat 0 1) F.pcieStat_speed ≠ 0 ∧ sPort.fld (R.pcieStat 0 1) F.pcieStat_speed ≠ 0
    ∧ sPort0.dmaOpen 0 1 0x2004 5 true = false ∧ sPort0.dmaOpen 0 1 0x2002 9 false = false
    ∧ sPort.dmaOpen 0 1 0x2004 5 true = true ∧ sPort.dmaOpen 0 1 0x2002 9 false = true ∧ 0x2004 < regSpace
    ∧ sPort.cwBad (linePa 64) = false ∧ sPort.cwBad (linePa 64 + 64) = false ∧ sPort.key (keyIndex sPort.ranges (linePa 64)) ≠ 0
    ∧ sPort0.reg (R.pcieViol 0 1) = 0 ∧ passes sPort .onyx (R.pcieCtrl 0 1) = true
    ∧ (sPort0.setReg (R.pcieViol 0 1) 5).reg (R.pcieViol 0 1) ≠ 0
    ∧ filePage (9 * 2 ^ 32 + 0x1000_3000) = some 9 ∧ (regSpace + (9 * 2 ^ 32 + 0x1000_3000)) % 0x1000 = 0 := by decide +kernel

theorem test_portMemory_meets : uncOpen sPort 9 .host 64 (wrCost (spanOf 0x2004 5)) true ∧ lineReads sPort 9 .host 64 :=
  ⟨unc0_of (open_of (by decide +kernel)) (by decide +kernel) (by decide +kernel),
    lineReads_of (open_of (by decide +kernel)) (by decide +kernel) (by decide +kernel)⟩

/-- The twin link in a state, with a mode and a role. -/
def twC (mode role : Nat) : Word :=
  F.twnCtrl_enable.set 1 (F.twnCtrl_mode.set mode (F.twnCtrl_role.set role (F.twnCtrl_minLanes.set 4 0)))
def sTwn (st mode role : Nat) : State :=
  (sHost.setReg R.twnCtrl (twC mode role)).setReg R.twnStat (F.twnStat_state.set st (F.twnStat_lanes.set 16 0))

theorem test_twinControl_meets : passes (sTwn 3 0 0) .onyx R.twnCtrl = true ∧ (sTwn 3 0 0).fld R.twnCtrl F.twnCtrl_action = 0
    ∧ (sTwn 3 0 0).flag R.twnCtrl F.twnCtrl_enable = true ∧ s0.flag R.twnCtrl F.twnCtrl_enable = false
    ∧ passes s0 .onyx R.twnCtrl = true ∧ (sTwn 2 0 0).fld R.twnStat F.twnStat_state = 2
    ∧ ((sTwn 2 0 0).setReg R.secStat (F.secStat_state.set 1 0)).peerOk ⟨true, (List.range 16).map (sTwn 2 0 0).meas, false, 5, true⟩ = true
    ∧ (sTwn 2 0 0).peerOk ⟨true, [], false, 5, false⟩ = false
    ∧ 3 < (sTwn 3 0 0).fld R.twnCtrl F.twnCtrl_minLanes ∧ (sTwn 3 0 0).fld R.twnCtrl F.twnCtrl_minLanes ≤ 9
    ∧ (sTwn 0 0 0).fld R.twnStat F.twnStat_state = 0 ∧ (sTwn 1 0 0).fld R.twnStat F.twnStat_state = 1
    ∧ (sTwn 3 0 0).twinUp = true ∧ (sTwn 3 0 0).twn.rekey = false
    ∧ ({ sTwn 3 0 0 with twn := { (sTwn 3 0 0).twn with fails := 16, failWin := (sTwn 3 0 0).tick / 1000000, rekey := true } } : State).twinUp = true
    ∧ (sTwn 3 0 0).onyx.logPending ≤ 1024 := by decide +kernel

theorem test_twinSafety_meets : (sTwn 3 0 0).flag R.twnStat F.twnStat_peerSeen = false
    ∧ ((sTwn 3 0 0).setReg R.twnStat (F.twnStat_peerSeen.set 1 0)).flag R.twnStat F.twnStat_peerSeen = true
    ∧ (sTwn 0 1 0).mirroring false = true ∧ (sTwn 0 1 0).flag R.twnStat F.twnStat_fenced = false
    ∧ (sTwn 0 1 1).mirroring true = true ∧ passes (sTwn 0 1 1) .onyx R.twnCtrl = true
    ∧ (sTwn 0 1 1).fld R.twnCtrl F.twnCtrl_action = 0 ∧ (sTwn 0 1 1).twn.lost = some 0
    ∧ ({ sTwn 0 1 1 with twn := { s0.twn with lost := some 3, asked := true } } : State).mirroring true = true := by decide +kernel

/-- A primary that records, and a secondary with an exported window and two records. -/
def w0T : TwnRec := .word 0x2000 7 false
def w1T : TwnRec := .word 0x2040 9 false
def winE : Word := F.exportBase_valid.set 1 (F.exportBase_w.set 1 (F.exportBase_r.set 1 0))
def sSecond : State :=
  let s := (((sTwn 3 1 1).setReg R.rxj (F.rxj_enable.set 1 (F.rxj_size.set 1 0))).setReg (R.exportBase 0) winE).setReg (R.exportLimit 0)
    (F.exportLimit_limit.set 3 0)
  { s with twn := { s.twn with rx := [w0T, w1T] } }

theorem test_mirror_meets : (sTwn 3 1 0).recording = true ∧ (sTwn 3 1 0).mirDirty = [] ∧ (sTwn 3 1 0).red = [] ∧ (sTwn 3 0 0).recording = false
    ∧ (sTwn 3 1 0).mirroring false = true ∧ (sTwn 3 1 0).twinUp = true ∧ passes (sTwn 3 1 0) .onyx R.twnCtrl = true
    ∧ sSecond.mirroring true = true ∧ sSecond.twinUp = true ∧ sSecond.flag R.rxj F.rxj_enable = true
    ∧ sSecond.exported 0x2000 64 true = true ∧ sSecond.exported 0x900000 64 true = false ∧ sSecond.twn.rx.length < sSecond.rxRoom := by
  decide +kernel

theorem test_markRecord_meets : rxReady sSecond := by
  have hr : sSecond.twn.rx = [w0T, w1T] := by rfl
  refine ⟨?_, by decide +kernel, ?_⟩
  · intro r hm
    rw [hr] at hm
    have : r = w0T ∨ r = w1T := by simpa using hm
    rcases this with rfl | rfl
    · exact ⟨0x2000, 7, rfl, by decide +kernel⟩
    · exact ⟨0x2040, 9, rfl, by decide +kernel⟩
  · intro p v p' v' h h' he
    rw [hr] at h h'
    have hp : p = 0x2000 ∨ p = 0x2040 := by
      simp only [w0T, w1T, List.mem_cons, TwnRec.word.injEq, List.not_mem_nil, or_false] at h
      rcases h with h | h
      · exact Or.inl h.1
      · exact Or.inr h.1
    have hp' : p' = 0x2000 ∨ p' = 0x2040 := by
      simp only [w0T, w1T, List.mem_cons, TwnRec.word.injEq, List.not_mem_nil, or_false] at h'
      rcases h' with h | h
      · exact Or.inl h.1
      · exact Or.inr h.1
    have hn : (sSecond.place 0x2000).cell ≠ (sSecond.place 0x2040).cell := by decide +kernel
    rcases hp with rfl | rfl <;> rcases hp' with rfl | rfl
    · rfl
    · exact absurd he hn
    · exact absurd he.symm hn
    · rfl

theorem test_partner_meets : sSecond.exported 0x2004 3 true = true ∧ sSecond.exported 0x2003 9 false = true
    ∧ sSecond.exported 0x900004 3 true = false ∧ sSecond.exported 0x900003 9 false = false
    ∧ sSecond.cwBad (linePa 64) = false ∧ sSecond.cwBad (linePa 64 + 64) = false ∧ sSecond.key (keyIndex sSecond.ranges (linePa 64)) ≠ 0 := by
  decide +kernel

theorem test_partnerMemory_meets : uncOpen sSecond 0 (sSecond.ownerTag 0x2004) 64 (wrCost (spanOf 0x2004 3)) true
    ∧ lineReads sSecond 0 (sSecond.ownerTag 0x2003) 64 :=
  ⟨unc0_of (open_of (by decide +kernel)) (by decide +kernel) (by decide +kernel),
    lineReads_of (open_of (by decide +kernel)) (by decide +kernel) (by decide +kernel)⟩

/-- A checked launch that is done, before and after it asks for the partner's digest. -/
def cDc (dc : Option (Word × Nat)) : RingCmd := { idx := 2, words := [Word.of (1 + 0x100 + 9 * 2 ^ 32)], dc := dc }
def lDc : Launch := ⟨5, 2, 3, 7, 0, 1, 2, 2, none, false, 0xABC⟩
def sDc (dc : Option (Word × Nat)) : State := { (sTwn 3 2 0).setRing 5 { queue := [cDc dc] } with launches := [lDc] }

theorem test_duplex_meets : ((sDc none).ring 5).queue = [cDc none] ∧ (sDc none).ringFaulted 5 false = false ∧ (cDc none).status = none
    ∧ (cDc none).waits = false ∧ (cDc none).op = 1 ∧ (cDc none).dcheck = true ∧ (sDc none).fld R.twnCtrl F.twnCtrl_mode = 2
    ∧ (sDc none).launchOf 5 2 = some lDc ∧ lDc.blocks ≤ lDc.next ∧ (sDc none).hasGroup lDc = false
    ∧ ((5, lDc.idx) : BitVec 6 × BitVec 32) ∉ (sDc none).killed ∧ (sDc none).triples = []
    ∧ ({ sDc none with triples := [⟨5, 2, 0xABD⟩] } : State).triples.find? (fun t => decide (t.ring = 5) && decide (t.index.toNat = 2))
        = some ⟨5, 2, 0xABD⟩
    ∧ (cDc none).comp = false ∧ (cDc none).sig = false ∧ (cDc none).irq = false
    ∧ ((sDc (some (7, 900))).ring 5).queue.find? (fun c => decide (c.idx = 2) && c.dc.isSome && c.status.isNone) = some (cDc (some (7, 900)))
    ∧ (sDc (some (7, 900))).dcLate = [] ∧ ((sDc none).ring 5).queue.find? (fun c => c.dc.isSome && c.status.isNone) = none
    ∧ ((sDc (some (7, 900))).ring 5).queue.find? (fun c => c.dc.isSome && c.status.isNone) = some (cDc (some (7, 900)))
    ∧ ({ s0 with dcLate := [⟨5, 2, 7⟩] } : State).dcLate.find? (fun l => decide (l.ring = 5) && decide (l.idx = 2)) = some ⟨5, 2, 7⟩
    ∧ passes s0 .onyx R.dcCtrl = true := by decide +kernel

/-! ## Witnesses: Onyx, power and recovery -/

def tokNat : Nat :=
  0xbf2ce8185b8252787ae7c27608a6b753ffcaed133d2b79aa12244ca2a9c57e1724b5fcd45d0dd34e1b8e6bdfbcc4315eb70a7672385e543a6c2955bf5df20255382a5482e041f759989ba78b623b1d6e74ad20f31ec7b18e37058bbe22ca87aa00000000000000000000000000000000000000000000000000000000000000000000000000000000000000000000000100000000000000000000000000000063050505050505050505050505050505050505050505050505050505050505050505050505050505050505050505050505000200014b555848
def fwR : Nat := 0xb70a7672385e543a6c2955bf5df20255382a5482e041f759989ba78b623b1d6e74ad20f31ec7b18e37058bbe22ca87aa
def fwS : Nat := 0xd95443348729b6a18fe56db619a042957384445b3029b8dceb43858c27baab06997ad349812af221279bf5847d8c2975
theorem clear_of {s : State} {f : State → State} (h : (f s.fresh).hold = false ∧ (f s.fresh).resp.status ≠ .held) : clear s f := h

def manAll : ManEntry := { manE with roles := 31 }
def fwG : FwFacts := ⟨List.replicate 48 7, 1 :: List.replicate 47 0, 3, toBytes 48 fwR, toBytes 48 fwS⟩
def tok : List Byte := toBytes 216 tokNat
/-- A module in operation with a live nonce and a key trusted for every role. -/
def sOnyx : State :=
  { s0 with onyx := { s0.onyx with store := some ⟨⟨[manAll], 1, 0, 6, [], true⟩, fwG, fwG, [], [], List.replicate 48 5⟩, manifest := [manAll], nonce := some (99, 0), nextKey := 50 }, pwr := { State.reset.pwr with phase := .on } }

theorem tokNumbers : sOnyx.trusted (part tok 72 48) .debugUnlock = some manAll := by decide +kernel
theorem tokFields : tok.length = 216 ∧ bits (ofBytes (tok.take 8)) 0 32 = 0x4B55_5848 ∧ bits (ofBytes (tok.take 8)) 32 16 = 1
    ∧ bits (ofBytes (tok.take 8)) 54 10 = 0 ∧ F.secSvn_debugUnlock.get sOnyx.onyx.fused ≤ bits (ofBytes (tok.take 8)) 48 6
    ∧ part tok 8 48 = sOnyx.idkHash ∧ ofBytes (part tok 56 16) = 99 ∧ sOnyx.tick < 0 + nonceLife := by decide +kernel
theorem tokSigned : ecdsaVerify manAll.x manAll.y (ofBytesBE (sha384 (tok.take 120))) (ofBytesBE (part tok 120 48)) (ofBytesBE (part tok 168 48))
    = true := by decide +kernel

theorem test_tokens_meets : sOnyx.secState ≠ 3 ∧ sOnyx.tokenOk tok = true ∧ sOnyx.tokenOk [] = false := by
  refine ⟨by decide +kernel, ?_, by decide +kernel⟩
  obtain ⟨h1, h2, h3, h4, h5, h6, h7, h8⟩ := tokFields
  unfold State.tokenOk State.signed
  rw [tokNumbers, show sOnyx.onyx.nonce = some (99, 0) from rfl]
  simp only [h1, h2, h3, h4, h6, h7, tokSigned, decide_true, Bool.and_true, Bool.true_and, decide_eq_true_eq, Bool.and_eq_true]
  exact ⟨by simpa using h5, h8⟩

/-- A request of the mailbox, with its memory at 0x10000. -/
def sMail (req : List Byte) : State :=
  ({ sHost with onyx := { sHost.onyx with mbox := some req } }.setReg R.mboxAddr (F.mboxAddr_addr.set 0x10 0)).setReg R.mboxCtrl
    (F.mboxCtrl_busy.set 1 0)

theorem test_onyx_meets : s0.fld R.secStat F.secStat_unlockFails < 3
    ∧ 3 ≤ (s0.setReg R.secStat (F.secStat_unlockFails.set 3 0)).fld R.secStat F.secStat_unlockFails
    ∧ sOnyx.onyx.nonce = some (99, 0) ∧ mboxTyp [1, 0, 0, 0, 4, 0, 0, 0, 0x12, 0xE0, 0, 3] = 1 ∧ mboxTyp [2, 0, 0, 0, 16, 0, 0, 0] = 2
    ∧ mboxTyp [3, 0, 0, 0, 0, 0, 0, 0] = 3 ∧ mboxTyp [4, 0, 0, 0, 0, 0, 0, 0] = 4 ∧ (sMail [3]).onyx.mbox = some [3] ∧ (sMail [3]).onyx.log = []
    ∧ 2 ≤ (s0.setReg R.secStat (F.secStat_state.set 2 0)).secState ∧ (s0.setReg R.secStat (F.secStat_state.set 3 0)).secState = 3
    ∧ byteAt [0x12, 0xE0, 0, 3] 0 / 16 = 1 ∧ byteAt [0x12, 0xE0, 0, 3] 3 = 2 + 1 ∧ byteAt [0x12, 0x83] 1 = 0x83 := by decide +kernel

theorem test_mailboxClear_meets : clear { s0 with onyx := { s0.onyx with mbox := some [1, 0, 0, 0, 4, 0, 0, 0, 0x12, 0xE0, 0, 3] } } mboxSpdm
    ∧ clear { s0 with onyx := { s0.onyx with mbox := some [4, 0, 0, 0, 0, 0, 0, 0] } } mboxZeroizeAll :=
  ⟨clear_of (by decide +kernel), clear_of (by decide +kernel)⟩

theorem mailRange : (sMail [3]).ranges = [{ lo := 0, hi := 16777216, owner := 0, host := true }] := by decide +kernel
theorem mailPlace : ∀ j : Fin 32, (sMail [3]).place (linePa (544 + j)) = ⟨0, 0x11000 + 128 * j⟩ := by decide +kernel
theorem mailPath : (sMail [3]).path 0 0 = .far ∧ (sMail [3]).cacheOn xlIx = false ∧ (sMail [3]).keyLoaded 0 0 = true
    ∧ (sMail [3]).cdUp 0 = true ∧ (sMail [3]).inI4 0 = false ∧ (sMail [3]).mirroring true = false ∧ (sMail [3]).mirroring false = false
    ∧ (sMail [3]).key 0 ≠ 0 := by decide +kernel

theorem mailEmpty : (sMail [3]).bad = [] ∧ (sMail [3]).subs = [] ∧ (sMail [3]).dir = [] ∧ (sMail [3]).miss = [] ∧ (sMail [3]).red = [] := by
  decide +kernel

theorem noRefusal {s : State} {tag : ReqTag} {pa : Nat} (h : s.refuses tag pa = none) (hm : s.mirBlocks pa = false) :
    s.refusesWrite tag pa = none := by
  unfold State.refusesWrite
  rw [h, hm]
  rfl

theorem mboxOpen_of {s : State} (hAt : s.mboxAt = 0x10000) (mailRange : s.ranges = [{ lo := 0, hi := 16777216, owner := 0, host := true }])
    (mailPlace : ∀ j : Fin 32, s.place (linePa (544 + j)) = ⟨0, 0x11000 + 128 * j⟩)
    (mailPath : s.path 0 0 = .far ∧ s.cacheOn xlIx = false ∧ s.keyLoaded 0 0 = true
      ∧ s.cdUp 0 = true ∧ s.inI4 0 = false ∧ s.mirroring true = false ∧ s.mirroring false = false ∧ s.key 0 ≠ 0)
    (mailEmpty : s.bad = [] ∧ s.subs = [] ∧ s.dir = [] ∧ s.miss = [] ∧ s.red = []) : mboxOpen s := by
  intro line h1 h2
  rw [hAt] at h1 h2
  obtain ⟨j, rfl⟩ : ∃ j : Fin 32, line = 544 + j := ⟨⟨line - 544, by omega⟩, by simp; omega⟩
  obtain ⟨p1, p2, p3, p4, p5, p6, p7, p8⟩ := mailPath
  have q1 := mailPlace j
  have hlt : linePa (544 + j) < 16777216 := by unfold linePa; omega
  have hk : keyIndex s.ranges (linePa (544 + j)) = 0 := by
    rw [mailRange]
    simp [keyIndex, rangeAt, hlt]
  have hr : s.refusesWrite .onyx (linePa (544 + j)) = none := by
    have h : s.refuses .onyx (linePa (544 + j)) = none := by
      have hs : ¬ (0x1F_FF00_0000 ≤ 0x11000 + 128 * j.val) := by omega
      unfold State.refuses
      dsimp only
      rw [hk, q1, mailRange]
      rw [show rangeAt [{ lo := 0, hi := 16777216, owner := 0, host := true }] (linePa (544 + j))
        = some { lo := 0, hi := 16777216, owner := 0, host := true } from by simp [rangeAt, hlt]]
      dsimp only
      rw [if_neg (by simp [Place.save]; omega), if_pos p3]
    exact noRefusal h (by simp only [State.mirBlocks, p6, Bool.false_and])
  have hh : s.home (544 + j) = 0 := by unfold State.home; rw [q1]
  obtain ⟨e1, e2, e3, e4, e5⟩ := mailEmpty
  have hb : ∀ pa, s.cwBad pa = false := fun pa => by unfold State.cwBad; rw [e1]; rfl
  have hd : s.dirEnt (544 + j) = {} := by unfold State.dirEnt; rw [e3]; rfl
  have ho : (s.sub (544 + j)).owner = none := by unfold State.sub; rw [e2]; rfl
  have hl : s.redLine (linePa (544 + j) / 128) = none := by unfold State.redLine; rw [e5]; rfl
  have hq : ∀ q, s.payer .onyx (linePa (544 + j)) ≠ some q := fun q => by unfold State.payer; exact nofun
  refine ⟨⟨⟨by rw [q1]; exact p4, by rw [q1]; exact p5, by rw [if_pos rfl]; exact hr, fun q h => absurd h (hq q), e4, hl, fun _ => p7⟩, ?_, by rw [hd], ?_⟩,
    ⟨hb _, hb _⟩, by rw [hk]; exact p8⟩
  · rw [hh]
    exact Or.inr ⟨p1, ho, p2⟩
  · rw [hd]
    exact Or.inl rfl

theorem test_mboxOpen_meets : mboxOpen (sMail [3]) := mboxOpen_of (by decide +kernel) mailRange mailPlace mailPath mailEmpty

theorem test_tamper_meets : clear s0 (tamperDetection 3) := clear_of (by decide +kernel)

/-! Saves and power. -/

def sPow : State := { s0 with pwr := { State.reset.pwr with phase := .on } }
def sDebug : State := sPow.setReg R.secStat (F.secStat_state.set 2 0)
def saveRun (only : Bool) : SaveRun := ⟨0, 4, only, ⟨4, false, 1, 0, 0, 0, []⟩⟩
def sSaving (only : Bool) : State := { sPow with pwr := { sPow.pwr with save := some (saveRun only) } }

theorem test_supply_meets : sPow.running = true ∧ 10 < sPow.fld R.pwrThr F.pwrThr_warnV * 10 ∧ sPow.pwr.save = none
    ∧ sPow.fld R.saveStat F.saveStat_state = 0 ∧ sPow.secState ≠ 2 ∧ sPow.onyx.slots.length = 2 ∧ sDebug.secState = 2 ∧ sDebug.running = true
    ∧ sDebug.pwr.save = none ∧ sDebug.fld R.saveStat F.saveStat_state = 0
    ∧ (sSaving false).pwr.save = some (saveRun false) ∧ (sSaving true).pwr.save = some (saveRun true) ∧ (sSaving true).running = true
    ∧ passes sPow .onyx R.saveCtrl = true ∧ passes sDebug .onyx R.saveCtrl = true
    ∧ (sPow.setReg R.saveStat (F.saveStat_state.set 1 0)).fld R.saveStat F.saveStat_state ≠ 0
    ∧ passes (sPow.setReg R.saveStat (F.saveStat_state.set 1 0)) .onyx R.saveCtrl = true ∧ (saveRun true).slot < 2 := by decide +kernel

theorem clearOk {s : State} {f : State → State} (h : (f s.fresh).hold = false ∧ (f s.fresh).resp.status = .ok) : clear s f :=
  ⟨h.1, by rw [h.2]; decide⟩

theorem test_triggers_meets (s : State) (h : s = sPow ∨ s = sDebug ∨ s = sSaving true) :
    clear s saveTrigger ∧ clear s gracefulShutdown ∧ clear s powerCycle ∧ clear s thermalTrip ∧ clear s forceOff := by
  have hr : s.fresh.running = true := by rcases h with rfl | rfl | rfl <;> decide +kernel
  have t := State.saveTrigger_hold s.fresh rfl
  have g := State.gracefulShutdown_hold s.fresh rfl
  have p := State.powerCycle_hold s.fresh rfl
  have w := State.thermalTrip_hold s.fresh rfl
  have f := State.forceOff_hold s.fresh rfl
  exact ⟨clearOk ⟨t.1, t.2 hr⟩, clearOk ⟨g.1, g.2 hr⟩, clearOk ⟨p.1, p.2 hr⟩, clearOk ⟨w.1, w.2 hr⟩, clearOk ⟨f.1, f.2 hr⟩⟩

/-- A list of one entry at 0x10000, and a bad one. -/
def sList (n w1 : Nat) : State :=
  ((putD (putD sHost 0x10000 (1 + 0x2000)) 0x10008 w1).setReg R.saveList (F.saveList_addr.set 0x10 0)).setReg R.saveCtrl
    (F.saveCtrl_listCount.set n 0)
def listOf (s : State) (n : Nat) : List Byte := (List.range (16 * n)).map (fun i => s.memByte (0x10000 + i))

theorem test_saveList_meets : passes (sList 1 128) .onyx R.saveCtrl = true ∧ (sList 1 128).fld R.saveCtrl F.saveCtrl_listCount = 1
    ∧ (sList 1 128).fld R.saveList F.saveList_addr * 4096 = 0x10000 ∧ lineReads (sList 1 128) 0 .onyx (0x10000 / 128)
    ∧ lineReads (sList 1 100) 0 .onyx (0x10000 / 128) ∧ lineReads (sList 1 0x8000040) 0 .onyx (0x10000 / 128)
    ∧ 256 < (s0.setReg R.saveCtrl (F.saveCtrl_listCount.set 257 0)).fld R.saveCtrl F.saveCtrl_listCount :=
  ⟨by decide +kernel, by decide +kernel, by decide +kernel,
    lineReads_of (open_of (by decide +kernel)) (by decide +kernel) (by decide +kernel),
    lineReads_of (open_of (by decide +kernel)) (by decide +kernel) (by decide +kernel),
    lineReads_of (open_of (by decide +kernel)) (by decide +kernel) (by decide +kernel), by decide +kernel⟩

theorem test_saveEntries_meets : (∃ l, listEntries (listOf (sList 1 128) 1) 1 = some l ∧ listBytes l ≤ 8 * 2 ^ 20)
    ∧ listEntries (listOf (sList 1 100) 1) 1 = none
    ∧ (∃ l, listEntries (listOf (sList 1 0x8000040) 1) 1 = some l ∧ 8 * 2 ^ 20 < listBytes l) := by
  refine ⟨⟨[(0x2000, 128, 0)], by decide +kernel⟩, by decide +kernel, ⟨[(0x2000, 0x8000040, 0)], by decide +kernel⟩⟩

def stby (p : PwrSt) : PwrSt := { p with phase := .standby }
def fct : PowerFacts := ⟨70, some ⟨⟨[manAll], 1, 0, 6, List.replicate 48 3, true⟩, fwG, fwG, [], [], []⟩, true, false, true, [(0, facts 64 0)], []⟩
theorem test_powerUp_meets : ({ s0 with pwr := { stby s0.pwr with waitVin := true } } : State).pwr.phase = .standby ∧ sPow.pwr.phase = .on
    ∧ State.reset.pwr.phase = .starting ∧ State.reset.pwr.enable = true ∧ State.reset.pwr.waitVin = false ∧ State.reset.pwr.waitOn = false
    ∧ State.reset.pwr.thermal = false ∧ State.reset.secState = 0 ∧ State.reset.onyx.store = none ∧ State.reset.onyx.fuse = false
    ∧ 40 ≤ fct.capUf ∧ fct.romTest = true ∧ fct.meshOpen = false ∧ fct.made.isSome = true
    ∧ F.secSvn_manifest.get State.reset.onyx.fused ≤ 6 ∧ (fct.die 0).strapFault = 0 ∧ (fct.die 0).selfTest = true ∧ (fct.die 0).siteId = 0
    ∧ (fct.die 0).stepping = 4 := by decide +kernel

/-! Errors and recovery. -/

def dCe : Detection := det 0 2 3 4 1
def dUe : Detection := { dCe with severity := 1 }
def rCe : RasRec := ⟨7, 5, dCe, 1⟩
def sErr : State := { sPow with ras := [rCe], tick := 9 }

theorem test_errors_meets : sErr.running = true ∧ sErr.ras.length < rasSlots ∧ dCe.severity = 0 ∧ dCe.isCe = true ∧ ¬ (dCe.cls = 7 ∧ dCe.code = 3)
    ∧ dCe.cls ≠ 4 ∧ dCe.cls ≠ 5 ∧ newestRec (fun r => decide (r.det.severity = 0)) sErr.ras = some rCe
    ∧ sErr.tick < rCe.tick + 1_000_000 ∧ rCe.tick + 1_000_000 ≤ ({ sErr with tick := 1_000_005 } : State).tick
    ∧ (det 0 2 3 4 4).isCe = true ∧ (det 0 2 3 4 4).code ≠ rCe.det.code ∧ (det 1 5 3 130 2).code = 2 ∧ (det 1 5 3 130 2).die.toNat = 3
    ∧ ({ det 1 4 1 2 3 with addr := some 0x1040, arg0 := 1 } : Detection).code = 3
    ∧ ((s0.setCline 0 32 { st := .m, val := ⟨7, 0⟩ }).cline 0 32).st ≠ .i
    ∧ passes s0 .onyx R.rasRecSel = true ∧ passes s0 .onyx R.rasCons = true
    ∧ (s0.setReg R.secStat (F.secStat_jtagUnlocked.set 1 0)).flag R.secStat F.secStat_jtagUnlocked = true := by decide +kernel

theorem manyErrors (n : Nat) : ∀ k, (∀ r ∈ (List.replicate k (⟨n, 0, dUe, 1⟩ : RasRec)), (fun r : RasRec => decide (r.det.severity = 0)) r = false
    ∧ 0 ≤ r.seq) := fun k r h => by rw [List.eq_of_mem_replicate h]; exact ⟨rfl, Nat.zero_le _⟩
/-- The buffer is full of unread uncorrectable errors. -/
def sFull : State := { sPow with ras := List.replicate rasSlots ⟨3, 0, dUe, 1⟩ }

theorem test_fullBuffer_meets : sFull.ras.length = rasSlots ∧ (∀ r ∈ sFull.ras, sFull.fld R.rasCons F.rasCons_cons ≤ r.seq) := by
  refine ⟨List.length_replicate, fun r h => ?_⟩
  have h : r ∈ List.replicate rasSlots (⟨3, 0, dUe, 1⟩ : RasRec) := h
  rw [List.eq_of_mem_replicate h]
  decide +kernel

theorem test_dieReset_meets : passes s0 .onyx R.rasCtrl = true ∧ s0.cdUp 0 = true ∧ s0.up 10 = true ∧ s0.restoreSlot = none
    ∧ clear s0 (fun u => u.busWrite .onyx R.rasCtrl (rasWord 1 1)) := ⟨by decide +kernel, by decide +kernel, by decide +kernel, by decide +kernel,
  clear_of (by decide +kernel)⟩

theorem test_dieFatal_meets : clear s0 (errorDetection (det 2 7 1 0 3)) := clear_of (by decide +kernel)

def slotT : SaveSlot := ⟨1, true, 3, 4, 5, 0, []⟩
def sRest : State :=
  { (sHost.setReg R.rasStat (F.rasStat_restoreBusy.set 1 0)).setReg R.rasRestore (F.rasRestore_addr.set 0x20 0) with
      onyx := { s0.onyx with slots := [some slotT, none] } }

theorem test_restore_meets : passes sRest .onyx R.rasCtrl = true ∧ sRest.flag R.rasStat F.rasStat_restoreBusy = true
    ∧ sRest.restoreSlot = some (0, slotT) ∧ sRest.fld R.rasRestore F.rasRestore_addr * 4096 = 0x20000
    ∧ sRest.cwBad (linePa (0x20000 / 128)) = false ∧ sRest.cwBad (linePa (0x20000 / 128) + 64) = false
    ∧ sRest.key (keyIndex sRest.ranges (linePa (0x20000 / 128))) ≠ 0 := by decide +kernel

theorem test_restoreMemory_meets : uncOpen sRest 0 .onyx (0x20000 / 128) (wrCost (spanOf 0x20000 64)) true ∧ clear sRest restoreDone :=
  ⟨unc0_of (open_of (by decide +kernel)) (by decide +kernel) (by decide +kernel), clear_of (by decide +kernel)⟩
/-! An accepted token and verified firmware. -/

/-- Only Onyx stands, so that an accepted token finds no core to halt. -/
def sLone : State := { sOnyx.fresh with dies := [] }
def sLoneA : State :=
  let s1 := (sLone.secEvent F.secEvent_unlockAttempt).audit 0x0031 0 0 (Word.of (ofBytes (part tok 72 8))) (Word.of (ofBytes (part tok 56 8)))
  (upTo s1.onyx.logPending).foldl (fun (u : State) _ => u.logStore) { s1 with onyx := { s1.onyx with nonce := none } }
def unlockRest (s2 : State) : State :=
  let s3 := ((s2.pauseEngines).pauseRings).twnFall 0
  let s4 := (((s3.holdHosts).clearKeys).freeMeas 7).setFld R.secStat F.secStat_state 2
  let s5 := (((s4.resetRanges).bootKeys).zeroAll (0, dramSize) none).zeroArrays
  (s5.eraseSlots).setFld R.secStat F.secStat_jtagUnlocked 1
theorem fold_still {α : Type} {f : State → α → State} {s : State} : ∀ l : List α, (∀ x, f s x = s) → l.foldl f s = s
  | [], _ => rfl
  | x :: l, h => by rw [List.foldl_cons, h, fold_still l h]
theorem halt_none (s : State) (h : ∀ n, s.up n = false) : s.haltAll = s := by
  unfold State.haltAll
  exact fold_still _ fun c => by rw [h]; rfl
theorem sLoneA_up (n : Nat) : sLoneA.up n = false := by
  have h : sLoneA.dies = [] := by decide +kernel
  unfold State.up State.die
  rw [h]; rfl
theorem sLone_rest : (unlockRest sLoneA).hold = false := by decide +kernel
theorem sLone_tokenOk : (sLone.secEvent F.secEvent_unlockAttempt).tokenOk tok = true := by
  obtain ⟨h1, h2, h3, h4, h5, h6, h7, h8⟩ := tokFields
  unfold State.tokenOk State.signed
  rw [show (sLone.secEvent F.secEvent_unlockAttempt).trusted (part tok 72 48) .debugUnlock = some manAll from tokNumbers,
    show (sLone.secEvent F.secEvent_unlockAttempt).onyx.nonce = some (99, 0) from rfl,
    show (sLone.secEvent F.secEvent_unlockAttempt).idkHash = sOnyx.idkHash from rfl,
    show (sLone.secEvent F.secEvent_unlockAttempt).onyx.fused = sOnyx.onyx.fused from rfl,
    show (sLone.secEvent F.secEvent_unlockAttempt).tick = sOnyx.tick from rfl]
  simp only [h1, h2, h3, h4, h6, h7, tokSigned, decide_true, Bool.and_true, Bool.true_and, decide_eq_true_eq, Bool.and_eq_true]
  exact ⟨by simpa using h5, h8⟩
theorem commit_of {s t : State} {f : State → State} (h : f s = t) (ht : t.hold = false) : s.commit f = t := by
  unfold State.commit
  dsimp only
  rw [h, if_neg (by rw [ht]; decide)]
theorem test_unlock_meets : sLone.secState ≠ 3 ∧ clear sLone (secToken tok) := by
  have hs : sLone.secState ≠ 3 := by decide +kernel
  have u : (sLone.secEvent F.secEvent_unlockAttempt).unlock tok = unlockRest sLoneA.haltAll := rfl
  have e : secToken tok sLone.fresh = (unlockRest sLoneA).answer .ok := by
    unfold secToken
    refine commit_of ?_ (by rw [State.answer_hold, sLone_rest])
    rw [show sLone.fresh = sLone from rfl]
    dsimp only
    rw [if_pos ⟨hs, sLone_tokenOk⟩, u, halt_none _ sLoneA_up]
  exact ⟨hs, by unfold clear; rw [e, State.answer_hold, sLone_rest]; exact ⟨rfl, by decide⟩⟩
/-- Only the root of trust, with one key trusted for every role. -/
def sRot : State := { State.reset with onyx := { State.reset.onyx with manifest := [manAll] } }
theorem test_firmwareVerifies_meets : sRot.verifies .onyxFw fwG = true := by decide +kernel
theorem test_firmware_meets : sRot.pwr.phase ≠ .off ∧ sRot.secState < 2 ∧ sRot.verifies .onyxFw { fwG with keyId := [] } = false
    ∧ sRot.verifies .bobbinFw { fwG with keyId := [] } = false ∧ (⟨[manAll], 1, 0, 6, [], true⟩ : ManFacts).good = true
    ∧ F.secSvn_manifest.get sRot.onyx.fused ≤ 1 := by decide +kernel
theorem test_bobbinFirmware_meets : sRot.verifies .bobbinFw fwG = true := by
  rw [← test_firmwareVerifies_meets]; rfl

/-! ## Results from the spec's worked examples and tables -/

/-- The example after R5: the register block of CD3.CL5.C12. -/
theorem test_coreBlock_address : regSpace + coreBase ((3 * 8 + 5) * 16 + 12) = 0xE04_01AD_0000 := by decide +kernel

/-- The example after R17: the straps of CD5, and with S[1] open. -/
theorem test_straps_cd5 : (facts 0x16 1).strapFault = 0 ∧ (facts 0x16 1).siteId = 6 ∧ (facts 0x14 1).strapFault = 1
    ∧ bits (facts 0x14 1).raw.toNat 0 7 = 0x14 := by decide +kernel

/-- The example after R82: a clear alias of OL_CTRL[3] clears SPARE_AUTO and starts no retrain. -/
theorem test_clearAlias_spareAuto : regSpace + R.olCtrl 3 + 0x8000 = 0xE00_0001_81C0
    ∧ (let t := nx (exec (.aliasWrite .onyx 0xE00_0001_01C0 .clear 6) s0)
      t.fld (R.olCtrl 3) F.olCtrl_spareAuto = 0 ∧ t.fld (R.olCtrl 3) F.olCtrl_enable = 1
        ∧ t.fld (R.olCtrl 3) F.olCtrl_minWg = s0.fld (R.olCtrl 3) F.olCtrl_minWg ∧ t.lnk 11 = s0.lnk 11) := by decide +kernel

/-- The example after R101: HD1.H30 reads M_SECURE of HD1 in S-mode. -/
theorem test_secureRead_violates :
    let t := nx (exec (.registerWrite (.host 1 30 .s) (BitVec.ofNat 48 (regSpace + R.secure 1)) 8 .load)
      (s0.setReg (R.secure 1) (F.secure_mSecure.set 1 0)))
    t.resp.data = [0] ∧ t.fld (R.violCnt 10) F.violCnt_secure = 1 ∧ t.fld (R.violFirst 10) F.violFirst_offset = 0x18
      ∧ t.fld (R.violFirst 10) F.violFirst_kind = 0 ∧ t.fld (R.violFirst 10) F.violFirst_die = 10
      ∧ t.fld (R.violFirst 10) F.violFirst_unit = 30 ∧ t.fld (R.violFirst 10) F.violFirst_write = 0
      ∧ t.fld (R.violFirst 10) F.violFirst_secure = 1 ∧ t.fld (R.violFirst 10) F.violFirst_valid = 1 := by decide +kernel

/-- The example after R170: BRA on Q2, true in lanes 0 to 9 of 16, narrows the active mask to 0x03FF; a collective
instruction reached there halts the group with DIV_COLLECTIVE. -/
def xBra : Group := ({ x0 with width := 16, active := 0xFFFF, full := 0xFFFF } : Group).setPred 2 0xFFFF 0x3FF
theorem test_bra_narrows :
    let y := (ctlBra g0 { dst := 0, a := 0, b := 0, c := 2, pred := 2, mod := 64 } (s1.setGrp g0 xBra)).grp g0
    y.active = 0x3FF ∧ y.full = 0xFFFF := by decide +kernel
theorem test_divergedMatrix_halts :
    let z := ((s1.setGrp g0 { xBra with active := 0x3FF }).collective g0 fl id).grp g0
    z.pc = xBra.pc ∧ z.active = 0x3FF ∧ z.halt = some 2 := by decide +kernel

/-- The example of R265: E4M3 and E5M2 codes. -/
theorem test_codes_decode : Val.eq (Fmt.e4m3.decode 0x5B) (.fin false 22 0) = true
    ∧ Val.eq (scaleBy (Fmt.e4m3.decode 0x5B) 0x7A true) (.fin false 11 (-4)) = true
    ∧ Val.eq (Fmt.e5m2.decode 1) (.fin false 1 (-16)) = true := by decide +kernel

def cv (src dst : Fmt) (mode : Nat) (ieee : Bool) (draw x : Nat) : Nat × NFlags := dst.round mode ieee draw src.isInt (src.decode x)

/-- The table after R272: rounding and its flags. -/
theorem test_rounding_table : (cv .f32 .f16 0 false 0 0x3F80_1000).1 = 0x3C00 ∧ (cv .f32 .f16 0 false 0 0x3F80_3000).1 = 0x3C02
    ∧ (cv .f32 .f16 2 false 0 0x3F80_1000).1 = 0x3C00 ∧ (cv .f32 .f16 3 false 0 0x3F80_1000).1 = 0x3C01
    ∧ (cv .f32 .e4m3 0 false 0 0x3A80_0000) = (0, { inexact := true, underflow := true })
    ∧ (cv .f32 .e4m3 0 false 0 0x3AC0_0000) = (1, { inexact := true, underflow := true })
    ∧ (cv .f32 .f16 4 false 0x1A_2B3C 0x3F80_0800).1 = 0x3C01 ∧ (cv .f32 .f16 4 false 0x9F_0001 0x3F80_0800).1 = 0x3C00 := by decide +kernel

/-- The table after R277: results at the top of each range, and whether they overflow. -/
theorem test_overflow_table : ∀ r ∈ ([(.f32, .e4m3, 0, false, 0x43E8_0000, 0x7E, false), (.f32, .e4m3, 0, false, 0x43E8_8000, 0x7E, true),
    (.f32, .e4m3, 0, true, 0x43E8_8000, 0x7F, true), (.f32, .e4m3, 1, true, 0x43EB_0000, 0x7E, false),
    (.f32, .e4m3, 1, false, 0x43FA_0000, 0x7E, true), (.f32, .e5m2, 0, false, 0x476F_FF00, 0x7B, false),
    (.f32, .e5m2, 0, false, 0x4770_0000, 0x7B, true), (.f32, .e5m2, 0, true, 0x4770_0000, 0x7C, true),
    (.f64, .f32, 0, true, 0x47EF_FFFF_F000_0000, 0x7F80_0000, true), (.f64, .f32, 0, false, 0x47EF_FFFF_F000_0000, 0x7F7F_FFFF, true),
    (.f64, .f32, 2, true, 0xC7F0_74F8_C4D3_CD7B, 0xFF80_0000, true), (.f64, .f32, 3, true, 0xC7F0_74F8_C4D3_CD7B, 0xFF7F_FFFF, true),
    (.f32, .f16, 1, true, 0x4788_B800, 0x7BFF, true), (.f32, .e4m3, 0, false, 0x7F80_0000, 0x7E, true),
    (.f32, .i8, 0, false, 0x4396_599A, 0x7F, true), (.f32, .i8, 0, true, 0x4396_599A, 0x80, true)]
      : List (Fmt × Fmt × Nat × Bool × Nat × Nat × Bool)),
    (cv r.1 r.2.1 r.2.2.1 r.2.2.2.1 0 r.2.2.2.2.1).1 = r.2.2.2.2.2.1
      ∧ (cv r.1 r.2.1 r.2.2.1 r.2.2.2.1 0 r.2.2.2.2.1).2.overflow = r.2.2.2.2.2.2 := by decide +kernel

/-- The block-scale example of R235: 6.0 × 2^3 times 1.5 × 2^−7 is 0.5625. -/
theorem test_blockScales_multiply :
    Val.eq (Val.mul (scaleBy (Fmt.e2m1.decode 7) 130 true) (scaleBy (Fmt.e2m1.decode 3) 120 true)).1 (.fin false 9 (-4)) = true := by
  decide +kernel

def scanEls (l : List (Int × Bool)) : List ScanEl := l.map fun p => ⟨Val.ofInt p.1, p.2, {}, none⟩

/-- The example after R341: VSSCAN and a following VSCAN. -/
theorem test_scans_example :
    ((scanAll .i32 0 1 (some (.ofInt 10)) (scanEls [(1, false), (2, false), (3, true), (4, false)])).map (·.val.toInt) = [11, 13, 3, 7])
      ∧ (scanAll .i32 0 1 (some (.ofInt 7)) (scanEls [(5, false), (6, false)])).map (·.val.toInt) = [12, 18] := by decide +kernel

/-- The example after R394: adding 2^−30 to 1.0 adds 0x200 to the tail; 2^−45 is lost under rounding 0. -/
theorem test_masterWeight_example :
    (let r := masterRound 0 false 0 (Val.add 0 (masterVal 0x3F80_0000 0) (.fin false 1 (-30))).1;
      (r.1, r.2.1) = (0x3F80_0000, 0x200))
    ∧ (let r := masterRound 0 false 0 (Val.add 0 (masterVal 0x3F80_0000 0) (.fin false 1 (-45))).1;
      (r.1, r.2.1) = (0x3F80_0000, 0))
    ∧ (let r := masterRound 4 false 0x3_FFFF (Val.add 0 (masterVal 0x3F80_0000 0) (.fin false 1 (-45))).1;
      (r.1, r.2.1) = (0x3F80_0000, 1)) := by decide +kernel

/-- The example after R400: where a byte of near memory lies. -/
theorem test_place_example :
    let p := State.reset.place 0x0A7_6543_2100
    p.cd = 5 ∧ p.dla = 0x07_6543_2100 ∧ p.pc = 50 ∧ p.pca = 0xECA_8600 := by decide +kernel

/-- The example after R453: a tile address of CD3.CL5. -/
theorem test_tileAddress_example : tileOwner 0x804_0540_0000 = some (3 * 8 + 5, 0x40_0000) := by decide +kernel

end Sys2Proof.Tests
end

section
/-!
PROOFS. The coolant reading (R711): what it shows in `PWR_COOL`, when it is seen, and what it leaves unchanged.
-/

namespace Sys2Proof.Machine

/-! ## The next edge of a period -/

theorem State.tick_lt_nextEdge (s : State) (p : Nat) (hp : 0 < p) : s.tick < s.nextEdge p := by
  rw [State.nextEdge, Nat.mul_comm]
  exact Nat.lt_mul_div_succ s.tick hp

/-- Waiting for the next edge ends at that edge: it has not passed already. -/
theorem State.until_nextEdge_tick (s : State) (p : Nat) (hp : 0 < p) : (s.until (s.nextEdge p)).tick = s.nextEdge p :=
  Nat.max_eq_right (Nat.le_of_lt (s.tick_lt_nextEdge p hp))

/-! ## The cap -/

/-- R711: DERATE_W is limited to 5,200. -/
theorem derate_le (flow inlet : Nat) : derate flow inlet ≤ 5200 := by
  unfold derate
  split
  · exact Nat.min_le_left _ _
  · exact Nat.zero_le _

/-! ## The parts of a reading -/

/-- The cooling conditions of R710 that a reading shows to hold. -/
def Coolant.fine (r : Coolant) : Bool := decide (600 ≤ r.flow.toNat ∧ 15 ≤ r.inlet.toNat ∧ r.inlet.toNat ≤ 40)

/-- The power state after a reading: a thermal trip ends once the conditions of R710 hold (R712). -/
def PwrSt.cooled (p : PwrSt) (r : Coolant) : PwrSt := { p with thermal := p.thermal && !r.fine }

/-- The state in which a reading is seen: the next 10 ms edge, with the thermal trip ended or not. -/
def State.atReading (s : State) (r : Coolant) : State :=
  { s.until (s.nextEdge (10 * ms)) with pwr := s.pwr.cooled r }

/-- R711: what Beryl writes to `PWR_COOL`. -/
def State.showCoolant (s : State) (r : Coolant) : State :=
  ((((s.setFld R.pwrCool F.pwrCool_inletT r.inlet.toNat).setFld R.pwrCool F.pwrCool_outletT r.outlet.toNat).setFld
    R.pwrCool F.pwrCool_flow r.flow.toNat).setFld
    R.pwrCool F.pwrCool_coolWarn (b2n (decide (r.flow.toNat < 600 ∨ 40 < r.inlet.toNat)))).setFld
    R.pwrCool F.pwrCool_derateW (derate r.flow.toNat r.inlet.toNat)

/-- The state at the reading, as the model's own branch on the three conditions. -/
theorem State.atReading_eq (s : State) (r : Coolant) :
    s.atReading r = if decide (600 ≤ r.flow.toNat) && decide (15 ≤ r.inlet.toNat) && decide (r.inlet.toNat ≤ 40) then
      { s.until (s.nextEdge (10 * ms)) with pwr := { s.pwr with thermal := false } } else s.until (s.nextEdge (10 * ms)) := by
  have hf : (decide (600 ≤ r.flow.toNat) && decide (15 ≤ r.inlet.toNat) && decide (r.inlet.toNat ≤ 40)) = r.fine := by
    simp [Coolant.fine, Bool.and_assoc]
  rw [hf, State.atReading, PwrSt.cooled]
  cases r.fine
  · simp [State.until]
  · simp

/-- A reading is seen at the edge; a running module shows it, and one that is down may start. -/
theorem coolantReading_eq (r : Coolant) (s : State) :
    coolantReading r s = ((if s.running then (s.atReading r).showCoolant r else (s.atReading r).tryStart).answer .ok) := by
  unfold coolantReading
  dsimp only [State.until_pwr]
  rw [← State.atReading_eq, ← Bool.decide_or]
  split <;> rfl

/-- R711: the reading is seen at the next 10 ms edge. -/
theorem State.atReading_tick (s : State) (r : Coolant) :
    (s.atReading r).tick = (s.tick / 10_000_000 + 1) * 10_000_000 :=
  s.until_nextEdge_tick (10 * ms) (by decide)

/-! ## What `PWR_COOL` shows -/

section
variable (s : State) (r : Coolant)

theorem State.showCoolant_inletT : (s.showCoolant r).fld R.pwrCool F.pwrCool_inletT = r.inlet.toNat := by
  simp (disch := decide) only [State.showCoolant, State.fld_setFld_other, State.fld_setFld]
  exact Nat.mod_eq_of_lt r.inlet.isLt

theorem State.showCoolant_outletT : (s.showCoolant r).fld R.pwrCool F.pwrCool_outletT = r.outlet.toNat := by
  simp (disch := decide) only [State.showCoolant, State.fld_setFld_other, State.fld_setFld]
  exact Nat.mod_eq_of_lt r.outlet.isLt

theorem State.showCoolant_flow : (s.showCoolant r).fld R.pwrCool F.pwrCool_flow = r.flow.toNat := by
  simp (disch := decide) only [State.showCoolant, State.fld_setFld_other, State.fld_setFld]
  exact Nat.mod_eq_of_lt r.flow.isLt

theorem State.showCoolant_coolWarn :
    (s.showCoolant r).flag R.pwrCool F.pwrCool_coolWarn = decide (r.flow.toNat < 600 ∨ 40 < r.inlet.toNat) := by
  simp (disch := decide) only [State.flag, State.showCoolant, State.fld_setFld_other, State.fld_setFld]
  cases decide (r.flow.toNat < 600 ∨ 40 < r.inlet.toNat) <;> rfl

theorem State.showCoolant_derateW :
    (s.showCoolant r).fld R.pwrCool F.pwrCool_derateW = derate r.flow.toNat r.inlet.toNat := by
  simp (disch := decide) only [State.showCoolant, State.fld_setFld]
  exact Nat.mod_eq_of_lt (Nat.lt_of_le_of_lt (derate_le _ _) (by decide))

theorem State.showCoolant_regsKept : RegsKept s (s.showCoolant r) [R.pwrCool] := by
  intro a ha
  have hne : a ≠ R.pwrCool := by simpa using ha
  simp only [State.showCoolant, State.reg_setFld_ne _ _ _ _ _ hne]

end

/-! ## Starting -/

/-- R704, R712, R716: the power state with the power-on begun once nothing holds the module down. -/
def PwrSt.tryStart (p : PwrSt) : PwrSt :=
  if p.phase = .standby ∧ p.enable = true ∧ p.waitVin = false ∧ p.waitOn = false ∧ p.thermal = false then
    { p with phase := .starting } else p

/-- Starting changes the power state alone. -/
theorem State.tryStart_eq (s : State) : s.tryStart = { s with pwr := s.pwr.tryStart } := by
  unfold State.tryStart PwrSt.tryStart
  simp only [Bool.not_eq_true']
  split <;> rfl

/-! ## The command -/

/-- A reading acts at once: it never waits, and the queue is as it was. -/
theorem exec_coolantReading (r : Coolant) (s : State) :
    exec (.coolantReading r) s = .next { coolantReading r s.fresh with pending := s.pending, hold := false } := by
  refine State.run_of_goes s (coolantReading r) ?_
  rw [coolantReading_eq]
  split
  · rfl
  · rw [State.tryStart_eq]; rfl

/-- On a running module: the state at the reading, shown in `PWR_COOL`. -/
theorem exec_coolantReading_running (r : Coolant) (s : State) (h : s.running = true) :
    exec (.coolantReading r) s = .next { ((s.atReading r).showCoolant r).answer .ok with hold := false } := by
  rw [exec_coolantReading, coolantReading_eq, if_pos (show s.fresh.running = true from h)]
  rfl

/-- On a module that is down: the state at the reading, starting when nothing holds the module down. -/
theorem exec_coolantReading_down (r : Coolant) (s : State) (h : s.running = false) :
    exec (.coolantReading r) s = .next { (s.atReading r).answer .ok with pwr := (s.pwr.cooled r).tryStart, hold := false } := by
  have hn : ¬ s.fresh.running = true := by rw [show s.fresh.running = s.running from rfl, h]; decide
  rw [exec_coolantReading, coolantReading_eq, if_neg hn, State.tryStart_eq]
  rfl

/-- Settles O58: by whether the module runs. A running one shows the reading in `PWR_COOL`, one that is down may start,
and both see it at the next 10 ms edge; the power state and the frame are those of the state at the reading. -/
theorem coolantReadings : Obligations.CoolantReadings := by
  intro s r
  cases h : s.running with
  | true =>
    exact ⟨_, exec_coolantReading_running r s h, rfl, s.atReading_tick r, fun _ => ⟨State.showCoolant_inletT _ r, State.showCoolant_outletT _ r, State.showCoolant_flow _ r,
      State.showCoolant_coolWarn _ r, State.showCoolant_derateW _ r, rfl,
      ⟨rfl, (s.atReading r).showCoolant_regsKept r⟩⟩, nofun⟩
  | false =>
    exact ⟨_, exec_coolantReading_down r s h, rfl, s.atReading_tick r, nofun, fun _ => ⟨rfl, rfl⟩⟩

end Sys2Proof.Machine
end

section
/-!
PROOFS. Correctable detections (R739, R740): when one merges into the newest correctable record, what a record of its own
changes, and that its interrupt source is raised.
-/

namespace Sys2Proof.Machine

/-! ## Raising an interrupt source -/

/-- Pending identities change only in the interrupt files: registers read as before. -/
@[simp] theorem State.setIp_fld (s : State) (page ident a : Nat) (f : Fld) : (s.setIp page ident).fld a f = s.fld a f :=
  State.fld_congr (by simp) a f

/-- R103: an identity from 1 to 255 is pending in its file once it has been written there. -/
theorem State.setIp_pending_bit (s : State) (page ident : Nat) (hpos : ident ≠ 0) (hle : ident ≤ 255) :
    ((s.setIp page ident).file page).getLsbD ident = true := by
  have hid : ¬ (ident = 0 ∨ 255 < ident) := by omega
  simp only [State.setIp, if_neg hid, State.file, Sparse.get_set_same, BitVec.getLsbD_or, BitVec.getLsbD_twoPow]
  simp only [decide_true, Bool.and_true, Bool.or_eq_true, decide_eq_true_eq]
  omega

/-- R103, R104: after its event a source entry is pending itself, or its identity is pending in the file it names. -/
theorem State.msiEntry_event (s : State) (addr ctrl : Nat) (hne : addr ≠ ctrl) :
    (s.msiEntry addr ctrl true).flag ctrl F.msiCtrl_pend = true
      ∨ ((s.msiEntry addr ctrl true).file ((s.msiEntry addr ctrl true).fld addr F.msiAddr_file * 0x1000 - regSpace)).getLsbD
          ((s.msiEntry addr ctrl true).fld ctrl F.msiCtrl_ident) = true := by
  simp only [State.msiEntry, Bool.true_or, if_true]
  split
  next hsent =>
    right
    simp (disch := decide) only [State.fld_setFld_ne _ _ _ _ _ _ hne, State.fld_setFld_other, State.setIp_fld]
    have hident : s.fld ctrl F.msiCtrl_ident ≠ 0 := by
      intro h0
      simp [h0] at hsent
    have hlt : s.fld ctrl F.msiCtrl_ident < 2 ^ 8 := Fld.get_lt F.msiCtrl_ident _
    exact s.setIp_pending_bit _ _ hident (by omega)
  next =>
    left
    simp (disch := decide) only [State.flag, State.fld_setFld_other, State.fld_setFld]
    decide

/-- Raising an interrupt source leaves every die in or out of service. -/
@[simp] theorem State.raise_up (s : State) (site i n : Nat) : (s.raise site i).up n = s.up n := by
  rw [(s.raise_frame site i).1]
  rfl

/-- R103: a source that raises its event has been raised. -/
theorem State.raise_raised (s : State) (site i : Nat) : raised (s.raise site i) site i := by
  intro hup
  rw [State.raise_up] at hup
  rw [State.raise, if_pos hup]
  exact s.msiEntry_event _ _ (by simp only [R.msiAddr, R.msiCtrl]; omega)

/-! ## A record of its own -/

/-- RAS_PROD is the control register of no interrupt source that a detection raises. -/
theorem R.rasProd_ne_msiCtrl (s : State) (d : Detection) (site : Nat) :
    R.rasProd ≠ R.msiCtrl site (errSource s d).2 := by
  simp only [R.rasProd, R.msiCtrl, errSource]
  split <;> omega

section
variable (s : State) (d : Detection)

/-- R739: a record in a free slot is written in three parts: the record itself, RAS_PROD moved past its SEQ, and the
interrupt. -/
theorem State.rasPut_none : s.rasPut d none =
    (({ s with ras := s.ras ++ [⟨s.fld R.rasProd F.rasProd_prod, s.tick, d, 1⟩] } : State).setFld R.rasProd F.rasProd_prod
      (s.fld R.rasProd F.rasProd_prod + 1)).raise (errSource s d).1 (errSource s d).2 := rfl

theorem State.rasPut_none_ras :
    (s.rasPut d none).ras = s.ras ++ [⟨s.fld R.rasProd F.rasProd_prod, s.tick, d, 1⟩] := by
  rw [State.rasPut_none, (State.raise_frame _ _ _).1]
  rfl

theorem State.rasPut_none_prod :
    (s.rasPut d none).fld R.rasProd F.rasProd_prod = (s.fld R.rasProd F.rasProd_prod + 1) % 2 ^ 64 := by
  rw [State.rasPut_none, State.fld, (State.raise_frame _ _ _).2 _ (R.rasProd_ne_msiCtrl s d _)]
  exact State.fld_setFld _ _ F.rasProd_prod _ (by decide)

theorem State.rasPut_none_raised : raised (s.rasPut d none) (errSource s d).1 (errSource s d).2 := by
  rw [State.rasPut_none]
  exact State.raise_raised _ _ _

/-- A record in a free slot changes the records, registers and pending identities alone. -/
theorem State.rasPut_none_frame : s.rasPut d none =
    { s with ras := (s.rasPut d none).ras, regs := (s.rasPut d none).regs, imsic := (s.rasPut d none).imsic } := by
  rw [State.rasPut_none, (State.raise_frame _ _ _).1]
  rfl

theorem State.rasPut_none_regsKept : RegsKept s (s.rasPut d none) (errRegs s d) := by
  intro a ha
  simp only [errRegs, List.mem_cons, List.not_mem_nil, or_false, not_or] at ha
  obtain ⟨hprod, -, hmsi⟩ := ha
  rw [State.rasPut_none, (State.raise_frame _ _ _).2 a hmsi, State.reg_setFld_ne _ _ _ _ _ hprod]
  rfl

end

/-! ## Merging or writing -/

/-- R740: the five fields are equal and the 1 ms of the record has not ended. -/
theorem RasRec.merges_iff (r : RasRec) (d : Detection) (now : Nat) :
    r.merges d now = true ↔
      (r.det.cls = d.cls ∧ r.det.die = d.die ∧ r.det.unit = d.unit ∧ r.det.code = d.code ∧ r.det.addr = d.addr)
        ∧ now < r.tick + 1_000_000 := by
  simp only [RasRec.merges, Bool.and_eq_true, decide_eq_true_eq, and_assoc]

section
variable {s : State} {d : Detection} {n : RasRec}
variable (hsev : d.severity = 0) (hnew : newestRec (fun r => decide (r.det.severity = 0)) s.ras = some n)
include hsev hnew

/-- R740: a correctable error that merges raises the count of the newest correctable record alone. -/
theorem State.rasWrite_of_merges (hm : n.merges d s.tick = true) : s.rasWrite d =
    { s with ras := s.ras.map (fun r => if r.seq = n.seq then { r with count := min (r.count + 1) (2 ^ 32 - 1) } else r) } := by
  simp only [State.rasWrite, hsev, decide_true, if_true, hnew, hm]

/-- R740, R741: one that does not merge takes a free slot. -/
theorem State.rasWrite_of_not_merges (hm : ¬ n.merges d s.tick = true) (hfree : s.ras.length < rasSlots) :
    s.rasWrite d = s.rasPut d none := by
  simp only [State.rasWrite, hsev, decide_true, if_true, hnew, if_neg hm, State.rasAdmit, if_pos hfree]

end

/-! ## The command -/

/-- A corrected error in a cache (codes 1 and 2 of R738) has no effect beyond its record. -/
theorem State.cacheError_of_corrected (s : State) (d : Detection) (h : d.code = 1 ∨ d.code = 2) : s.cacheError d = s := by
  obtain h | h := h <;> simp [State.cacheError, h]

/-- A corrected error in an engine's memory (code 1 of R738) has no effect beyond its record. -/
theorem State.engineError_of_corrected (s : State) (d : Detection) (h : d.code = 1) : s.engineError d = s := by
  simp [State.engineError, h]

/-- R738: what the table of correctable errors says of the three classes whose errors can have an effect of their own. -/
theorem Detection.isCe_effects (d : Detection) (h : d.isCe = true) :
    ¬ d.cls = 7 ∧ (d.cls = 4 → d.code = 1 ∨ d.code = 2) ∧ (d.cls = 5 → d.code = 1) := by
  simp only [Detection.isCe, Bool.or_eq_true, Bool.and_eq_true, decide_eq_true_eq] at h
  refine ⟨fun h7 => ?_, fun h4 => ?_, fun h5 => ?_⟩
  · simp [h7] at h
  · simpa [h4] using h
  · simpa [h5] using h

/-- A correctable detection does what it does to the records, and nothing else. -/
theorem errorDetection_ce (s : State) (d : Detection) (hup : s.running = true ∨ s.up 0 = true) (hce : d.isCe = true)
    (hgoes : s.hold = false) : errorDetection d s = (s.rasWrite d).answer .ok := by
  obtain ⟨hdie, hcache, hengine⟩ := d.isCe_effects hce
  have hrun : ¬ ((!s.running) = true ∧ (!s.up 0) = true) := by
    rcases hup with h | h <;> simp [h]
  have hhold : ((s.rasWrite d).answer .ok).hold = false := by rw [State.answer_hold, State.rasWrite_hold, hgoes]
  simp only [errorDetection, State.commit, if_neg hrun, hdie, false_and, if_false]
  split
  next h4 => rw [State.cacheError_of_corrected _ _ (hcache h4), hhold]; rfl
  next =>
    split
    next h5 => rw [State.engineError_of_corrected _ _ (hengine h5.1), hhold]; rfl
    next => rw [hhold]; rfl

/-- The command keeps the queue and answers `ok`. -/
theorem exec_errorDetection_ce (s : State) (d : Detection) (hup : s.running = true ∨ s.up 0 = true) (hce : d.isCe = true) :
    exec (.errorDetection d) s =
      .next { (s.fresh.rasWrite d).answer .ok with pending := s.pending, hold := false } := by
  have hbody := errorDetection_ce s.fresh d hup hce rfl
  rw [← hbody]
  exact State.run_of_goes s (errorDetection d) (by rw [hbody, State.answer_hold, State.rasWrite_hold, State.fresh_hold])

/-- Settles O60: by whether the detection merges into the newest correctable record. One that does changes that record's
count alone; one that does not is put in a free slot. -/
theorem mergedErrors : Obligations.MergedErrors := by
  intro s d n hup hsev hce hnew same
  have hdoes := exec_errorDetection_ce s d hup hce
  refine ⟨fun hsame htick => ?_, fun hdiff hfree => ?_⟩
  · have hw := State.rasWrite_of_merges (s := s.fresh) hsev hnew ((n.merges_iff d s.tick).2 ⟨hsame, htick⟩)
    rw [hw] at hdoes
    exact ⟨_, hdoes, rfl, rfl, rfl, fun _ _ => rfl⟩
  · have hm : ¬ n.merges d s.tick = true := by
      rw [RasRec.merges_iff]
      rintro ⟨hsame, htick⟩
      exact hdiff.elim (fun h => h hsame) (fun h => absurd htick (Nat.not_lt.2 h))
    rw [State.rasWrite_of_not_merges (s := s.fresh) hsev hnew hm hfree] at hdoes
    refine ⟨_, hdoes, rfl, s.fresh.rasPut_none_ras d, s.fresh.rasPut_none_prod d, s.fresh.rasPut_none_raised d, ?_,
      s.fresh.rasPut_none_regsKept d⟩
    rw [s.fresh.rasPut_none_frame d]
    rfl

end Sys2Proof.Machine
end
